-- ==== Sys2Proof/Word.lean ====
section
/-!
DEFINITION. The word types of the Valvan. A register is 32 bits (R4), a vector register 512 bits and a
predicate 64 bits (R58), and memory is addressed by the byte (R3, R66).
-/
namespace Sys2Proof

/-- A register, an instruction word, a command word (R4, R87). -/
abbrev Word := BitVec 32

/-- One byte of memory (R3). -/
abbrev Byte := BitVec 8

/-- A 64-bit memory word, the unit of the check code (R495). -/
abbrev DWord := BitVec 64

/-- A vector register (R58). -/
abbrev VReg := BitVec 512

/-- A physical tile, 0 to 1,727 (R30). -/
abbrev TileIx := Fin 1728

/-- A physical mill, 0 to 215 (R30). -/
abbrev MillIx := Fin 216

/-- An image context, 0 to 15 (R449). -/
abbrev ICtx := Fin 16

/-- A hardware context of a tile: 0 is S, 1 to 3 are the workers (R51). -/
abbrev HCtx := Fin 4

/-- A Flume port F0 to F17 (R398). -/
abbrev Port := Fin 18

/-- A slot of a mill's accumulator memory (R102). -/
abbrev SlotIx := Fin 16

end Sys2Proof
end

