-- ==== Sys2Proof/Args.lean ====
section
/-!
DEFINITION. The operands of commands: the instruction forms a bundle slot can hold, and the requesters, packets and
messages that the events of the opcode table name. Instr itself is in Sys2Proof/Syntax.lean.
-/
namespace Sys2Proof

/-- The scalar integer operations of R93. -/
inductive AluOp where
  | add | sub | and | or | xor | shl | shr | sra | mul | min | max
  deriving DecidableEq, Repr

/-- The conditions of a scalar compare. The manual names none: these are presumed (log 10). -/
inductive CmpCond where
  | eq | ne | lt | ge | ltu | geu
  deriving DecidableEq, Repr

/-- The widths of a scalar access (R74). -/
inductive MemSize where
  | b1 | b2 | b4
  deriving DecidableEq, Repr

/-- The element formats of the TVU (R81 to R83). FP8 is E4M3 or E5M2 (R152). -/
inductive LaneFmt where
  | f32 | bf16 | f16 | e4m3 | e5m2 | i8
  deriving DecidableEq, Repr

/-- Lane arithmetic (R81). The manual names no list: add, subtract, multiply, fused multiply-add, minimum and
maximum are presumed (log 10). -/
inductive LaneOp where
  | add | sub | mul | fma | min | max
  deriving DecidableEq, Repr

/-- Conditions of a vector compare, presumed (log 10). -/
inductive LaneCond where
  | eq | lt | le
  deriving DecidableEq, Repr

/-- Lane moves (R59): a whole vector register, a lane to a scalar register, a scalar register to a lane (log 10). -/
inductive LaneMove where
  | mov | ext | ins
  deriving DecidableEq, Repr

/-- The SFU functions of R85. -/
inductive SfuFn where
  | exp | log | rsqrt | recip
  deriving DecidableEq, Repr

/-- Every instruction that a bundle slot can hold (R93, R94). -/
inductive TileOp where
  | nop
  | alu (f : AluOp)
  | aluImm (f : AluOp)
  | cmp (c : CmpCond)
  | br | call | jr
  | load (n : MemSize)
  | store (n : MemSize)
  | vld | vst
  | varith (f : LaneOp) (fmt : LaneFmt)
  | vcmp (c : LaneCond) (fmt : LaneFmt)
  | vmove (m : LaneMove)
  | vbcast
  | vred
  | sfu (f : SfuFn)
  | syncSig | syncWait | syncPoll | syncArm
  | hopSend | hopStat | hopRsend | hopRfree | hopClose
  | millMma | millDrain | millSmode | millQstat | millFence
  | slcIssue | slcStat | slcWait | slcLim
  | memFill | memCopy
  | cvtSt | cvtLd | cvtBf | cvtF32
  | sysCsrr | sysCsrw | sysStart | sysResume | sysStop | sysTret | sysExit | sysHalt | sysBrk
  deriving DecidableEq, Repr

/-- One slot of a bundle: the instruction and its word (R86, R87). -/
structure Slot where
  op : TileOp
  word : Word
  deriving DecidableEq, Repr

/-- The issue of one instruction: the tile and the hardware context, the instruction's word, whether it stands in
slot B, and the instruction in the bundle's other slot. -/
structure Issue where
  tile : TileIx
  ctx : HCtx
  word : Word
  inB : Bool
  mate : Slot
  deriving DecidableEq, Repr

/-- A Flume frame (R400, R401). `lseq` is the number its link direction gave it; `enc`: it crossed the link protected (R409). -/
structure Frame where
  cls : Nat
  kind : Nat
  ttl : Nat
  keyId : Bool
  dfa : Nat
  sfa : Nat
  job : Word
  lseq : Nat
  flow : Nat
  arg0 : Word
  arg1 : Word
  arg2 : Word
  payload : List Byte
  enc : Bool := false
  deriving DecidableEq, Repr

/-- Who makes a register access: a PCIe function (0 the PF, 1 to 16 the VFs, R448), Skeop, or a tile by `sys.csrr`
and `sys.csrw`. -/
inductive Requester where
  | host (f : Fin 17)
  | skeop
  | tile (t : TileIx) (c : HCtx)
  deriving DecidableEq, Repr

/-- The buses a management message arrives on (SKP_ERR_ADDR_HI.BUS, R572): I3C or SMBus, a PCIe message of the PF or of a VF,
the out-of-band port. -/
inductive Bus where
  | twoWire | pcie | pcieVf | oob
  deriving DecidableEq, Repr

/-- A management request: its bus, the requester's endpoint ID, the SPDM session it travels in, if any, and whether
another authorised command is running (R579). -/
structure MgmtReq where
  bus : Bus
  eid : Byte
  session : Option Nat
  busy : Bool
  deriving DecidableEq, Repr

end Sys2Proof
end

