-- ==== Sys2Proof/Syntax.lean ====
section
/-!
DEFINITION. The commands of the Valvan: one constructor for every row of the table of operations and events. Each
docstring names the rule that governs the row and says what the row stands for.
-/
namespace Sys2Proof

/-- A command. -/
inductive Instr where
  /-- R5: REGISTER_WRITE: A host, Skeop or sys.csrw write to a register that has no row of its own: size,
  alignment, reserved-bit and lock checks are made, then RW, W1C and W1S fields are updated and _LO/_HI halves are
  held or committed. -/
  | registerWrite (who : Requester) (off : Nat) (len : Nat) (data : Nat)
  /-- R8: REGISTER_READ_LO: A read of a _LO register returns its value and captures the _HI half into a holding
  copy for the next _HI read. -/
  | registerReadLo (who : Requester) (off : Nat)
  /-- R41: ILLEGAL_REGISTER_READ: A read of a reserved offset, or a read with an illegal size or alignment,
  returns 0 and is captured as a violation. -/
  | illegalRegisterRead (who : Requester) (off : Nat) (len : Nat)
  /-- R86: NOP: The nop instruction issues and has no effect. -/
  | nop (i : Issue)
  /-- R93: ADD: The scalar integer add instruction writes rd. -/
  | add (i : Issue)
  /-- R93: SUB: The scalar integer sub instruction writes rd. -/
  | sub (i : Issue)
  /-- R93: AND: The scalar integer and instruction writes rd. -/
  | and (i : Issue)
  /-- R93: OR: The scalar integer or instruction writes rd. -/
  | or (i : Issue)
  /-- R93: XOR: The scalar integer xor instruction writes rd. -/
  | xor (i : Issue)
  /-- R93: SHL: The scalar shift-left instruction writes rd. -/
  | shl (i : Issue)
  /-- R93: SHR: The scalar logical shift-right instruction writes rd. -/
  | shr (i : Issue)
  /-- R93: SRA: The scalar arithmetic shift-right instruction writes rd. -/
  | sra (i : Issue)
  /-- R93: MUL: The scalar multiply instruction writes rd after 3 cycles. -/
  | mul (i : Issue)
  /-- R93: MIN: The scalar min instruction writes rd. -/
  | min (i : Issue)
  /-- R93: MAX: The scalar max instruction writes rd. -/
  | max (i : Issue)
  /-- R93: SCALAR_IMMEDIATE: A scalar integer instruction with a 13-bit immediate operand writes rd. -/
  | scalarImmediate (f : AluOp) (i : Issue)
  /-- R59: COMPARE_TO_PREDICATE: A scalar compare writes a predicate register. -/
  | compareToPredicate (c : CmpCond) (i : Issue)
  /-- R93: BR: A predicated relative branch. -/
  | br (i : Issue)
  /-- R93: CALL: A relative branch that writes the return address to s31. -/
  | call (i : Issue)
  /-- R93: JR: A jump to the address in ra, trapping with ALIGN when the target is misaligned. -/
  | jr (i : Issue)
  /-- R71: SCALAR_LOAD: A 1-, 2- or 4-byte load is checked against the bound and alignment, reads tile memory
  through a port and writes rt. -/
  | scalarLoad (n : MemSize) (i : Issue)
  /-- R67: SCALAR_STORE: A 1-, 2- or 4-byte store does a read-modify-write of its 8-byte word in tile memory. -/
  | scalarStore (n : MemSize) (i : Issue)
  /-- R71: VLD: A 64-byte vector load from tile memory into a vector register. -/
  | vld (i : Issue)
  /-- R71: VST: A 64-byte vector store from a vector register to tile memory. -/
  | vst (i : Issue)
  /-- R81: VECTOR_ARITHMETIC: A TVU lane arithmetic or FMA instruction in FP32, BF16, FP16, FP8 or INT8,
  predicated per lane. -/
  | vectorArithmetic (f : LaneOp) (fmt : LaneFmt) (i : Issue)
  /-- R59: VECTOR_COMPARE: A vector compare writes a lane mask. -/
  | vectorCompare (c : LaneCond) (fmt : LaneFmt) (i : Issue)
  /-- R59: LANE_MOVE: A lane move writes a vector or scalar register. -/
  | laneMove (m : LaneMove) (i : Issue)
  /-- R59: BROADCAST: A broadcast writes every enabled lane of a vector register. -/
  | broadcast (i : Issue)
  /-- R84: VRED_ADD: Sums the 16 FP32 lanes in a fixed pairwise tree into lane 0. -/
  | vredAdd (i : Issue)
  /-- R85: SFU_EXP: The SFU computes exp on 16 FP32 lanes. -/
  | sfuExp (i : Issue)
  /-- R85: SFU_LOG: The SFU computes log on 16 FP32 lanes. -/
  | sfuLog (i : Issue)
  /-- R85: SFU_RSQRT: The SFU computes rsqrt on 16 FP32 lanes. -/
  | sfuRsqrt (i : Issue)
  /-- R85: SFU_RECIP: The SFU computes recip on 16 FP32 lanes. -/
  | sfuRecip (i : Issue)
  /-- R61: TRAP_TAKE: S takes a queued worker trap before its next issue: it saves its pc, sets INH and continues
  at TILE_TRAP_VEC, leaving WAIT if needed. -/
  | trapTake (t : TileIx)
  /-- R242: SYNC_SIG: A counted signal adds 1 to SIG and rb bytes to ANN of the translated object and sends it up
  the counter tree. -/
  | syncSig (i : Issue)
  /-- R240: SYNC_WAIT: Sends an arrival to the object and stops the context's clock in WAIT until its phase fires.
  -/
  | syncWait (i : Issue)
  /-- R240: SYNC_POLL: Returns the object's state and phase number without arriving, or 0xFFFF_FFFF when refused.
  -/
  | syncPoll (i : Issue)
  /-- R253: SYNC_ARM: Re-arms a BROKEN shared object to IDLE. -/
  | syncArm (i : Issue)
  /-- R259: HOP_SEND: Takes a channel credit and posts one 8-byte HOP message to the channel's destination hopper.
  -/
  | hopSend (i : Issue)
  /-- R92: HOP_STAT: Returns hstat, the occupancy of the tile's eight hoppers. -/
  | hopStat (i : Issue)
  /-- R263: HOP_RSEND: Posts a variable-length record to a receive ring once ring space exists, with a wrap marker
  where needed. -/
  | hopRsend (i : Issue)
  /-- R266: HOP_RFREE: Adds bytes to FREED of a local ring and returns the space to the writing channel. -/
  | hopRfree (i : Issue)
  /-- R267: HOP_CLOSE: Closes a local hopper or ring and discards its queued entries. -/
  | hopClose (i : Issue)
  /-- R90: HOPPER_OPERAND_READ: An instruction consumes half of a hopper entry, freeing the entry on the second
  read and returning a credit, or traps with HOP_EMPTY. -/
  | hopperOperandRead (op : TileOp) (i : Issue)
  /-- R108: MILL_MMA: Checks a matrix pass command and queues it in the mill command queue, or refuses it and puts
  the queue in FAULT. -/
  | millMma (i : Issue)
  /-- R126: MILL_DRAIN: Checks a drain command and queues it. -/
  | millDrain (i : Issue)
  /-- R125: MILL_SMODE: Checks a slot clear-and-mode command and queues it. -/
  | millSmode (i : Issue)
  /-- R105: MILL_QSTAT: Returns the number of free mill queue entries. -/
  | millQstat (i : Issue)
  /-- R110: MILL_FENCE: Holds the context until every command the tile queued earlier has completed. -/
  | millFence (i : Issue)
  /-- R283: SLC_ISSUE: Reads and checks a stream descriptor and copies it into a Sluice queue. -/
  | slcIssue (i : Issue)
  /-- R285: SLC_STAT: Returns a queue's status word. -/
  | slcStat (i : Issue)
  /-- R286: SLC_WAIT: Stalls the context until the queue is EMPTY or in HALT. -/
  | slcWait (i : Issue)
  /-- R294: SLC_LIM: Sets a queue's limit of outstanding requests. -/
  | slcLim (i : Issue)
  /-- R77: MEM_FILL: Checks its operands and starts the memory engine writing a 32-bit pattern over an extent. -/
  | memFill (i : Issue)
  /-- R78: MEM_COPY: Checks its operands and starts the memory engine copying an extent as though the whole source
  were read first. -/
  | memCopy (i : Issue)
  /-- R173: CVT_ST: Selects a block scale, narrows one block and stores the packed elements and the scale, then
  advances TILE_CVT_SPTR. -/
  | cvtSt (i : Issue)
  /-- R174: CVT_LD: Widens one block-scaled block to FP32 lanes. -/
  | cvtLd (i : Issue)
  /-- R175: CVT_BF: Narrows 32 FP32 values to BF16. -/
  | cvtBf (i : Issue)
  /-- R175: CVT_F32: Widens 32 BF16 values to FP32 exactly. -/
  | cvtF32 (i : Issue)
  /-- R99: SYS_CSRR: Reads a register of the tile's register page. -/
  | sysCsrr (i : Issue)
  /-- R99: SYS_CSRW: Writes a register of the tile's register page. -/
  | sysCsrw (i : Issue)
  /-- R98: SYS_START: S starts an IDLE worker at an entry pc after the operand, state and region checks. -/
  | sysStart (i : Issue)
  /-- R98: SYS_RESUME: S resumes a TRAPPED worker, retrying or skipping the trapped bundle. -/
  | sysResume (i : Issue)
  /-- R98: SYS_STOP: S sets a worker to IDLE, withdrawing its queued trap or removing it from the object's
  waiters. -/
  | sysStop (i : Issue)
  /-- R61: SYS_TRET: S clears INH and returns from its trap handler, resuming WAIT or acting on a fire recorded
  meanwhile. -/
  | sysTret (i : Issue)
  /-- R484: SYS_EXIT: Sets the context to IDLE. In S it also ends the tile's program, idles the workers and closes
  the tile's queues. -/
  | sysExit (i : Issue)
  /-- R63: SYS_HALT: S halts the tile. -/
  | sysHalt (i : Issue)
  /-- R64: SYS_BRK: Traps with BREAK. -/
  | sysBrk (i : Issue)
  /-- R54: QUEUE_STALL_RESUME: A context stalled on a full queue, a missing credit or ring space, or a busy unit
  issues once the resource frees. -/
  | queueStallResume (t : TileIx) (c : HCtx)
  /-- R79: MEM_ENGINE_DONE: A mem.fill or mem.copy completes, or stops on an uncorrectable source word, and the
  issuing context resumes. -/
  | memEngineDone (t : TileIx)
  /-- R110: MILL_FENCE_RETURN: mill.fence returns its status once the awaited commands have completed. -/
  | millFenceReturn (t : TileIx) (c : HCtx)
  /-- R133: PASS_START: A queued matrix pass starts once its ordering conditions hold, freeing its queue entry and
  reading its slot state. -/
  | passStart (m : MillIx)
  /-- R134: WEIGHT_LOAD_START: A WLD pass begins loading its weights into the inactive set once that set and port
  0 are free. -/
  | weightLoadStart (m : MillIx)
  /-- R134: WEIGHT_SET_ACTIVE: The loaded weight set becomes active 5 cycles after its last weight read. -/
  | weightSetActive (m : MillIx)
  /-- R133: PASS_FINISH: A pass writes its last slot row and finishes. -/
  | passFinish (m : MillIx)
  /-- R147: DRAIN_START: A queued drain starts once earlier commands on its slot have finished. -/
  | drainStart (m : MillIx)
  /-- R143: DRAIN_FINISH: A drain writes its last data row and scale words to the eight tiles and finishes. -/
  | drainFinish (m : MillIx)
  /-- R125: SMODE_START: A queued mill.smode starts clearing its slot. -/
  | smodeStart (m : MillIx)
  /-- R125: SMODE_FINISH: A mill.smode finishes with the write of slot row 127. -/
  | smodeFinish (m : MillIx)
  /-- R195: EXCHANGE_RELEASE: The superstep barrier release reaches a tile's exchange sequencer, which reads its
  XCB and begins the setup pass. -/
  | exchangeRelease (t : TileIx)
  /-- R202: EXCHANGE_SETUP_END: The setup pass ends: the tile port opens and combining credits go out, or a
  refusal writes XSTAT and raises an exchange error. -/
  | exchangeSetupEnd (t : TileIx)
  /-- R205: SEND_PACKET_ISSUE: A SEND entry reads and injects its next packet once it holds a credit for the first
  hop. -/
  | sendPacketIssue (t : TileIx)
  /-- R282: STREAM_ENTRY_ISSUE: An exchange STREAM entry issues its descriptor into the tile's Sluice queue. -/
  | streamEntryIssue (t : TileIx)
  /-- R214: PACKET_HOP: A router takes a packet against a buffer credit and forwards it in dimension order, moving
  it to an escape lane at a blocked router or discarding a header whose VC does not match its KIND. -/
  | packetHop (n : Nat)
  /-- R227: DATA_PACKET_ARRIVE: A DATA packet reaches its destination tile and is written into its RECV region and
  counted, or refused; the LAST packet is answered. -/
  | dataPacketArrive (n : Nat)
  /-- R206: ANSWER_PACKET_ARRIVE: An ANSWER packet reaches its sender, completing a SEND, returning a hopper
  credit or reporting a refusal. -/
  | answerPacketArrive (n : Nat)
  /-- R224: PASS_PACKET_ARRIVE: A pass-along packet is written at a chain tile, counted, and forwarded to NEXT or
  answered at the END tile. -/
  | passPacketArrive (n : Nat)
  /-- R222: PART_PACKET_ARRIVE: A reduction chunk from a child reaches its parent node's reserved buffer. -/
  | partPacketArrive (n : Nat)
  /-- R222: COMBINING_CREDIT_ARRIVE: A combining credit, sent as a SIG packet to the sequencer, lets a child send
  another chunk. -/
  | combiningCreditArrive (n : Nat)
  /-- R220: RED_CHUNK_COMBINE: A node adds a chunk in fixed operand order once every input holds it, then forwards
  or delivers the sum and returns credits. -/
  | redChunkCombine (t : TileIx) (e : Nat)
  /-- R196: EXCHANGE_PHASE_END: A tile's exchange phase ends: XSTAT and XCYC are written and contexts waiting at
  the barrier resume. -/
  | exchangePhaseEnd (t : TileIx)
  /-- R219: PACKET_TO_FENCED_TILE: A packet addressed to a fenced tile is discarded at its router, counted, logged
  and answered by kind. -/
  | packetToFencedTile (n : Nat)
  /-- R212: LINK_UE: An uncorrectable Race link error discards the packet, records event 0x3005 and raises an
  exchange error. -/
  | linkUe (n : Nat)
  /-- R237: SYNC_SIGNAL_APPLY: A signal event reaches the object's home and is counted, or is held for the next
  phase. -/
  | syncSignalApply (n : Nat)
  /-- R237: SYNC_ARRIVAL_APPLY: An arrival reaches the object's home and is counted, or is held for the next
  phase. -/
  | syncArrivalApply (n : Nat)
  /-- R253: SYNC_ARM_APPLY: An arm reaches the home and returns a BROKEN object to IDLE. -/
  | syncArmApply (n : Nat)
  /-- R244: SYNC_CREDIT_APPLY: A byte credit from a binding reaches the home and adds to CRD. -/
  | syncCreditApply (n : Nat)
  /-- R238: HELD_EVENT_APPLY: Events held past the phase limit are applied to the next phase in the cycle after
  the fire. -/
  | heldEventApply (phys : Nat)
  /-- R235: WAIT_RELEASE: A fire's release reaches a waiting context, which leaves WAIT with its status. -/
  | waitRelease (t : TileIx) (c : HCtx)
  /-- R302: BARRIER_ARRIVAL_SEND: A tile's held arrival at the superstep barrier is sent once all four of its
  Sluice queues are EMPTY or in HALT. -/
  | barrierArrivalSend (t : TileIx)
  /-- R255: SYNC_WATCHDOG_EXPIRE: A wait reaches SYNC_WDOGc.LIMIT: event 0x4005 is recorded and a WATCHDOG report
  is posted. -/
  | syncWatchdogExpire (t : TileIx) (c : HCtx)
  /-- R248: SYNC_DOORBELL_SIGNAL: A host sync doorbell with OP 0 signals an object of the context. -/
  | syncDoorbellSignal (f : Fin 17) (c : ICtx) (lo hi : Word)
  /-- R249: SYNC_DOORBELL_ARRIVAL: A host sync doorbell with OP 1 arrives through the host-proxy counter. -/
  | syncDoorbellArrival (f : Fin 17) (c : ICtx) (lo hi : Word)
  /-- R253: SYNC_DOORBELL_ARM: A host sync doorbell with OP 2 arms a BROKEN shared object. -/
  | syncDoorbellArm (f : Fin 17) (c : ICtx) (lo hi : Word)
  /-- R256: HOP_PACKET_ARRIVE: A HOP message lands in the destination hopper, or is refused at a CLOSED hopper. -/
  | hopPacketArrive (n : Nat)
  /-- R265: RING_PACKET_ARRIVE: A RING packet is written into the destination ring, and WR is updated once the
  record is whole. -/
  | ringPacketArrive (n : Nat)
  /-- R293: SLUICE_REQUEST_ISSUE: The Sluice engine wins deadline arbitration and issues the next request of a
  stream, translating it. -/
  | sluiceRequestIssue (m : MillIx) (q : Fin 32)
  /-- R296: SLUICE_REQUEST_COMPLETE: A request completes, advancing DONE and credits, counting dry events, or
  ending the descriptor on an error. -/
  | sluiceRequestComplete (m : MillIx) (q : Fin 32) (n : Nat) (data : List Byte) (ok : Bool)
  /-- R286: SLC_WAIT_RETURN: A stalled slc.wait returns CODE once its queue is EMPTY or in HALT. -/
  | slcWaitReturn (t : TileIx) (c : HCtx)
  /-- R306: SLUICE_RESUME: A write of SLC_RESUME with ACTION 1 and a matching FAULT_ID resumes a faulted queue. -/
  | sluiceResume (who : Requester) (w : Word)
  /-- R307: SLUICE_ABORT: A write of SLC_RESUME with ACTION 2 aborts a faulted queue into HALT with ERR_FAULT. -/
  | sluiceAbort (who : Requester) (w : Word)
  /-- R307: SLUICE_FAULT_TIMEOUT: A queue stays in FAULT for SLC_FTMOc µs and is aborted. -/
  | sluiceFaultTimeout (m : MillIx) (q : Fin 32)
  /-- R281: SLC_INV_GO: Setting SLC_INV.GO starts discarding the cached translations of a context. -/
  | slcInvGo (who : Requester) (w : Word)
  /-- R281: SLC_INV_DONE: The invalidation completes, and BUSY and GO clear. -/
  | slcInvDone
  /-- R312: COLLECTIVE_START: An operation starts in the cycle after its TRIG fires, or when a running slot frees,
  and makes its start checks. -/
  | collectiveStart (c : ICtx) (op : Nat)
  /-- R314: COLLECTIVE_FINISH: An operation finishes on the device: its status entry is written and DONE is
  signalled. -/
  | collectiveFinish (c : ICtx) (op : Nat)
  /-- R330: GREQ_FRAME: A gather request reaches the owner, which returns the shard or answers ERR_STALE or
  ERR_PERM. -/
  | greqFrame (p : Port) (f : Frame)
  /-- R333: GDAT_FRAME: Gathered shard data arrives and is written into the parison. -/
  | gdatFrame (p : Port) (f : Frame)
  /-- R334: COLLECTIVE_TIMEOUT: A request or send has no answer within FLM_CX_TMOc and its operation fails with
  ERR_TIMEOUT. -/
  | collectiveTimeout (c : ICtx) (op : Nat)
  /-- R421: RSCP_FRAME: A reduce-scatter partial-sum frame reaches a tree node, or is refused on bucket tag. -/
  | rscpFrame (p : Port) (f : Frame)
  /-- R421: RSCP_CHUNK_COMBINE: A link-die adder adds a chunk once every input holds it, then forwards it or
  writes it at the root's DVA. -/
  | rscpChunkCombine (c : ICtx) (op : Nat) (root chunk : Nat)
  /-- R346: RSXF_FRAME: A compressed frame lands in the owner's landing zone, or is refused on bucket tag. -/
  | rsxfFrame (p : Port) (f : Frame)
  /-- R347: RSX_DECODE_SUM: Once all ranks' frames for a frame index have landed, the owner decodes and sums them
  in rank order. -/
  | rsxDecodeSum (c : ICtx) (op : Nat) (frame : Nat)
  /-- R353: PERM_FRAME: Permute data lands in the new shard buffer. -/
  | permFrame (p : Port) (f : Frame)
  /-- R365: COMMIT_QUIESCED: Action 1 ends once mill, Sluice and collective work of the step is done, and the
  commit exchange contribution is sent. -/
  | commitQuiesced (c : ICtx)
  /-- R423: CMT_FRAME_UP: A commit-exchange contribution reaches a node: totals are added, check blocks compared
  and HALT bits ORed. -/
  | cmtFrameUp (p : Port) (f : Frame)
  /-- R423: CMT_FRAME_DOWN: Domain totals and flags reach a device: on mismatch or HALT the context stops,
  otherwise guard decisions are taken and the update pass begins. -/
  | cmtFrameDown (p : Port) (f : Frame)
  /-- R365: UPDATE_PASS_DONE: The update pass ends: generations advance, the journal record is written, the twin
  digest goes out, the step advances and waiters are released. -/
  | updatePassDone (c : ICtx)
  /-- R370: UPD_STEP_SIZE_WRITE: A write of UPD_STEP_SIZEc holds an FP32 step size as pending and sets SSP, or is
  refused for NaN or infinity. -/
  | updStepSizeWrite (who : Requester) (c : ICtx) (w : Word)
  /-- R371: UPD_SEED_WRITE: A write of UPD_SEEDc holds a pending seed for the next step start. -/
  | updSeedWrite (who : Requester) (c : ICtx) (w : Word)
  /-- R387: REPLAY_ARM: Setting UPD_RPL_CTLc.ARM arms a replay from the armed record after its checks, and
  releases a context held in DONE. -/
  | replayArm (who : Requester) (c : ICtx) (w : Word)
  /-- R389: REPLAY_RESUME: Setting UPD_RPL_CTLc.RESUME releases a DONE context into live running. -/
  | replayResume (who : Requester) (c : ICtx) (w : Word)
  /-- R392: CAPTURE_ENABLE: Setting UPD_CAP_CTLc.EN reserves the capture region and starts capturing the context's
  inbound Flume frames. -/
  | captureEnable (who : Requester) (c : ICtx) (w : Word)
  /-- R407: PORT_TRAIN_DONE: A port finishes training on the widest passing lane group, or goes DOWN when no pair
  of lanes passes. -/
  | portTrainDone (p : Port) (lanes : Nat)
  /-- R407: PORT_RETRAIN_REQUEST: Setting FLM_PORT_CTLn.RETRAIN starts a retrain of the port. -/
  | portRetrainRequest (who : Requester) (p : Port) (w : Word)
  /-- R411: HELLO_TIMER: A trained port sends its periodic HELLO. -/
  | helloTimer (p : Port)
  /-- R412: HELLO_FRAME: A valid HELLO brings the port UP and records the neighbour, setting CAPDIFF on a digest
  mismatch. -/
  | helloFrame (p : Port) (f : Frame)
  /-- R411: HELLO_TIMEOUT: No HELLO arrives for 500 ms and the port retrains. -/
  | helloTimeout (p : Port)
  /-- R405: FRAME_CRC_FAIL: A frame fails its CRC or authentication and a NAK is returned, with the port DOWN on a
  repeated authentication failure. `auth` is none where the CRC fails, and the KEYID under which authentication fails. -/
  | frameCrcFail (p : Port) (lseq : Nat) (auth : Option Bool)
  /-- R405: LINK_ACK: A cumulative acknowledgement frees frames from the retry buffer. -/
  | linkAck (p : Port) (lseq : Nat)
  /-- R405: LINK_NAK: A NAK makes the sender resend from that frame, and the eighth NAK for one LSEQ retrains the
  port. -/
  | linkNak (p : Port) (lseq : Nat)
  /-- R405: LINK_ACK_TIMER: The receiver's 1 µs acknowledgement interval expires and it sends an acknowledgement.
  -/
  | linkAckTimer (p : Port)
  /-- R406: BER_WINDOW_EXPIRE: At the end of each one-second window, a lane whose corrected-symbol rate exceeds
  BER_LIM retrains the port. -/
  | berWindowExpire (p : Port) (rates : List Nat)
  /-- R414: FRAME_FORWARD: A frame for another device is routed by the table and the flow hash, or is discarded on
  site, validity, TTL or CLASS. -/
  | frameForward (p : Port) (f : Frame)
  /-- R418: FRAME_STALL_TIMEOUT: A frame held at a port beyond STALL_US records event 0x7009 and is counted. -/
  | frameStallTimeout (p : Port)
  /-- R417: FLM_RT_COMMIT: Setting RT_COMMIT applies staged route entries and UP ports in one cycle. -/
  | flmRtCommit (who : Requester) (w : Word)
  /-- R419: FLUME_DATA_FRAME: A remote DATA frame is delivered to its destination tile through the JOB's tile map.
  -/
  | flumeDataFrame (p : Port) (f : Frame)
  /-- R419: FLUME_ANSWER_FRAME: A remote ANSWER frame reaches its sender tile. -/
  | flumeAnswerFrame (p : Port) (f : Frame)
  /-- R419: FLUME_HOP_FRAME: A remote HOP frame is delivered to a hopper. -/
  | flumeHopFrame (p : Port) (f : Frame)
  /-- R419: FLUME_RING_FRAME: A remote RING frame is delivered to a receive ring. -/
  | flumeRingFrame (p : Port) (f : Frame)
  /-- R424: FLUME_SIG_FRAME: A remote SIG frame carries a sync event, or a domain-object readiness report or
  release. -/
  | flumeSigFrame (p : Port) (f : Frame)
  /-- R422: FLUME_PART_FRAME: A PART frame from a remote child reaches its parent tile's router. -/
  | flumePartFrame (p : Port) (f : Frame)
  /-- R427: TIME_EXCHANGE_TIMER: Every 1 ms, an UP FLUME port exchanges TIME frames. -/
  | timeExchangeTimer (p : Port)
  /-- R427: TIME_FRAME: A TIME frame gives offset and delay, and time steps or slews and changes state. -/
  | timeFrame (p : Port) (f : Frame)
  /-- R428: TIME_HOLDOVER_TIMEOUT: No TIME frame arrives from UPPORT for 10 ms and time enters HOLDOVER. -/
  | timeHoldoverTimeout
  /-- R555: SYNC_PPS_EDGE: A SYNC_PPS rising edge is accepted and disciplines the master's time, or is rejected
  and counted. -/
  | syncPpsEdge (ns : Nat)
  /-- R555: PPS_TIMEOUT: 2 s pass without an accepted edge: PPS_LOST is set and event 0x900A is recorded. -/
  | ppsTimeout
  /-- R432: ROCE_NAK: A RoCEv2 NAK makes a queue pair retransmit go-back-N. -/
  | roceNak (p : Port) (qp : Fin 2) (psn : Nat)
  /-- R432: ROCE_CNP: A congestion notification packet halves a queue pair's rate. -/
  | roceCnp (p : Port) (qp : Fin 2)
  /-- R432: ROCE_RATE_RECOVER: Every 50 µs a throttled queue pair recovers 5 % of its rate. -/
  | roceRateRecover (p : Port) (qp : Fin 2)
  /-- R438: TWIN_ENABLE: Setting TWIN_CTL.EN enables lockstep at the next step start with r set to the step minus
  1. -/
  | twinEnable (who : Requester) (w : Word)
  /-- R437: DIGEST: A twin DIGEST message is compared with the kept record, raising r or entering DIVERGED, and
  may leave HOLD or SOLO. -/
  | digest (p : Port) (msg : List Byte)
  /-- R437: KEEPALIVE: A twin KEEPALIVE message arrives and resets silence. -/
  | keepalive (p : Port) (msg : List Byte)
  /-- R437: KEEPALIVE_TIMER: Every 1 ms the device sends KEEPALIVE on F16 and F17. -/
  | keepaliveTimer
  /-- R440: TWIN_SILENT: No accepted twin message for TWIN_TMO ms: the device enters SOLO and leaves HOLD. -/
  | twinSilent
  /-- R442: TWIN_RJ_GO: Setting TWIN_RJ_CTL.GO arms a rejoin for the named step after its checks. -/
  | twinRjGo (who : Requester) (w : Word)
  /-- R444: TWIN_RJ_RECV: Setting TWIN_CTL.RJ_RECV puts a stopped context in RJ_RECV to accept rejoin writes. -/
  | twinRjRecv (who : Requester) (w : Word)
  /-- R444: RJ_START: An RJ_START message is answered, or starts the region writes when versions agree, or aborts.
  -/
  | rjStart (p : Port) (msg : List Byte)
  /-- R444: RJ_WRITE: A rejoin RDMA WRITE lands through the receiver's translation. -/
  | rjWrite (p : Port) (addr : Nat) (data : List Byte)
  /-- R444: RJ_DONE: The receiver installs the commit state block and record and becomes PAIRED, and the sender's
  commit continues on acknowledgement. -/
  | rjDone (p : Port) (msg : List Byte)
  /-- R445: RJ_ABORT: An RJ_ABORT message aborts the rejoin on both sides. -/
  | rjAbort (p : Port) (msg : List Byte)
  /-- R445: REJOIN_TIMEOUT: No rejoin progress for TWIN_TMO ms aborts it with ERR_TIMEOUT. -/
  | rejoinTimeout
  /-- R479: CMD_DOORBELL: A write of PROD to HST_CMD_IDX announces new commands, or is discarded when too far
  ahead. -/
  | cmdDoorbell (f : Fin 17) (c : ICtx) (w : Word)
  /-- R474: CMD_FETCH: The device fetches the next command of a ring once the previous command has completed. -/
  | cmdFetch (c : ICtx) (entry : Option (List Word))
  /-- R468: LOAD: Checks an image, binds mills, places HBM and writes all state, leaving the context LOADED, or
  refuses it. -/
  | load (c : ICtx) (image hosts : Option (List Byte))
  /-- R483: START: Starts a LOADED context, or restarts a STOPPED one from its last committed step. -/
  | start (c : ICtx)
  /-- R485: STOP: Stops a context at the next superstep boundary, or within 1 µs with NOW. -/
  | stop (c : ICtx)
  /-- R488: PREEMPT: Requests pre-emption of a running context at its next boundary. -/
  | preempt (c : ICtx)
  /-- R491: RESUME: Re-binds mills, restores saved state and releases the withheld boundary. -/
  | resume (c : ICtx)
  /-- R487: UNLOAD: Zeroes the context's tile memories and HBM and then frees its resources. -/
  | unload (c : ICtx)
  /-- R487: UNLOAD_COMPLETE: Every freed byte is zero, the resources are freed and UNLOAD completes. -/
  | unloadComplete (c : ICtx)
  /-- R489: PREEMPT_QUIESCED: The pre-empted context's queues, packets and collectives are quiet and the save
  begins. -/
  | preemptQuiesced (c : ICtx)
  /-- R489: PREEMPT_SAVE_DONE: The save completes: mills are released, STATE becomes PREEMPTED and the completion
  is written. -/
  | preemptSaveDone (c : ICtx)
  /-- R472: CMD_RING_ENABLE: Setting HST_CMD_CFG.EN from 0 to 1 resets the command ring's indices. -/
  | cmdRingEnable (f : Fin 17) (c : ICtx) (w : Word)
  /-- R472: CPL_RING_ENABLE: Setting HST_CPL_CFG.EN from 0 to 1 resets the completion ring's indices and phase. -/
  | cplRingEnable (f : Fin 17) (c : ICtx) (w : Word)
  /-- R476: CPL_HEAD_WRITE: A write of HST_CPL_IDX.HEAD frees ring room and lets waiting completions be written.
  -/
  | cplHeadWrite (f : Fin 17) (c : ICtx) (w : Word)
  /-- R492: FORCE_STOP: LDR_FORCE with OP 1 stops a context at once with CAUSE 0x02. -/
  | forceStop (who : Requester) (w : Word)
  /-- R492: FORCE_UNLOAD: LDR_FORCE with OP 2 stops a context if running and unloads it. -/
  | forceUnload (who : Requester) (w : Word)
  /-- R451: VF_FLR: A Function Level Reset of a VF force-unloads its context. -/
  | vfFlr (v : Fin 17)
  /-- R451: PF_FLR: A Function Level Reset of the PF force-unloads all 16 contexts and clears VF Enable. -/
  | pfFlr
  /-- R449: VF_ENABLE_CHANGE: A change of VF Enable or NumVFs reassigns context owners and force-unloads those
  that change owner. -/
  | vfEnableChange (enable : Bool) (num : Fin 17)
  /-- R617: PERST_ASSERT: An assertion of PERST_N resets the PCIe endpoint and acts as an FLR of the PF. -/
  | perstAssert
  /-- R453: BAR2_READ: A PF or VF BAR2 read reaches a device or context address, or returns all-ones and is
  logged. -/
  | bar2Read (f : Fin 17) (off len : Nat)
  /-- R453: BAR2_WRITE: A PF or VF BAR2 write reaches a device or context address, or is discarded and logged. -/
  | bar2Write (f : Fin 17) (off : Nat) (data : List Byte)
  /-- R510: SCRUB_READ: The patrol scrubber reads the next word, correcting it or logging an uncorrectable word.
  -/
  | scrubRead (hbm : Bool)
  /-- R511: FLIP_ARM: Setting ECC_FLIP_SEL.ARM arms the injection mask after its checks. -/
  | flipArm (who : Requester) (w : Word)
  /-- R525: FENCE_REQUEST: A write of ECC_FENCE requests a fence of a physical mill, which takes effect at once if
  the mill is unbound. -/
  | fenceRequest (who : Requester) (w : Word)
  /-- R526: FENCE_TIMEOUT: A deferred fence is still pending after ECC_FENCE_TMO µs and the context is stopped. -/
  | fenceTimeout
  /-- R538: SUPPLY_50V_WARN: The 50 V input is outside 42–58 V for 1 ms and event 0x9001 is recorded. -/
  | supply50vWarn (mv : Nat)
  /-- R538: SUPPLY_50V_OFF: The 50 V input is below 40 V or above 60 V for 20 µs and the module performs OFF. -/
  | supply50vOff (mv : Nat)
  /-- R538: SUPPLY_12V_WARN: The 12 V input is outside 11.4–12.6 V for 1 ms and event 0x9001 is recorded. -/
  | supply12vWarn (mv : Nat)
  /-- R547: DIE_TEMP_THROTTLE: The hottest die reaches THR and THROTTLE becomes active. -/
  | dieTempThrottle (die temp : Nat)
  /-- R538: DIE_TEMP_PARK: The hottest die reaches PARK, or a die has no valid sensor for 10 ms, and a park is
  requested. -/
  | dieTempPark (die : Nat) (temp : Option Nat)
  /-- R538: THERMAL_TRIP: A die reaches 115 °C: THERM_TRIP_N is asserted, OFF is performed and event 0x9007 is
  recorded. -/
  | thermalTrip (die temp : Nat)
  /-- R538: COOLANT_WARN: The coolant inlet reaches WARN for 1 s, or its sensor faults, and event 0x9001 is
  recorded. -/
  | coolantWarn (temp : Option Nat)
  /-- R538: COOLANT_PARK: The coolant inlet reaches PARK for 1 s and a park is requested. -/
  | coolantPark (temp : Nat)
  /-- R538: REFCLK_FAULT: REFCLK is absent for 10 µs or out of range over 1 ms: running contexts are forcibly
  stopped and a park is requested. -/
  | refclkFault
  /-- R557: SITE_ALERT_ASSERT: An accepted low level of SITE_ALERT_N requests a park with cause SITE when EN is 1.
  -/
  | siteAlertAssert
  /-- R556: INPUT_CHATTER_HOLD: An input that changes more than 8 times in 10 s is held, counted in GOV_CHATTER,
  and event 0x900B is recorded. -/
  | inputChatterHold (input : Fin 4)
  /-- R556: CHATTER_HOLD_END: A held input has kept one level for 10 s and is released. -/
  | chatterHoldEnd (input : Fin 4)
  /-- R545: GOVERNOR_TICK: Every 1 µs the Governor checks power, grants or withdraws boost steps and steps
  throttled mills. -/
  | governorTick (watts : Nat)
  /-- R544: MILL_LEND: A mill idle with a context in WAIT for 2,000 ns starts lending boost steps. -/
  | millLend (m : MillIx)
  /-- R542: MILL_CLOCK_GATE: A mill idle for 256 cycles enters G1. -/
  | millClockGate (m : MillIx)
  /-- R542: MILL_POWER_GATE: A mill enters G2 after GOV_PG_US µs idle with PG_RUN set, or when unbound or parked.
  -/
  | millPowerGate (m : MillIx)
  /-- R548: MILL_CLOCK_RESTART: A mill clock due to wake from G1 or G2 restarts in its staggered window. -/
  | millClockRestart (m : MillIx)
  /-- R540: MILL_LEVEL_STEP: A mill clock generator moves one level toward its target every 50 ns. -/
  | millLevelStep (m : MillIx)
  /-- R541: MILL_PLL_STOP: 10 ms after a base die's last mill is unbound, its mill PLL stops. -/
  | millPllStop (bd : Fin 8)
  /-- R558: HOST_PARK_REQUEST: Setting LEHR_PARK.PARK requests a park with cause HOST. -/
  | hostParkRequest (who : Requester) (w : Word)
  /-- R560: PARK_BOUND_EXPIRE: A context has not reached its park point within the bound and is forcibly stopped.
  -/
  | parkBoundExpire (c : ICtx)
  /-- R562: PARK_BEGIN: Every context is at its park point or stopped, and the park sequence starts quiescing. -/
  | parkBegin
  /-- R562: PARK_COMPLETE: Links are down, HBM is in self-refresh and PLLs are stopped: STATE becomes PARKED. -/
  | parkComplete
  /-- R563: HOST_UNPARK: Setting LEHR_PARK.UNPARK starts an unpark, or is refused when its conditions do not hold.
  -/
  | hostUnpark (who : Requester) (w : Word)
  /-- R563: AUTO_UNPARK: With AUTO set, the unpark conditions come to hold and an unpark starts. -/
  | autoUnpark
  /-- R564: UNPARK_COMPLETE: PLLs, HBM, mills, links and time are back: withheld work is released and STATE
  becomes RUN. -/
  | unparkComplete
  /-- R619: POWER_UP_50V: The 50 V domain powers up: the power-cycle count increments and operating time starts.
  -/
  | powerUp50v
  /-- R623: POWER_LOSS_50V: The 50 V input falls away without an orderly power-down and hold-up finishes the NOR
  write in progress. -/
  | powerLoss50v
  /-- R535: LEHR_POWER_LOSS: Both inputs are absent and the Lehr registers return to reset. -/
  | lehrPowerLoss
  /-- R617: MOD_RST_ASSERT: MOD_RST_N is held low for 10 µs and a fundamental reset begins. -/
  | modRstAssert
  /-- R619: MOD_RST_RELEASE: The rise of MOD_RST_N is accepted and the start-up sequence begins at t1. -/
  | modRstRelease
  /-- R620: REFCLK_STARTUP_HOLD: Start-up has held 100 ms for REFCLK and event 0x9009 is recorded once. -/
  | refclkStartupHold
  /-- R569: FIRMWARE_BOOT: The boot ROM verifies the firmware slots and boots one, or enters RECOVERY. -/
  | firmwareBoot
  /-- R504: POISON_INIT_DONE: Tile memory and HBM have been written with poison. -/
  | poisonInitDone
  /-- R619: LOADER_READY: Start-up ends, the loader is ready and waiting ring commands execute. -/
  | loaderReady
  /-- R615: CRYSTAL_LOST: No crystal edge for 10 ms: the Lehr domain switches to its internal oscillator. -/
  | crystalLost
  /-- R615: CRYSTAL_RESTORED: 1 s of crystal edges has passed and the Lehr domain returns to the crystal. -/
  | crystalRestored
  /-- R577: SET_OWNER: Authorised command that sets the owner root key hash. -/
  | setOwner (r : MgmtReq) (key : List Byte)
  /-- R567: SET_MODE: Authorised command that changes the Skeop mode. -/
  | setMode (r : MgmtReq) (mode : Nat)
  /-- R593: EVR_CLEAR: Authorised command that empties both event stores and writes record 0xA00A. -/
  | evrClear (r : MgmtReq)
  /-- R570: COMMIT_SVN: Authorised command that blows anti-rollback fuses up to a value. -/
  | commitSvn (r : MgmtReq) (v : Nat)
  /-- R596: SET_IMAGE_KEY: Authorised command that writes an image signing or decryption key slot. -/
  | setImageKey (r : MgmtReq) (slot : Nat) (kindD : Bool) (key : List Byte)
  /-- R601: SET_LINK_KEY: Authorised command that writes a Flume port key slot. -/
  | setLinkKey (r : MgmtReq) (port slot : Nat) (key : List Byte)
  /-- R603: DEBUG_CHALLENGE: Authorised command that returns a one-use 60 s nonce. -/
  | debugChallenge (r : MgmtReq)
  /-- R603: DEBUG_UNLOCK: Authorised command that raises the debug level on a valid owner signature. -/
  | debugUnlock (r : MgmtReq) (level : Nat) (sig : List Byte)
  /-- R517: CLEAR_MAP: Authorised command in RECOVERY that clears the row map, die marks or fence map. -/
  | clearMap (r : MgmtReq) (which : Nat)
  /-- R583: SET_EXPORT: Authorised command that configures telemetry export. -/
  | setExport (r : MgmtReq) (collector : List Byte) (port kinds minSev : Nat)
  /-- R573: MCTP_PACKET_RECEIVE: A management packet arrives on I3C, SMBus, PCIe or the out-of-band port and is
  assembled, or is discarded on a bad PEC, length or EID. -/
  | mctpPacketReceive (bus : Bus) (eid dest : Byte) (pecOk som eom : Bool) (type : Nat) (data : List Byte)
  /-- R573: BUS_SCL_TIMEOUT: SCL held low for 35 ms resets the bus interface and records event 0xA00B. -/
  | busSclTimeout
  /-- R572: SET_ENDPOINT_ID: MCTP control request that sets Skeop's endpoint ID. -/
  | setEndpointId (r : MgmtReq) (eid : Byte)
  /-- R572: GET_ENDPOINT_ID: MCTP control request that returns the endpoint ID. -/
  | getEndpointId (r : MgmtReq)
  /-- R572: GET_VERSION_SUPPORT: MCTP control request that returns the supported versions. -/
  | getVersionSupport (r : MgmtReq) (type : Nat)
  /-- R572: GET_MESSAGE_TYPE_SUPPORT: MCTP control request that returns the supported message types. -/
  | getMessageTypeSupport (r : MgmtReq)
  /-- R572: GET_ENDPOINT_UUID: MCTP control request that returns the endpoint UUID. -/
  | getEndpointUuid (r : MgmtReq)
  /-- R575: GET_VERSION: SPDM request for the supported versions. -/
  | getVersion (r : MgmtReq)
  /-- R575: GET_CAPABILITIES: SPDM request for the capabilities. -/
  | getCapabilities (r : MgmtReq)
  /-- R575: NEGOTIATE_ALGORITHMS: SPDM algorithm negotiation. -/
  | negotiateAlgorithms (r : MgmtReq)
  /-- R575: GET_DIGESTS: SPDM request for the certificate chain digests. -/
  | getDigests (r : MgmtReq)
  /-- R576: GET_CERTIFICATE: SPDM request for the certificate chain in slot 0. -/
  | getCertificate (r : MgmtReq) (slot off len : Nat)
  /-- R575: CHALLENGE: SPDM challenge-response authentication. -/
  | challenge (r : MgmtReq) (slot : Nat) (nonce : List Byte)
  /-- R576: GET_MEASUREMENTS: SPDM request for the measurements. -/
  | getMeasurements (r : MgmtReq) (index : Nat)
  /-- R575: KEY_EXCHANGE: SPDM ECDHE key exchange that opens a session. -/
  | keyExchange (r : MgmtReq) (owner : Bool)
  /-- R575: FINISH: SPDM FINISH that completes session establishment. -/
  | finish (r : MgmtReq) (ok : Bool)
  /-- R575: END_SESSION: SPDM request that ends a session. -/
  | endSession (r : MgmtReq)
  /-- R575: HEARTBEAT: SPDM session heartbeat. -/
  | heartbeat (r : MgmtReq)
  /-- R580: GET_PDR: PLDM request that reads the PDR repository. -/
  | getPdr (r : MgmtReq) (handle : Nat)
  /-- R581: GET_SENSOR_READING: PLDM request that returns a numeric sensor reading. -/
  | getSensorReading (r : MgmtReq) (sensor : Nat) (value : Option Nat)
  /-- R581: GET_STATE_SENSOR_READINGS: PLDM request that returns state sensor readings. -/
  | getStateSensorReadings (r : MgmtReq) (sensor : Nat)
  /-- R571: PLDM_FIRMWARE_TRANSFER: PLDM firmware update data is written to the slot that is not running. -/
  | pldmFirmwareTransfer (r : MgmtReq) (off : Nat) (data : List Byte)
  /-- R571: VERIFY_COMPLETE: PLDM VerifyComplete checks the new slot and marks it invalid on failure. -/
  | verifyComplete (r : MgmtReq)
  /-- R571: ACTIVATE_FIRMWARE: PLDM ActivateFirmware marks the new slot active for the next fundamental reset. -/
  | activateFirmware (r : MgmtReq) (selfContained : Bool)
  /-- R591: COALESCE_WINDOW_END: At the end of each millisecond, repeat records 0xA0F0 are written for coalesced
  pairs. -/
  | coalesceWindowEnd
  /-- R589: EVR_NOR_COPY: The recorder copies the next record to the NOR ring, writing 0xA0F1 after losses. -/
  | evrNorCopy
  /-- R593: EVR_NOR_ERASE_DONE: The NOR erase of a clear completes. -/
  | evrNorEraseDone
  /-- R590: EVR_CURSOR_WRITE: A write of EVR_CURSOR clears EVR_STAT and starts copying the named record into the
  window. -/
  | evrCursorWrite (who : Requester) (w : Word)
  /-- R590: EVR_WINDOW_READY: The record copy lands in the window and READY or GONE is set. -/
  | evrWindowReady
  /-- R590: EVR_WINDOW_AUTO_READ: With AUTO set, a read of EVR_WINDOW7 while READY advances the cursor and starts
  the next copy. -/
  | evrWindowAutoRead (who : Requester)
  /-- R583: EXPORT_DATAGRAM_SEND: Skeop sends new ledger and event records in UDP datagrams to the collector. -/
  | exportDatagramSend
  /-- R583: EXPORT_LOST_REPORT: Once per second, lost export records are reported by event 0xA00D. -/
  | exportLostReport
  /-- R603: DEBUG_NONCE_EXPIRE: A debug nonce reaches 60 s and becomes invalid. -/
  | debugNonceExpire
  /-- R535: LEHR_POWER_UP: The 12 V or 50 V input appears while both were absent, and the Lehr domain starts with
  its registers at reset values. -/
  | lehrPowerUp
  /-- R557: SITE_ALERT_DEASSERT: SITE_ALERT_N is accepted high again after 33 equal samples, clearing its
  comparator bit and starting the HOLD time that unpark requires. -/
  | siteAlertDeassert
  /-- R538: COMPARATOR_WITHDRAW: A supply, temperature or coolant comparator condition has been absent for its
  stated time and its warning or action is withdrawn. -/
  | comparatorWithdraw (bit : Fin 10)
  /-- R620: STARTUP_REFCLK_IN_RANGE: During a start-up held at t1, REFCLK has been in range for 1 ms and start-up
  proceeds. -/
  | startupRefclkInRange
  /-- R580: PLDM_BASE_REQUEST: A PLDM Type 0 (base) request arrives and Skeop answers it. -/
  | pldmBaseRequest (r : MgmtReq) (command : Nat)
  deriving DecidableEq, Repr

end Sys2Proof
end

