-- ==== Sys2Proof/Machine/Bits.lean ====
section
/-!
DEFINITION. Bit fields, sign extension and byte order (R3, R87): the helpers that read fields out of words
and put bytes together. Every field of a register, an instruction word or a descriptor is read by `fld`.
-/
namespace Sys2Proof.Machine

/-- The field of `len` bits whose lowest bit is `lo`, as a number. -/
def fldN (v lo len : Nat) : Nat := (v >>> lo) % 2 ^ len

/-- The field of a 32-bit word: `len` bits from bit `lo` up (R4). -/
def fld (w : Word) (lo len : Nat) : Nat := fldN w.toNat lo len

/-- Bit `i` of a word. -/
def bit (w : Word) (i : Nat) : Bool := w.toNat.testBit i

/-- `w` with its `len` bits from `lo` up replaced by the low bits of `v`. -/
def putFld (w : Word) (lo len v : Nat) : Word :=
  BitVec.ofNat 32 (w.toNat - fld w lo len * 2 ^ lo + (v % 2 ^ len) * 2 ^ lo)

/-- `w` with bit `i` set to `b`. -/
def putBit (w : Word) (i : Nat) (b : Bool) : Word := putFld w i 1 (if b then 1 else 0)

/-- The two's-complement value of the low `len` bits of `v` (IMM13, OFF13, OFF23 of R87, strides of R288). -/
def signed (v len : Nat) : Int :=
  let m := v % 2 ^ len
  if len ≠ 0 ∧ 2 ^ (len - 1) ≤ m then (m : Int) - (2 ^ len : Nat) else m

/-- An integer as a 32-bit word, modulo 2^32. -/
def wordOfInt (i : Int) : Word := BitVec.ofInt 32 i

/-- A number held to at most `m`: counters saturate and never wrap (R15). -/
def sat (m v : Nat) : Nat := min m v

/-- The bytes of the low `8 * n` bits of `v`, lowest first (R3). -/
def bytesOf : (n : Nat) → (v : Nat) → List Byte
  | 0, _ => []
  | n + 1, v => BitVec.ofNat 8 v :: bytesOf n (v / 256)

/-- The little-endian number that a list of bytes holds (R3). -/
def leNat : List Byte → Nat
  | [] => 0
  | b :: bs => b.toNat + 256 * leNat bs

/-- Byte `i` of a list, 0 past its end. -/
def byteAt (bs : List Byte) (i : Nat) : Nat := (bs.getD i 0).toNat

/-- The little-endian number of `n` bytes at offset `o` of a list. -/
def leAt (bs : List Byte) (o n : Nat) : Nat := leNat ((bs.drop o).take n)

/-- The 32-bit words of a list of bytes, in order. -/
def wordsOf (n : Nat) (bs : List Byte) : List Word :=
  (List.range n).map fun i => BitVec.ofNat 32 (leAt bs (4 * i) 4)

/-- Word `i` of a list of words, 0 past its end. -/
def wordAt (ws : List Word) (i : Nat) : Word := ws.getD i 0

/-- The bytes of a list of words, in order (R3). -/
def bytesOfWords (ws : List Word) : List Byte := ws.flatMap fun w => bytesOf 4 w.toNat

/-- The number of 1 bits among the low `n` bits of `v`. -/
def popCount : (n : Nat) → (v : Nat) → Nat
  | 0, _ => 0
  | n + 1, v => v % 2 + popCount n (v / 2)

/-- The largest multiple of `a` that is not above `x`. -/
def alignDown (a x : Nat) : Nat := x / a * a

/-- The least multiple of `a` that is not below `x`. -/
def alignUp (a x : Nat) : Nat := (x + a - 1) / a * a

/-- `⌈x / a⌉`. -/
def ceilDiv (x a : Nat) : Nat := (x + a - 1) / a

end Sys2Proof.Machine
end

