-- ==== Sys2Proof/Machine/Num.lean ====
section
/-!
DEFINITION. Numerics (chapter 4, and the lane and SFU arithmetic of R82 to R85): formats, exact values, rounding to
nearest even and stochastic rounding, block scales, packing and the random bits of R170. Every value is exact until
it is rounded: a magnitude is `m * 2^e`, or a quotient of natural numbers.
-/
namespace Sys2Proof.Machine

/-- The formats of R152. -/
inductive Fmt where
  | fp32 | bf16 | fp16 | e4m3 | e5m2 | e2m3 | e3m2 | e2m1 | int8 | int4 | t2
  deriving DecidableEq, Repr

/-- The format of a code of R152; none for 0xB to 0xF. -/
def fmtOf (code : Nat) : Option Fmt :=
  [Fmt.fp32, .bf16, .fp16, .e4m3, .e5m2, .e2m3, .e3m2, .e2m1, .int8, .int4, .t2][code]?

/-- Element width in bits (R152). -/
def Fmt.width : Fmt → Nat
  | .fp32 => 32 | .bf16 => 16 | .fp16 => 16 | .e4m3 => 8 | .e5m2 => 8 | .e2m3 => 6 | .e3m2 => 6 | .e2m1 => 4
  | .int8 => 8 | .int4 => 4 | .t2 => 2

/-- Mantissa bits of a floating-point format (R153); 0 for the others. -/
def Fmt.mant : Fmt → Nat
  | .fp32 => 23 | .bf16 => 7 | .fp16 => 10 | .e4m3 => 3 | .e5m2 => 2 | .e2m3 => 3 | .e3m2 => 2 | .e2m1 => 1
  | .int8 => 0 | .int4 => 0 | .t2 => 0

/-- Exponent bias of a floating-point format (R153); 0 for the others. -/
def Fmt.bias : Fmt → Int
  | .fp32 => 127 | .bf16 => 127 | .fp16 => 15 | .e4m3 => 7 | .e5m2 => 15 | .e2m3 => 1 | .e3m2 => 3 | .e2m1 => 1
  | .int8 => 0 | .int4 => 0 | .t2 => 0

/-- The format is one of the integer formats of R154 and R155. -/
def Fmt.isInt : Fmt → Bool
  | .int8 => true | .int4 => true | .t2 => true
  | _ => false

/-- The largest exponent field holds infinity and NaN as in IEEE 754 (R153). -/
def Fmt.ieee : Fmt → Bool
  | .fp32 => true | .bf16 => true | .fp16 => true | .e5m2 => true
  | _ => false

/-- The canonical NaN code of R156, where the format has one. -/
def Fmt.nanCode : Fmt → Option Nat
  | .fp32 => some 0x7FC00000 | .bf16 => some 0x7FC0 | .fp16 => some 0x7E00 | .e4m3 => some 0x7F | .e5m2 => some 0x7E
  | _ => none

/-- A value: NaN, an infinity, or a sign with the magnitude `m * 2^e`. -/
inductive FVal where
  | nan
  | inf (neg : Bool)
  | fin (neg : Bool) (m : Nat) (e : Int)
  deriving DecidableEq, Repr

/-- The value of a code (R153 to R155). In OCP MX an INT8 element is the integer times 2^-6; the reserved T2 code is
taken as 0. -/
def Fmt.decode (f : Fmt) (mx : Bool) (c : Nat) : FVal :=
  match f with
  | .t2 => match c % 4 with
    | 1 => .fin false 1 0
    | 2 => .fin true 1 0
    | _ => .fin false 0 0
  | .int8 | .int4 =>
    let i := signed c f.width
    .fin (decide (i < 0)) i.natAbs (if mx then -6 else 0)
  | _ =>
    let neg := fldN c (f.width - 1) 1 == 1
    let man := fldN c 0 f.mant
    let ex := fldN c f.mant (f.width - 1 - f.mant)
    let top := 2 ^ (f.width - 1 - f.mant) - 1
    if f.ieee && ex == top then (if man = 0 then .inf neg else .nan)
    else if f == .e4m3 && ex == top && man == 7 then .nan
    else if ex = 0 then .fin neg man (1 - f.bias - f.mant)
    else .fin neg (2 ^ f.mant + man) (ex - f.bias - f.mant)

/-- The largest finite magnitude of a format for a sign (R153, R154): `m * 2^e`. -/
def Fmt.maxMag (f : Fmt) (mx neg : Bool) : Nat × Int :=
  match f with
  | .fp32 => (2 ^ 24 - 1, 104)
  | .bf16 => (2 ^ 8 - 1, 120)
  | .fp16 => (2 ^ 11 - 1, 5)
  | .e4m3 => (14, 5)
  | .e5m2 => (7, 13)
  | .e2m3 => (15, -1)
  | .e3m2 => (7, 2)
  | .e2m1 => (3, 1)
  | .int8 => (if neg then 128 else 127, if mx then -6 else 0)
  | .int4 => (if neg then 8 else 7, 0)
  | .t2 => (1, 0)

/-- Whether `a * 2^i ≤ b * 2^j`. -/
def leDyadic (a : Nat) (i : Int) (b : Nat) (j : Int) : Bool :=
  if i ≤ j then decide (a ≤ b * 2 ^ (j - i).toNat) else decide (a * 2 ^ (i - j).toNat ≤ b)

/-- The quotient `m * 2^e` as a pair of natural numbers. -/
def quot (m : Nat) (e : Int) : Nat × Nat :=
  if 0 ≤ e then (m * 2 ^ e.toNat, 1) else (m, 2 ^ (-e).toNat)

/-- `n / d * 2^(-u)` as a pair of natural numbers. -/
def scaleQuot (n d : Nat) (u : Int) : Nat × Nat :=
  if 0 ≤ u then (n, d * 2 ^ u.toNat) else (n * 2 ^ (-u).toNat, d)

/-- `⌊log2 (n / d)⌋` for positive `n` and `d`. -/
def ilog2 (n d : Nat) : Int :=
  let l : Int := (Nat.log2 n : Int) - (Nat.log2 d : Int)
  let q := scaleQuot n d l
  if q.2 ≤ q.1 then l else l - 1

/-- A rounding (R95, R168, R169): to nearest even, or stochastic with the 24 bits of R170. -/
inductive Rnd where
  | rne
  | sr (bits : Nat)
  deriving DecidableEq, Repr

/-- `n / d` rounded to a natural number: to nearest, ties to even (R168), or stochastically (R169). -/
def roundNat (rnd : Rnd) (n d : Nat) : Nat :=
  let k := n / d
  let r := n % d
  match rnd with
  | .rne => if d < 2 * r ∨ (2 * r = d ∧ k % 2 = 1) then k + 1 else k
  | .sr bits => if bits * d < r * 2 ^ 24 then k + 1 else k

/-- The exponent of one step of a format's grid at the magnitude `n / d` (R166). -/
def Fmt.ulp (f : Fmt) (mx : Bool) (n d : Nat) : Int :=
  if f.isInt then (if mx then -6 else 0)
  else max (ilog2 n d) (1 - f.bias) - f.mant

/-- The code of sign and magnitude `k` steps of `2^u` in a format; `u` is a step exponent of `Fmt.ulp`. -/
def Fmt.encode (f : Fmt) (neg : Bool) (k : Nat) (u : Int) : Nat :=
  match f with
  | .t2 => if k = 0 then 0 else if neg then 2 else 1
  | .int8 | .int4 => if neg then (2 ^ f.width - k) % 2 ^ f.width else k
  | _ =>
    let code := ((u + f.mant + f.bias - 1).toNat) * 2 ^ f.mant + k
    if neg then 2 ^ (f.width - 1) + code else code

/-- A narrowed element: its code and what it counts (R166, R177). -/
structure Conv where
  code : Nat
  sat : Bool
  ftz : Bool
  nan : Bool
  deriving DecidableEq, Repr

/-- The code of a format's largest finite magnitude for a sign. -/
def Fmt.maxCode (f : Fmt) (mx neg : Bool) : Nat :=
  let (m, e) := f.maxMag mx neg
  let q := quot m e
  let u := f.ulp mx q.1 q.2
  let r := scaleQuot q.1 q.2 u
  f.encode neg (r.1 / r.2) u

/-- Narrow the magnitude `n / d` (R166): saturate above the largest finite value, compared before rounding, else
round to the grid. `d` is positive. -/
def Fmt.narrowMag (f : Fmt) (mx : Bool) (rnd : Rnd) (neg : Bool) (n d : Nat) : Conv :=
  let (mm, me) := f.maxMag mx neg
  let mq := quot mm me
  if mq.1 * d < n * mq.2 then
    { code := f.maxCode mx neg, sat := true, ftz := false, nan := false }
  else if n = 0 then
    { code := f.encode neg 0 (1 - f.bias - f.mant), sat := false, ftz := false, nan := false }
  else
    let u := f.ulp mx n d
    let q := scaleQuot n d u
    let k := roundNat rnd q.1 q.2
    { code := f.encode neg k u, sat := false, ftz := k == 0, nan := false }

/-- What R167 writes for a NaN input. -/
def Fmt.convNan (f : Fmt) : Conv :=
  { code := f.nanCode.getD 0, sat := false, ftz := false, nan := true }

/-- Narrow a value by a positive scale `sm * 2^se` (R166, R167). An infinite input is taken as the largest finite FP32
value (R164). -/
def Fmt.narrow (f : Fmt) (mx : Bool) (rnd : Rnd) (x : FVal) (sm : Nat) (se : Int) : Conv :=
  match x with
  | .nan => f.convNan
  | .inf neg =>
    let q := quot (2 ^ 24 - 1) (104 - se)
    f.narrowMag mx rnd neg q.1 (q.2 * sm)
  | .fin neg m e =>
    let q := quot m (e - se)
    f.narrowMag mx rnd neg q.1 (q.2 * sm)

/-- Narrow with scale 1. -/
def Fmt.narrow1 (f : Fmt) (rnd : Rnd) (x : FVal) : Conv := f.narrow false rnd x 1 0

/-! ### Exact arithmetic on values -/

/-- The value of an FP32 word. -/
def f32 (w : Word) : FVal := Fmt.fp32.decode false w.toNat

/-- The canonical FP32 NaN (R156). -/
def nan32 : Word := 0x7FC00000

/-- An FP32 word as the device writes it: a NaN becomes the canonical one (R156). -/
def canon32 (w : Word) : Word := if f32 w = .nan then nan32 else w

/-- An exact sum of signed magnitudes: `(i, e)` stands for `i * 2^e`. -/
def addDyadic (i : Int) (e : Int) (j : Int) (f : Int) : Int × Int :=
  if e ≤ f then (i + j * 2 ^ (f - e).toNat, e) else (i * 2 ^ (e - f).toNat + j, f)

/-- The signed integer of a sign and a magnitude. -/
def signedMag (neg : Bool) (m : Nat) : Int := if neg then -(m : Int) else m

/-- IEEE 754 sum, exact until rounded: an exact zero sum is +0 unless both terms are negative zeros. -/
def FVal.add (a b : FVal) : FVal :=
  match a, b with
  | .nan, _ => .nan
  | _, .nan => .nan
  | .inf s, .inf t => if s = t then .inf s else .nan
  | .inf s, _ => .inf s
  | _, .inf t => .inf t
  | .fin s m e, .fin t n f =>
    let (i, g) := addDyadic (signedMag s m) e (signedMag t n) f
    if i = 0 then .fin (s && t) 0 g else .fin (decide (i < 0)) i.natAbs g

/-- The value with its sign changed. -/
def FVal.neg : FVal → FVal
  | .nan => .nan
  | .inf s => .inf (!s)
  | .fin s m e => .fin (!s) m e

/-- IEEE 754 product, exact. -/
def FVal.mul (a b : FVal) : FVal :=
  match a, b with
  | .nan, _ => .nan
  | _, .nan => .nan
  | .inf s, .inf t => .inf (s != t)
  | .inf s, .fin t m _ => if m = 0 then .nan else .inf (s != t)
  | .fin s m _, .inf t => if m = 0 then .nan else .inf (s != t)
  | .fin s m e, .fin t n f => .fin (s != t) (m * n) (e + f)

/-- Whether a value is less than another; false where either is a NaN. -/
def FVal.lt (a b : FVal) : Bool :=
  match a, b with
  | .nan, _ => false
  | _, .nan => false
  | .inf s, .inf t => s && !t
  | .inf s, .fin _ _ _ => s
  | .fin _ _ _, .inf t => !t
  | .fin s m e, .fin t n f => decide ((addDyadic (signedMag s m) e (-(signedMag t n)) f).1 < 0)

/-- Whether two values are equal; false where either is a NaN, and zeros are equal whatever their signs. -/
def FVal.eq (a b : FVal) : Bool :=
  match a, b with
  | .nan, _ => false
  | _, .nan => false
  | .inf s, .inf t => s == t
  | .fin s m e, .fin t n f => decide ((addDyadic (signedMag s m) e (-(signedMag t n)) f).1 = 0)
  | _, _ => false

/-- The FP32 word nearest to a sign and a magnitude `n / d`, ties to even, overflow to an infinity (R82). -/
def round32 (neg : Bool) (n d : Nat) : Word :=
  if n = 0 then (if neg then 0x80000000 else 0)
  else
    let u := Fmt.fp32.ulp false n d
    let q := scaleQuot n d u
    let k := roundNat .rne q.1 q.2
    let code := (u + 149).toNat * 2 ^ 23 + k
    let mag := if 0x7F800000 ≤ code then 0x7F800000 else code
    BitVec.ofNat 32 (if neg then 0x80000000 + mag else mag)

/-- A value rounded to FP32 as R82 says. -/
def toF32 : FVal → Word
  | .nan => nan32
  | .inf s => if s then 0xFF800000 else 0x7F800000
  | .fin s m e => let q := quot m e; round32 s q.1 q.2

/-- FP32 operations of R82. -/
def f32Add (a b : Word) : Word := toF32 ((f32 a).add (f32 b))
def f32Sub (a b : Word) : Word := toF32 ((f32 a).add (f32 b).neg)
def f32Mul (a b : Word) : Word := toF32 ((f32 a).mul (f32 b))
def f32Fma (a b c : Word) : Word := toF32 (((f32 a).mul (f32 b)).add (f32 c))

/-- FP32 quotient rounded to nearest even. -/
def f32Div (a b : Word) : Word :=
  match f32 a, f32 b with
  | .nan, _ => nan32
  | _, .nan => nan32
  | .inf _, .inf _ => nan32
  | .inf s, .fin t _ _ => if s != t then 0xFF800000 else 0x7F800000
  | .fin s _ _, .inf t => if s != t then 0x80000000 else 0
  | .fin s m e, .fin t n f =>
    if n = 0 then (if m = 0 then nan32 else if s != t then 0xFF800000 else 0x7F800000)
    else let q := quot m (e - f); round32 (s != t) q.1 (q.2 * n)

/-- A natural number as FP32, rounded to nearest even. -/
def f32OfNat (n : Nat) : Word := round32 false n 1

/-! ### The SFU (R85) -/

/-- `⌊√n⌋` by bits, from bit `b` down. -/
def isqrtFrom : (b : Nat) → (r n : Nat) → Nat
  | 0, r, n => if (r + 1) * (r + 1) ≤ n then r + 1 else r
  | b + 1, r, n =>
    let r' := r + 2 ^ (b + 1)
    isqrtFrom b (if r' * r' ≤ n then r' else r) n

/-- `⌊√n⌋`. -/
def isqrt (n : Nat) : Nat := isqrtFrom (Nat.log2 n / 2 + 1) 0 n

/-- Bits after the point of the SFU's intermediate results. FP32 results of exp and log are decided well within
this precision. -/
def sfuBits : Nat := 256

/-- `Σ z^(2i+1) / (2i+1)` for `i < n`, the terms from `i` on, for `z = num / 2^sfuBits`. -/
def atanhTerms : (n : Nat) → (i : Nat) → (pow z2 : Nat) → Nat
  | 0, _, _, _ => 0
  | n + 1, i, pow, z2 => pow / (2 * i + 1) + atanhTerms n (i + 1) (pow * z2 / 2 ^ sfuBits) z2

/-- `atanh (n / d) * 2^sfuBits`, for `n / d ≤ 1/3`. -/
def atanhFix (n d : Nat) : Nat :=
  let z := n * 2 ^ sfuBits / d
  atanhTerms 90 0 z (z * z / 2 ^ sfuBits)

/-- `ln 2 * 2^sfuBits`. -/
def ln2Fix : Nat := 2 * atanhFix 1 3

/-- `Σ x^i / i!`, the terms from the one given on. -/
def expTerms : (n : Nat) → (i : Nat) → (term x : Nat) → Nat
  | 0, _, _, _ => 0
  | n + 1, i, term, x => term + expTerms n (i + 1) (term * x / 2 ^ sfuBits / (i + 1)) x

/-- `exp (x / 2^sfuBits) * 2^sfuBits` for `x < 2^sfuBits`. -/
def expFix (x : Nat) : Nat := expTerms 80 0 (2 ^ sfuBits) x

/-- exp, correctly rounded. -/
def sfuExp (w : Word) : Word :=
  match f32 w with
  | .nan => nan32
  | .inf s => if s then 0 else 0x7F800000
  | .fin s m e =>
    if m = 0 then 0x3F800000
    else if leDyadic 128 0 m e then (if s then 0 else 0x7F800000)
    else
      let q := quot m e
      let x : Int := signedMag s (q.1 * 2 ^ sfuBits / q.2)
      let k : Int := x / ln2Fix
      let r := (x - k * ln2Fix).toNat
      let y := 2 * expFix r + 1
      let z := quot y (k - 1 - sfuBits)
      round32 false z.1 z.2

/-- log, correctly rounded. -/
def sfuLog (w : Word) : Word :=
  match f32 w with
  | .nan => nan32
  | .inf s => if s then nan32 else 0x7F800000
  | .fin s m e =>
    if m = 0 then 0xFF800000
    else if s then nan32
    else
      let q := quot m e
      let k := ilog2 q.1 q.2
      let t := scaleQuot q.1 q.2 k
      if t.1 = t.2 ∧ k = 0 then 0
      else
        let lm : Int := 2 * atanhFix (t.1 - t.2) (t.1 + t.2)
        let y : Int := k * ln2Fix + lm
        round32 (decide (y < 0)) (2 * y.natAbs + 1) (2 ^ (sfuBits + 1))

/-- rsqrt, correctly rounded. -/
def sfuRsqrt (w : Word) : Word :=
  match f32 w with
  | .nan => nan32
  | .inf s => if s then nan32 else 0
  | .fin s m e =>
    if m = 0 then (if s then 0xFF800000 else 0x7F800000)
    else if s then nan32
    else
      let q := quot m e
      let a := isqrt (2 ^ (2 * sfuBits) * q.2 / q.1)
      round32 false (2 * a + 1) (2 ^ (sfuBits + 1))

/-- recip, correctly rounded. -/
def sfuRecip (w : Word) : Word :=
  match f32 w with
  | .nan => nan32
  | .inf s => if s then 0x80000000 else 0
  | .fin s m e =>
    if m = 0 then (if s then 0xFF800000 else 0x7F800000)
    else let q := quot m e; round32 s q.2 q.1

/-! ### Random bits (R170) -/

/-- One round of R170 on its four words and its key. -/
def srRound (c0 c1 c2 c3 k0 k1 : Nat) : Nat × Nat × Nat × Nat :=
  let p0 := c0 * 0xD2511F53
  let p1 := c2 * 0xCD9E8D57
  (Nat.xor (Nat.xor (p1 / 2 ^ 32) c1) k0, p1 % 2 ^ 32, Nat.xor (Nat.xor (p0 / 2 ^ 32) c3) k1, p0 % 2 ^ 32)

/-- The rounds of R170 that are left. -/
def srRounds : (n : Nat) → (c0 c1 c2 c3 k0 k1 : Nat) → Nat
  | 0, c0, _, _, _, _, _ => c0
  | n + 1, c0, c1, c2, c3, k0, k1 =>
    let (d0, d1, d2, d3) := srRound c0 c1 c2 c3 k0 k1
    srRounds n d0 d1 d2 d3 ((k0 + 0x9E3779B9) % 2 ^ 32) ((k1 + 0xBB67AE85) % 2 ^ 32)

/-- The 24 random bits of R170. -/
def srBits (seed tid idx purpose : Nat) : Nat :=
  srRounds 10 (idx % 2 ^ 32) (tid % 2 ^ 32) purpose 0 (seed % 2 ^ 32) (seed / 2 ^ 32 % 2 ^ 32) / 256

/-- The rounding that a two-bit field selects (R95): 0 to nearest even, 1 stochastic. -/
def rndOf (field seed tid idx purpose : Nat) : Rnd :=
  if field = 1 then .sr (srBits seed tid idx purpose) else .rne

/-! ### Block scales (R158 to R165) -/

/-- The value of a block scale: none for a NaN scale (R158, R162). Clorus scales are E4M3 taken as magnitudes. -/
def scaleVal (mx : Bool) (code : Nat) : Option (Nat × Int) :=
  if mx then (if code % 256 = 255 then none else some (1, (code % 256 : Nat) - 127))
  else match Fmt.e4m3.decode false (code % 128) with
    | .fin _ m e => some (m, e)
    | _ => none

/-- The magnitude that counts toward a block's maximum (R164); 0 for a NaN. -/
def amaxOf : FVal → Nat × Int
  | .nan => (0, 0)
  | .inf _ => (2 ^ 24 - 1, 104)
  | .fin _ m e => (m, e)

/-- The largest of the magnitudes of a block (R164). -/
def amaxList (xs : List FVal) : Nat × Int :=
  xs.foldl (fun a x => let b := amaxOf x; if leDyadic b.1 b.2 a.1 a.2 then a else b) (0, 0)

/-- The scale code that R164 selects for a block of a target format. -/
def selectScale (f : Fmt) (mx : Bool) (xs : List FVal) : Nat :=
  let (m, e) := amaxList xs
  let (qm, qe) := f.maxMag mx false
  if m = 0 then 0
  else if mx then
    let q := quot m (e - qe)
    let l := ilog2 q.1 (q.2 * qm)
    let t := scaleQuot q.1 (q.2 * qm) l
    let c : Int := if t.1 = t.2 then l else l + 1
    (max (-127) (min 127 c) + 127).toNat
  else
    ((List.range' 1 126).find? fun c =>
      match Fmt.e4m3.decode false c with
      | .fin _ sm se => leDyadic m e (sm * qm) (se + qe)
      | _ => false).getD 0x7E

/-- Narrow one element of a block with a selected scale (R165, R166): with scale code 0 and no magnitude every element
is a zero of its sign, or a NaN. -/
def narrowScaled (f : Fmt) (mx zero : Bool) (code : Nat) (rnd : Rnd) (x : FVal) : Conv :=
  if zero then
    match x with
    | .nan => f.convNan
    | .fin s _ _ => { code := f.encode (s && !f.isInt) 0 (1 - f.bias - f.mant), sat := false, ftz := false, nan := false }
    | .inf s => { code := f.encode (s && !f.isInt) 0 (1 - f.bias - f.mant), sat := false, ftz := false, nan := false }
  else
    match scaleVal mx code with
    | some (sm, se) => f.narrow mx rnd x sm se
    | none => f.convNan

/-- Select a block's scale and narrow it (R164 to R166): the scale code and the elements. `rnd i` is the rounding of
element `i`. -/
def narrowBlock (f : Fmt) (mx : Bool) (rnd : Nat → Rnd) (xs : List FVal) : Nat × List Conv :=
  let code := selectScale f mx xs
  let zero := (amaxList xs).1 == 0
  (code, xs.zipIdx.map fun (x, i) => narrowScaled f mx zero code (rnd i) x)

/-- An element as an operand: its value times its block scale; infinities are taken as the largest finite value and
reserved T2 codes as 0, each of these a format error (R132, R155, R158, R162, R174). -/
structure Elem where
  val : FVal
  fmtErr : Bool
  deriving DecidableEq, Repr

/-- A read of the code is a format error, whatever its block's scale: an infinite element, or the T2 code 0b11
(R132, R155, R174). -/
def codeErr (f : Fmt) (mx : Bool) (code : Nat) : Bool :=
  match f.decode mx code with
  | .inf _ => true
  | _ => f == .t2 && code % 4 == 3

/-- The operand of an element code under a block scale code. -/
def elemOf (f : Fmt) (mx : Bool) (code scale : Nat) : Elem :=
  let v := match scaleVal mx scale, f.decode mx code with
    | none, _ => .nan
    | some _, .nan => .nan
    | some (sm, se), .inf s => .fin s ((f.maxMag mx s).1 * sm) ((f.maxMag mx s).2 + se)
    | some (sm, se), .fin s m e => .fin s (m * sm) (e + se)
  { val := v, fmtErr := codeErr f mx code }

/-- The operand of an unscaled element. -/
def elemUnscaled (f : Fmt) (code : Nat) : Elem :=
  match f.decode false code with
  | .inf s => let (m, e) := f.maxMag false s; { val := .fin s m e, fmtErr := true }
  | v => { val := v, fmtErr := false }

/-! ### Packing (R157) -/

/-- Element `i` of a packed list of bytes. -/
def packedElem (f : Fmt) (bs : List Byte) (i : Nat) : Nat :=
  let lo := i * f.width
  fldN (leAt bs (lo / 8) ((lo % 8 + f.width + 7) / 8)) (lo % 8) f.width

/-- The packed bytes of element codes; the last byte is filled with zero bits. -/
def packElems (f : Fmt) (codes : List Nat) : List Byte :=
  let v := codes.foldr (fun c acc => c % 2 ^ f.width + acc * 2 ^ f.width) 0
  bytesOf ((codes.length * f.width + 7) / 8) v

end Sys2Proof.Machine
end

