-- ==== Sys2Proof/Machine/Cullet.lean ====
section
/-!
DEFINITION. Compression (R342 to R347): the block encoder, the cullet store's formats, and the decode-sum.
-/
namespace Sys2Proof.Machine

/-- Round to nearest even, then saturate to the largest finite value (R342): the word, and whether it saturated. -/
def rnes (x : FVal) : Word × Bool :=
  let w := toF32 x
  if w = 0x7F800000 then (0x7F7FFFFF, true) else if w = 0xFF800000 then (0xFF7FFFFF, true) else (w, false)

/-- The magnitude of a value. -/
def FVal.abs : FVal → FVal
  | .nan => .nan
  | .inf _ => .inf false
  | .fin _ m e => .fin false m e

/-- What a part of a frame gives: its sign bits, scales, new cullet values, and its counts. -/
structure Encoded where
  bits : List Bool
  scales : List Nat
  cout : List Word
  sat : Nat
  nan : Nat

/-- A source entry as R342 takes it, with whether it was NaN and whether it was infinite. -/
def sourceEntry (w : Word) : FVal × Bool × Bool :=
  match f32 w with
  | .nan => (.fin false 0 0, true, false)
  | .inf s => (f32 (if s then 0xFF7FFFFF else 0x7F7FFFFF), false, true)
  | v => (v, false, false)

/-- Encode a block: source entries and old cullet values as FP32 words (R342). -/
def encodeBlock (xs cin : List Word) : Encoded :=
  let src := xs.map sourceEntry
  let v := (src.zip cin).map fun p => rnes (p.1.1.add (f32 p.2))
  let sum := v.foldl (fun (a : Word × Nat) x =>
    let r := rnes ((f32 a.1).add (f32 x.1).abs)
    (r.1, a.2 + (if r.2 then 1 else 0))) ((0 : Word), 0)
  let mean := toF32 ((f32 sum.1).mul (.fin false 1 (-8)))
  let s := Fmt.bf16.narrow1 .rne (f32 mean)
  let sv := Fmt.bf16.decode false s.code
  let bits := v.map fun x => (f32 x.1).lt (.fin false 0 0)
  let outs := (v.zip bits).map fun p => rnes ((f32 p.1.1).add (if p.2 then sv else sv.neg))
  { bits := bits, scales := [s.code], cout := outs.map (·.1)
    sat := (src.filter (·.2.2)).length + (v.filter (·.2)).length + sum.2 + (outs.filter (·.2)).length
    nan := (src.filter (·.2.1)).length }

/-- Encode the eight blocks of a frame (R342). -/
def encodeFrame (xs cin : List Word) : Encoded :=
  (List.range 8).foldl (fun a q =>
    let b := encodeBlock ((xs.drop (256 * q)).take 256) ((cin.drop (256 * q)).take 256)
    { bits := a.bits ++ b.bits, scales := a.scales ++ b.scales, cout := a.cout ++ b.cout, sat := a.sat + b.sat, nan := a.nan + b.nan })
    { bits := [], scales := [], cout := [], sat := 0, nan := 0 }

/-- Eight bits as a byte, the first lowest. -/
def byteOfBits (bs : List Bool) : Byte := BitVec.ofNat 8 (bs.foldr (fun b a => (if b then 1 else 0) + 2 * a) 0)

/-- The 272 bytes of a compressed frame (R345). -/
def frameBytes (e : Encoded) : List Byte :=
  ((List.range 256).map fun k => byteOfBits ((e.bits.drop (8 * k)).take 8)) ++ e.scales.flatMap fun s => bytesOf 2 s

/-! ### The cullet store (R343) -/

/-- Bytes of a cullet frame. -/
def culletSize (cfmt : Nat) : Nat := if cfmt = 0 then 8192 else if cfmt = 1 then 4096 else if cfmt = 2 then 2112 else 1088

/-- Multiply by a power of two, exactly. -/
def FVal.scale2 (x : FVal) (k : Int) : FVal := x.mul (.fin false 1 k)

/-- The element format of a block cullet store. -/
def culletFmt (cfmt : Nat) : Fmt := if cfmt = 2 then .e4m3 else .e2m1

/-- The cullet values of a frame as FP32 words (R343). -/
def culletRead (cfmt : Nat) (shift : Int) (bs : List Byte) : List Word :=
  (List.range 2048).map fun i =>
    let v := if cfmt = 0 then f32 (BitVec.ofNat 32 (leAt bs (4 * i) 4))
      else if cfmt = 1 then Fmt.bf16.decode false (leAt bs (2 * i) 2)
      else
        let f := culletFmt cfmt
        (elemOf f false (packedElem f bs i) (byteAt bs (2048 * f.width / 8 + i / 32))).val
    toF32 (v.scale2 shift)

/-- The bytes of a cullet frame, and the conversions that count (R343). -/
def culletWrite (cfmt : Nat) (shift : Int) (ws : List Word) : List Byte × List Conv :=
  let xs := ws.map fun w => f32 (toF32 ((f32 w).scale2 (-shift)))
  if cfmt = 0 then (xs.flatMap fun x => bytesOf 4 (toF32 x).toNat, [])
  else if cfmt = 1 then
    let cs := xs.map fun x => Fmt.bf16.narrow1 .rne x
    (cs.flatMap fun c => bytesOf 2 c.code, cs)
  else
    let f := culletFmt cfmt
    let blocks := (List.range 64).map fun k => narrowBlock f false (fun _ => .rne) ((xs.drop (32 * k)).take 32)
    let cs := blocks.flatMap (·.2)
    (packElems f (cs.map (·.code)) ++ blocks.map fun b => BitVec.ofNat 8 b.1, cs)

/-! ### Decode-sum (R347) -/

/-- Entry `i` of a compressed frame, decoded. -/
def decodeEntry (bs : List Byte) (i : Nat) : FVal :=
  let s := Fmt.bf16.decode false (leAt bs (256 + 2 * (i / 256)) 2)
  if (byteAt bs (i / 8)).testBit (i % 8) then s.neg else s

/-- The sums of a frame in rank order, and their saturations. -/
def decodeSum (frames : List (List Byte)) : List Word × Nat :=
  let rs := (List.range 2048).map fun i =>
    frames.foldl (fun (a : Word × Nat) bs =>
      let r := rnes ((f32 a.1).add (decodeEntry bs i))
      (r.1, a.2 + (if r.2 then 1 else 0))) ((0 : Word), 0)
  (rs.map (·.1), (rs.map (·.2)).foldl (· + ·) 0)

end Sys2Proof.Machine
end

