-- ==== Sys2Proof/Config.lean ====
section
/-!
DEFINITION. What the manual leaves to the part, to the outside or to chance. None of these constants has a body, so
nothing can be proved of a particular value: a claim holds whatever they are. Free values that must differ from use to
use are applied to the counter `Dev.freeIx` (log 3).
-/
namespace Sys2Proof.Config

/-- A free 32-bit value (log 3). -/
opaque freeWord : Nat → Word

/-- A free choice (log 3). -/
opaque freeBool : Nat → Bool

/-- A free number, where the manual states no bound for it (log 3). -/
opaque freeNat : Nat → Nat

/-- A free list of bytes: random nonces and keys (R597, R603; log 3). -/
opaque freeBytes : Nat → List Byte

/-- The result of a scalar shift by 32 or more: 0 `shl`, 1 `shr`, 2 `sra`, and the operands (log 37). -/
opaque shiftResult : Nat → Word → Word → Word

/-- Whether the scalar `min`, and whether the scalar `max`, compares signed (log 37). -/
opaque minSigned : Bool
opaque maxSigned : Bool

/-- How many sync events of a mill's tiles may be on their way while a further one still finds credit (R234; log 19). -/
opaque syncQueue : Nat

/-- How many frames of a class a port may have sent and not seen acknowledged while the neighbour's receive buffer still gives it
credit for a further one (R408; log 14). -/
opaque linkCredits : Nat → Nat → Nat

/-- The register that a scalar load of 1 or 2 bytes writes, from the size and the value loaded; its low bytes are that value
(log 37). -/
opaque loadHigh : Nat → Nat → Word

/-- The slot row that a drained variance's element index names (R127; log 41). -/
opaque varianceRow : Nat

/-- What the update sequencers leave in word `i` of a staging region (R381; log 188): none where they have not written it. -/
opaque stageWord : Nat → Nat → Option DWord

/-- How event 0x6007 packs the new rank table and NSHB / 4,096 (R362; log 76). -/
opaque permuted : Nat → Nat → Word

/-- The bytes that say, at the head of a capture block, its step, its frames, its bytes and COMPLETE (R391; log 58). -/
opaque capHead : Nat → Nat → Nat → Bool → List Byte

/-- The bytes that say, at the head of a captured frame, its length, its port and its traffic class (R391; log 58). -/
opaque capFrameHead : Nat → Nat → Nat → List Byte

/-- Element `i` of contents left unspecified, by the number of the free value (R148; log 3). -/
opaque freeElem : Nat → Nat → Word

/-- What a word with four or more flipped bits reads as (R495), by device address, data written and mask: none for
uncorrectable, else the value delivered and whether it was counted as a correction (log 4). -/
opaque flipOutcome : Nat → DWord → BitVec 80 → Option (DWord × Bool)

/-- Of a device address in HBM: its bank and its row within the pseudo-channel (the manual gives no layout; log 6). -/
opaque hbmBank : Nat → Nat
opaque hbmRow : Nat → Nat

/-- The core die of an HBM device address in mode 0 (log 6). -/
opaque hbmDie : Nat → Nat

/-- The core die of member 0 of a stripe, by stack, channel and stripe; the members follow on sixteen different dies
(R499; log 6). -/
opaque stripeDie : Nat → Nat → Nat → Nat

/-- Spare rows of a tile-memory bank (tile, bank) mapped in fuses at factory test (R513). -/
opaque fusedRows : Nat → Nat → Nat

/-- Spare rows an HBM bank still has (unit, bank) (R516). -/
opaque hbmSpares : Nat → Nat → Nat

/-- The mill held as spare of a compute die as shipped (R31). -/
opaque spareMill : Nat → Fin 9

/-- The module's serial number (CAP_ID_SN). -/
opaque serial : DWord

/-- SHA-384 (R458, R569, R576). -/
opaque sha384 : List Byte → List Byte

/-- Whether an ECDSA P-384 signature verifies: key, message hash, signature (R458, R569, R603). -/
opaque ecdsaVerify : List Byte → List Byte → List Byte → Bool

/-- AES-256-GCM decryption: key, IV, additional data, ciphertext, tag; none where the tag fails (R596). -/
opaque gcmDecrypt : List Byte → List Byte → List Byte → List Byte → List Byte → Option (List Byte)

/-- The public key of the vendor firmware signature, whose hash is fused (R569). -/
opaque vendorKey : List Byte

/-- What the firmware slots hold as shipped (R569; log 5). -/
opaque shippedFirmware : Nat → List Byte

/-- What the header of a firmware slot says: SVN (0 to 64), version (MAJOR, MINOR, PATCH in bits 23:0), and how many bytes header and
code are; the manual gives it no layout (R569; log 115). -/
opaque firmwareHeader : List Byte → Fin 65 × Nat × Nat

/-- The physical tiles whose routers are blocked, as the part knows them (R216, R217; log 116). -/
opaque blockedRouters : List Nat

/-- The SHA-384 measurement of the boot ROM (R576). -/
opaque bootRomDigest : List Byte

/-- The certificate chain of slot 0, whose alias certificate depends on the running firmware's measurement (R576). -/
opaque certChain : List Byte → List Byte

/-- A signature made with the device's alias key over a transcript (R575). -/
opaque aliasSign : List Byte → List Byte

/-- The endpoint ID of the event receiver that PLDM has registered, if any (R582; log 126). -/
opaque eventReceiver : Option Nat

/-- The codes of the authorised commands, in the order of R578, which the manual does not number (log 127). -/
opaque commandCode : Nat → Word

/-- Bodies of management responses that the manual does not lay out, by the request's code: SPDM capabilities and algorithms,
MCTP versions, PLDM base (R572, R575, R580; log 127). -/
opaque responseBody : Nat → Nat → List Byte

/-- The endpoint UUID (R572). -/
opaque uuid : List Byte

/-- The PDR repository, by record handle (R580). -/
opaque pdr : Nat → List Byte

/-- The size of the PF's BAR2 as base-2 logarithm of its GiB, which the host sets in PCIe configuration space (R452; log 134). -/
opaque bar2Log : Fin 7

end Sys2Proof.Config
end

