-- ==== Sys2Proof/Machine/Tab.lean ====
section
/-!
DEFINITION. Sparse tables. `Tab α` is a list of (key, value) pairs with strictly rising keys and no entry equal
to what an unlisted key reads as, so that equal tables are equal lists. The device's memory is such a list of
`Host.Cell`, where an unlisted byte holds no value: a word never written is poison (R504, R505).
-/
namespace Sys2Proof.Machine

/-- A sparse table in canonical form. -/
abbrev Tab (α : Type) := List (Nat × α)

/-- The entry listed for a key, if any. -/
def Tab.find {α : Type} : Tab α → Nat → Option α
  | [], _ => none
  | (k, v) :: t, i => if i = k then some v else Tab.find t i

/-- The table without its entry for a key. -/
def Tab.erase {α : Type} (t : Tab α) (i : Nat) : Tab α := t.filter fun e => decide (e.1 ≠ i)

/-- The table with `v` listed for key `i`, keys kept rising. -/
def Tab.put {α : Type} : Tab α → Nat → α → Tab α
  | [], i, v => [(i, v)]
  | (k, w) :: t, i, v =>
    if i < k then (i, v) :: (k, w) :: t
    else if i = k then (k, v) :: t
    else (k, w) :: Tab.put t i v

/-- What key `i` reads as; an unlisted key reads as `d i`. -/
def Tab.get {α : Type} (d : Nat → α) (t : Tab α) (i : Nat) : α := (Tab.find t i).getD (d i)

/-- Write `v` at key `i`. Writing what an unlisted key reads as removes the entry. -/
def Tab.set {α : Type} [DecidableEq α] (d : Nat → α) (t : Tab α) (i : Nat) (v : α) : Tab α :=
  if v = d i then Tab.erase t i else Tab.put t i v

/-- The keys rise strictly from `lo` on. -/
def Tab.rising {α : Type} : Nat → Tab α → Bool
  | _, [] => true
  | lo, (k, _) :: t => decide (lo ≤ k) && Tab.rising (k + 1) t

/-- The canonical form: rising keys, and no entry equal to what an unlisted key reads as. -/
def Tab.wf {α : Type} [DecidableEq α] (d : Nat → α) (t : Tab α) : Bool :=
  Tab.rising 0 t && t.all fun e => decide (e.2 ≠ d e.1)

/-- The device's memory: one byte per listed device address (R37). -/
abbrev Memory := List Host.Cell

/-- The canonical form of memory: addresses strictly rising. An unlisted byte holds no value, so no entry can
equal one. -/
def Memory.wf (m : Memory) : Bool := Tab.rising 0 m

/-- The byte at a device address, or none where nothing has been written since the poison of R504. -/
def Memory.byte (m : Memory) (a : Nat) : Option Byte := Tab.find m a

/-- Write one byte. -/
def Memory.setByte (m : Memory) (a : Nat) (b : Byte) : Memory := Tab.put m a b

/-- Write a list of bytes from address `a` up. -/
def Memory.setBytes : Memory → Nat → List Byte → Memory
  | m, _, [] => m
  | m, a, b :: bs => Memory.setBytes (Memory.setByte m a b) (a + 1) bs

/-- The `n` bytes from address `a` up, where every one of them has been written. -/
def Memory.bytes (m : Memory) : (n : Nat) → (a : Nat) → Option (List Byte)
  | 0, _ => some []
  | n + 1, a =>
    match Memory.byte m a, Memory.bytes m n (a + 1) with
    | some b, some bs => some (b :: bs)
    | _, _ => none

/-- Forget `n` bytes from address `a` up: they are poison again (R514, R504). -/
def Memory.forget (m : Memory) (a n : Nat) : Memory := m.filter fun c => decide (c.1 < a ∨ a + n ≤ c.1)

/-- Write the same byte `n` times from address `a` up (the zeroes of R487). -/
def Memory.fill (m : Memory) (a n : Nat) (b : Byte) : Memory := Memory.setBytes m a (List.replicate n b)

end Sys2Proof.Machine
end

