-- ==== Sys2Proof/Machine/CollState.lean ====
section
/-!
DEFINITION. The state of chapter 8: the collective section of an image context, its generation records and its
operations.
-/
namespace Sys2Proof.Machine

/-- Where an operation stands in the current step (R312 to R314). -/
inductive OpStage where
  /-- not triggered in this step -/
  | idle
  /-- triggered, waiting for one of the 32 running slots (R313) -/
  | waiting
  | running
  | finished
  | failed
  deriving DecidableEq, Repr

/-- Something an operation still awaits: a gathered shard, a segment chunk, a frame or a permute piece that a peer has
not answered yet, with the cycle it was sent in. `key` is the shard, the chunk, the frame, or the offset of the piece;
`segment` is the rank it is for, or for a gather the bytes of the shard that have landed. -/
structure CxPend where
  peer : Nat
  segment : Nat
  key : Nat
  sent : Nat
  deriving DecidableEq, Repr

/-- One collective operation (R323): its sixteen words and its progress. -/
structure CxOp where
  w : List Word
  stage : OpStage
  /-- the operation has started in the current step (R312), and the cycle of its start -/
  started : Bool
  start : Nat
  /-- the generation a gather has resolved (R329) -/
  gen : Nat
  /-- what has been sent or requested and is not answered yet -/
  pend : List CxPend
  /-- bytes delivered on this device (R325) -/
  bytes : Nat
  /-- RSX: frames landed, as (rank, frame); frames of the own segment summed (R347) -/
  landed : List (Nat × Nat)
  summed : List Nat
  /-- RSX has begun to write cout (R349) -/
  cout : Bool
  /-- combining trees (R421): chunks held, as (root rank, chunk, child number, bytes), chunks already combined, as
  (root rank, chunk), and frames of children not answered yet, as (root rank, child's rank, first chunk, chunks) -/
  held : List (Nat × Nat × Nat × List Byte)
  combined : List (Nat × Nat)
  frames : List (Nat × Nat × Nat × Nat)
  /-- PERMUTE: bytes of the own new shard landed (R353) -/
  permBytes : Nat
  deriving DecidableEq, Repr

/-- A tensor's layout and generation record as a commit left them (R359). -/
structure Gen where
  rt : Nat
  shb : Nat
  buf0 : Nat
  buf1 : Nat
  cur : Nat
  prevValid : Bool
  deriving DecidableEq, Repr

/-- A sharded tensor (R322) with its generation record (R326), both also as the last commit left them, and a finished permute
that switches its layout at the commit (R354). -/
structure Tensor where
  upd : Bool
  rt : Nat
  shb : Nat
  buf0 : Nat
  buf1 : Nat
  cur : Nat
  prevValid : Bool
  kept : Gen
  perm : Option Nat
  deriving DecidableEq, Repr

/-- A tensor whose present layout and generation record are those of the last commit. -/
def Tensor.keep (x : Tensor) : Tensor :=
  { x with kept := { rt := x.rt, shb := x.shb, buf0 := x.buf0, buf1 := x.buf1, cur := x.cur, prevValid := x.prevValid } }

/-- A tensor as the last commit left it (R359). -/
def Tensor.restored (x : Tensor) : Tensor :=
  { x with
    rt := x.kept.rt, shb := x.kept.shb, buf0 := x.kept.buf0, buf1 := x.kept.buf1, cur := x.kept.cur
    prevValid := x.kept.prevValid, perm := none }

/-- The collective section of an image context as the loader placed it (R320 to R323). -/
structure Coll where
  job : Word
  cstat : Nat
  ovl : Bool
  resv : Nat
  ranks : List (List Nat)
  tensors : List Tensor
  ops : List CxOp
  /-- DONE objects whose signals are held while the context is pre-empted (R358) -/
  heldDone : List Nat
  deriving DecidableEq, Repr

/-- A context without a collective section. -/
def Coll.empty : Coll :=
  { job := 0, cstat := 0, ovl := false, resv := 0, ranks := [], tensors := [], ops := [], heldDone := [] }

end Sys2Proof.Machine
end

