-- ==== Sys2Proof/Machine/EccState.lean ====
section
/-!
DEFINITION. The state of chapter 12 (memory integrity and fencing) that is not a register: the error masks of stored
words, the row map, the fence map and the marks of R495 to R532.
-/
namespace Sys2Proof.Machine

/-- A row of a bank: of a physical tile's memory (`hbm = false`, unit = tile), or of an HBM pseudo-channel
(`hbm = true`, unit = stack * 64 + channel * 2 + pseudo-channel), laid out for events as in R533. -/
structure RowId where
  hbm : Bool
  unit : Nat
  bank : Nat
  row : Nat
  deriving DecidableEq, Repr

/-- A fence requested and not yet in effect (R525, R526). -/
structure PendingFence where
  mill : Nat
  /-- the trigger: the row of the table of R525, 0 to 4 -/
  trigger : Nat
  /-- the image context holding the mill at the request, 0xF for none -/
  ictx : Nat
  /-- the cycle of the request -/
  since : Nat
  deriving DecidableEq, Repr

/-- Memory integrity (chapter 12). -/
structure Ecc where
  /-- R495: per word (device address of its first byte), which of its 80 stored bits are flipped; 0 where not listed -/
  flips : Tab (BitVec 80)
  /-- R497: the HBM mode in force -/
  hbmMode : Nat
  /-- R498: the mode the next fundamental reset brings into force, kept in the NOR -/
  hbmNext : Nat
  /-- R514, R516: rows mapped in the field, or repaired -/
  rowMap : List RowId
  /-- R516: HBM rows waiting for repair at the next start-up, kept in the NOR -/
  hbmPend : List RowId
  /-- rows whose bank has no spare left, which stay in use (R515) -/
  exhausted : List RowId
  /-- R513: distinct words of a row corrected in this scrub period -/
  rowCe : List (RowId × Nat)
  /-- R502: marks of failed core dies per stack -/
  dieFailed : Tab (BitVec 16)
  /-- R502: (stack, die, stripe) of the symbol corrections so far -/
  symCorr : List (Nat × Nat × Nat)
  /-- R525: (mill, slot row) with a non-poison uncorrectable read since the mill was bound -/
  slotUe : List (Nat × Nat)
  /-- R524: fenced physical mills -/
  fenced : List Nat
  /-- R517: the row map, failed-die marks and fence map as the NOR keeps them; a start-up applies them -/
  norRows : List RowId
  norDies : Tab (BitVec 16)
  norFenced : List Nat
  /-- R526: fences requested and not yet in effect, in the order of their requests -/
  pending : List PendingFence
  /-- the mill fenced most recently, 0xFF for none (ECC_FENCE_STAT.LAST) -/
  lastFence : Nat
  /-- per compute die, its spare field of CAP_TA_SPAREn where it is no longer the part's own (R527) -/
  spareUsed : List Nat
  /-- R510: the next word the patrol scrubber reads, of tile memory and of HBM -/
  scrubTile : Nat
  scrubHbm : Nat
  deriving DecidableEq, Repr

/-- As shipped: no row mapped, no die failed, no mill fenced; both modes 0 (log 5). -/
def Ecc.reset : Ecc :=
  { flips := [], hbmMode := 0, hbmNext := 0, rowMap := [], hbmPend := [], exhausted := [], rowCe := [], dieFailed := [],
    symCorr := [], slotUe := [], fenced := [], norRows := [], norDies := [], norFenced := [], pending := [], lastFence := 0xFF, spareUsed := [], scrubTile := 0,
    scrubHbm := 0 }

end Sys2Proof.Machine
end

