-- ==== Sys2Proof/Machine/FlumeState.lean ====
section
/-!
DEFINITION. The state of chapter 10: Flume frames and ports, global time, the RoCEv2 queue pairs and the twin.
-/
namespace Sys2Proof.Machine

/-- The states of R412, and RETRAIN, in the order of the codes of FLM_PORT_STATn. -/
inductive PortState where
  | down | train | hello | up | retrain
  deriving DecidableEq, Repr

/-- A Flume port (R398 to R412). Its mode, keys, error counts and neighbour stand in the register file. -/
structure FPort where
  state : PortState
  /-- the lanes of the last training; kept while the port retrains -/
  lanes : Nat
  /-- the training under way may widen the port: its first, or a commanded one (R407) -/
  widen : Bool
  /-- R417: the port counts in R415; an UP port that does not yet is staged -/
  counted : Bool
  /-- sending: the next LSEQ, and the frames not yet acknowledged, oldest first (R405) -/
  nextSeq : Nat
  retry : List Frame
  /-- frames that wait for room in the retry buffer, with the cycle since when and whether event 0x7009 has been
  recorded, oldest first (R408, R418; log 14); and whether RED had the last turn against BULK -/
  waiting : List (Frame × Nat × Bool)
  lastRed : Bool
  /-- the LSEQ of the last NAK received and how many have come for it (R406) -/
  nakSeq : Nat
  nakCount : Nat
  /-- receiving: the LSEQ expected next; frames delivered and not yet acknowledged (R405) -/
  expect : Nat
  ackDue : Nat
  /-- the LSEQs of frames that have failed authentication and have not been delivered since (R410) -/
  authSeq : List Nat
  /-- frame counters of the two key slots (R409, R601) -/
  ctr0 : Nat
  ctr1 : Nat
  /-- the cycle of the last valid HELLO, and of the last HELLO sent (R411) -/
  helloIn : Nat
  helloOut : Nat
  /-- the cycle of the last exchange of TIME frames (R427) -/
  timeOut : Nat
  /-- frames are due to be sent again once ROUTE_EN lets them pass (R405, R413) -/
  owed : Bool
  deriving DecidableEq, Repr

/-- A port that is DOWN. -/
def FPort.reset : FPort :=
  { state := .down, lanes := 0, widen := false, counted := false, nextSeq := 0, retry := [], waiting := [], lastRed := false, nakSeq := 0, nakCount := 0,
    expect := 0, ackDue := 0, authSeq := [], ctr0 := 0, ctr1 := 0, helloIn := 0, helloOut := 0, timeOut := 0, owed := false }

/-- Global time (R426 to R430): it reads `base` (in 1/1,024 ns) at cycle `at_`, and runs with the Race clock; `slew` is
what was to be corrected then in ns, at no more than 250 ppm. -/
structure GTime where
  state : Nat
  base : Nat
  at_ : Nat
  slew : Int
  /-- successive offsets within 20 ns (R428) -/
  good : Nat
  /-- the cycle of the last TIME frame from UPPORT -/
  last : Nat
  /-- the clock has left FREE through ACQUIRE without stepping left to do -/
  stepped : Bool
  /-- the delay to the neighbour on UPPORT, as last computed (R427) -/
  delay : Int
  /-- FLM_TIME_CTL.MASTER has been set, and no edge accepted since (R429) -/
  newMaster : Bool
  deriving DecidableEq, Repr

/-- FREE, counting from the Lehr count. -/
def GTime.reset : GTime :=
  { state := 0, base := 0, at_ := 0, slew := 0, good := 0, last := 0, stepped := false, delay := 0, newMaster := false }

/-- A RoCEv2 queue pair (R432): its rate in parts per million of the line rate, the next packet number, the
oldest one not acknowledged, and the number expected next from the other end. -/
structure QPair where
  rate : Nat
  psn : Nat
  unacked : Nat
  expect : Nat
  deriving DecidableEq, Repr

/-- A queue pair at line rate. -/
def QPair.reset : QPair := { rate := 1000000, psn := 0, unacked := 0, expect := 0 }

/-- A rejoin in progress (R442 to R445): its regions as (context virtual address, length), whether versions have agreed (at the receiver:
whether a write has landed), RJ_DONE sent, the cycle of the last progress, the state to return to on an abort, and the sender's record of
the named step. -/
structure Rejoin where
  regions : List (Nat × Nat)
  agreed : Bool
  doneSent : Bool
  last : Nat
  prior : Nat
  record : List Word
  deriving DecidableEq, Repr

/-- The twin unit (R433 to R445). Its registers stand in the register file; the state code is that of R441. -/
structure Twin where
  state : Nat
  /-- R438: the highest step for which a DIGEST has come; one below the first step where lockstep begins with it -/
  r : Int
  /-- R438: TWIN_CTL.EN has been set, and lockstep starts at the next step start -/
  pendingEn : Bool
  /-- own records and received records, as (step, sixteen words), oldest first (R437) -/
  kept : List (Nat × List Word)
  received : List (Nat × List Word)
  /-- R439: HALT is contributed at the next commit exchange -/
  halt : Bool
  /-- a first failed comparison has fixed TWIN_AGREED -/
  failed : Bool
  /-- the cycle of the last accepted message -/
  last : Nat
  /-- messages accepted on F16 and F17, and the number used (R436) -/
  rx16 : Nat
  rx17 : Nat
  used : Nat
  /-- the network descriptor read at TWIN_CTL.EN (R433) -/
  net : List Byte
  /-- the cycle of the last KEEPALIVE sent (R437) -/
  sent : Nat
  rejoin : Option Rejoin
  /-- an armed rejoin: its step and regions (R442) -/
  armed : Option (Nat × List (Nat × Nat))
  deriving DecidableEq, Repr

/-- OFF. -/
def Twin.reset : Twin :=
  { state := 0, r := -1, pendingEn := false, kept := [], received := [], halt := false, failed := false, last := 0,
    rx16 := 0, rx17 := 0, used := 0, net := [], sent := 0, rejoin := none, armed := none }

/-- The Flume side of a device. -/
structure Flume where
  ports : Tab FPort
  /-- R417: staged route entries -/
  staged : List (Nat × Word)
  time : GTime
  /-- queue pairs by 2 * (port - 16) + number -/
  qps : Tab QPair
  twin : Twin
  /-- R424: domain objects whose readiness or release is in flight are held in the objects themselves; here the
  requests of gathers being answered, and RSCP credits granted (R421), need no more state -/
  pps : Bool
  deriving DecidableEq, Repr

/-- Every port OFF and DOWN. -/
def Flume.reset : Flume :=
  { ports := [], staged := [], time := GTime.reset, qps := [], twin := Twin.reset, pps := false }

end Sys2Proof.Machine
end

