-- ==== Sys2Proof/Machine/MillState.lean ====
section
/-!
DEFINITION. The state of a mill (chapter 3): its command queue, the commands in execution, its weight sets and its
accumulator slots.
-/
namespace Sys2Proof.Machine

/-- The kinds of mill command; their codes are MILL_ERR_INFO.KIND 0 to 2. -/
inductive MillKind where
  | pass | drain | smode
  deriving DecidableEq, Repr

/-- A mill command (R114 to R116, R125 to R127): its number in the order of entry, the issuing tile (0 to 7) and
hardware context, its slot and words, the captured tensor ID, and for a pass the number of the pass whose weights it
uses, 0 for restored ones (R119). -/
structure MillCmd where
  num : Nat
  kind : MillKind
  tile : Nat
  ctx : Nat
  slot : Nat
  w0 : Word
  w1 : Word
  w2 : Word
  tid : Word
  wnum : Nat
  deriving DecidableEq, Repr

/-- A command in execution (R111): the cycle in which it started, and the slot mode it read at its start. -/
structure MillRun where
  cmd : MillCmd
  start : Nat
  mode : Nat
  deriving DecidableEq, Repr

/-- A refusal, discard or uncorrectable read of a tile's command (R110): the tile, the command's number, the status. -/
structure MillFail where
  tile : Nat
  num : Nat
  status : Nat
  deriving DecidableEq, Repr

/-- A weight set of the array (R134): the format fields of the pass that loaded it (its word 0), the bytes of its
eight bands once they have been read (none where a read failed), and the number of the pass they belong to. -/
structure WeightSet where
  w0 : Word
  bands : List (List Byte)
  pass : Nat
  deriving DecidableEq, Repr

/-- What the next command entering the queue is checked against, per slot (R120, R125, R140, MILL_SLOT_STATEs), and
the mode in which commands now execute on the slot. -/
structure SlotState where
  mode : Nat
  k0 : Nat
  k1 : Nat
  /-- samples that the STATS passes accepted so far bring to columns 0-127 and 128-255 (R140) -/
  n0 : Nat
  n1 : Nat
  execMode : Nat
  /-- R148: contents unspecified since an uncorrectable read, until the next `mill.smode`: the number of the free
  value they have (log 3) -/
  bad : Option Nat
  deriving DecidableEq, Repr

/-- A slot in SUM mode with its counters at 0 (R138). -/
def SlotState.reset : SlotState := { mode := 0, k0 := 0, k1 := 0, n0 := 0, n1 := 0, execMode := 0, bad := none }

/-- A mill (R102). -/
structure Mill where
  /-- R105: commands not yet started, oldest first, at most 32 -/
  queue : List MillCmd
  /-- commands started and not finished, oldest first -/
  running : List MillRun
  /-- the number the next command receives, accepted or not -/
  next : Nat
  /-- R109: FTILE and FCODE of MILL_Q_STATUS -/
  fault : Option (Nat × Nat)
  /-- R110: the failures no `mill.fence` has returned yet, in the order of their occurrence -/
  failed : List MillFail
  /-- R119: word 0 of the most recent pass accepted with WLD = 1, or of the restored weights -/
  accepted : Option Word
  /-- the number of that pass, 0 for restored weights -/
  lastW : Nat
  sets : Vector WeightSet 2
  active : Nat
  /-- R134: the set being loaded and the number of the pass it is loaded for -/
  loading : Option (Nat × Nat)
  /-- the number of the last pass for which a load has begun -/
  loadedFor : Nat
  slotState : Tab SlotState
  /-- slot elements by slot * 32,768 + row * 256 + column (R137); +0 where not listed -/
  elems : Tab Word
  /-- R495, R511: error masks of slot memory, by element number divided by 2 -/
  flips : Tab (BitVec 80)
  deriving DecidableEq, Repr

/-- No set loaded. -/
def WeightSet.reset : WeightSet := { w0 := 0, bands := [], pass := 0 }

/-- A mill as bound or restarted (R138). -/
def Mill.reset : Mill :=
  { queue := [], running := [], next := 1, fault := none, failed := [], accepted := none, lastW := 0,
    sets := Vector.replicate 2 WeightSet.reset, active := 0, loading := none, loadedFor := 0, slotState := [],
    elems := [], flips := [] }

end Sys2Proof.Machine
end

