-- ==== Sys2Proof/Machine/SyncState.lean ====
section
/-!
DEFINITION. The state of chapter 6: sync objects and the events on their way to them, hoppers, channels and rings.
-/
namespace Sys2Proof.Machine

/-- The kinds of sync event (R245). -/
inductive SyncKind where
  | signal | arrival | arm | credit
  deriving DecidableEq, Repr

/-- A sync event on its way to, or held at, its object's home (R234, R238, R245). -/
structure SyncEvt where
  kind : SyncKind
  /-- physical counter -/
  phys : Nat
  bytes : Nat
  /-- source physical tile; none for the host, or for another device -/
  tile : Option Nat
  /-- for an arrival of a `sync.wait`: its context and the number of its wait -/
  waiter : Option (Nat × Nat)
  ictx : Nat
  vid : Nat
  /-- as `Waiter.away` -/
  away : Option (Nat × Nat) := none
  /-- it came in a SIG frame of another device -/
  far : Bool := false
  deriving DecidableEq, Repr

/-- The states of R246. -/
inductive ObjState where
  | free | idle | opened | broken
  deriving DecidableEq, Repr

/-- A waiter of a phase: physical tile, hardware context, number of the wait; and, while its image context is
pre-empted, that context and the logical tile (R254). -/
structure Waiter where
  tile : Nat
  ctx : Nat
  id : Nat
  away : Option (Nat × Nat)
  deriving DecidableEq, Repr

/-- The waiter that an event brings to its object, where it is the arrival of a `sync.wait`. -/
def SyncEvt.arriving (e : SyncEvt) : Option Waiter :=
  match e.kind, e.waiter, e.tile with
  | .arrival, some (k, id), some t => some { tile := t, ctx := k, id := id, away := e.away }
  | _, _, _ => none

/-- A physical counter (R232, R236, R237, R246, R273). -/
structure SyncObj where
  state : ObjState
  phase : Nat
  ictx : Nat
  level : Nat
  host : Bool
  shared : Bool
  domain : Bool
  notify : Bool
  vec : Nat
  vid : Nat
  sigs : Nat
  arrs : Nat
  sig : Nat
  arr : Nat
  ann : Nat
  crd : Nat
  millLo : Nat
  millHi : Nat
  key : Word
  /-- R251: the image contexts mapped to a shared counter, with their virtual IDs -/
  mapped : List (Nat × Nat)
  /-- the waiters of the phase being counted -/
  waiters : List Waiter
  /-- R238: events held for the next phase, oldest first -/
  held : List SyncEvt
  /-- a phase has just fired: held events are due (R238) -/
  heldDue : Bool
  /-- R424: for a DOMAIN object, whose local counts are complete: devices whose readiness has been reported, and
  whether this device's own report has gone out -/
  ready : List Nat
  reported : Bool
  deriving DecidableEq, Repr

/-- Everyone who waits at an object, those among its held events too (R238, R252). -/
def SyncObj.waiting (o : SyncObj) : List Waiter := o.waiters ++ o.held.filterMap SyncEvt.arriving

/-- A counter no context owns. -/
def SyncObj.free : SyncObj :=
  { state := .free, phase := 0, ictx := 0, level := 0, host := false, shared := false, domain := false, notify := false,
    vec := 0, vid := 0, sigs := 0, arrs := 0, sig := 0, arr := 0, ann := 0, crd := 0, millLo := 0, millHi := 0, key := 0,
    mapped := [], waiters := [], held := [], heldDue := false, ready := [], reported := false }

/-- One entry of a hopper (R256, R90): its 64 bits, whether its first half has been consumed, and the sender: a
logical tile of the same image context, on this device or on the device of a Flume address. -/
structure HopEntry where
  data : DWord
  half : Bool
  remote : Option Nat
  src : Nat
  deriving DecidableEq, Repr

/-- A hopper: its entries in order of arrival and its CLOSED mark (R256, R267). -/
structure Hopper where
  entries : List HopEntry
  closed : Bool
  deriving DecidableEq, Repr

/-- The states of HOP_CH_STATE.STATE. -/
inductive ChanState where
  | opened | closed | fenced | invalid
  deriving DecidableEq, Repr

/-- One entry of a tile's channel table (R257), with the channel's own state (R259, R263, R269). -/
structure Channel where
  ring : Bool
  remote : Bool
  num : Nat
  dtile : Nat
  dfa : Nat
  state : ChanState
  /-- hopper channels: credits held (R259) -/
  credit : Nat
  /-- ring channels: the ring's size, WR, and the bytes of space returned (R263, R266) -/
  size : Nat
  wr : Nat
  freed : Nat
  /-- messages sent, the SEQ of the next record (R262) -/
  seq : Nat
  msgs : Nat
  stalls : Nat
  drop : Nat
  deriving DecidableEq, Repr

/-- A receive ring of a tile (R261): its place in context S, its totals, its CLOSED mark, the records queued in it
(their sizes, oldest first, and whether each is a record, not a wrap marker), and the sender whose channel writes it once a record has come. -/
structure Ring where
  size : Nat
  base : Nat
  ctrl : Nat
  wr : Nat
  freed : Nat
  closed : Bool
  records : List (Nat × Bool)
  remote : Option Nat
  src : Nat
  /-- bytes of the record now arriving, and the payload bytes of it to be credited (R244) -/
  part : Nat
  payload : Nat
  deriving DecidableEq, Repr

/-- A byte binding (R243). -/
structure Binding where
  kind : Nat
  num : Nat
  vid : Nat
  deriving DecidableEq, Repr

end Sys2Proof.Machine
end

