-- ==== Sys2Proof/Machine/RaceState.lean ====
section
/-!
DEFINITION. The state of chapter 5: the exchange sequencer of a tile and the packets in the Race.
-/
namespace Sys2Proof.Machine

/-- The packet kinds of R207, in the order of their codes. -/
inductive PktKind where
  | data | answer | hop | ring | sig | part | pass
  deriving DecidableEq, Repr

/-- The code of a packet kind. -/
def PktKind.code : PktKind → Nat
  | .data => 0 | .answer => 1 | .hop => 2 | .ring => 3 | .sig => 4 | .part => 5 | .pass => 6

/-- A packet in the Race (R207). `vc` is the channel its header names. The last fields are where it is: at the
router of a physical tile, the router at which its present leg began, and whether it is on an escape lane; and what it belongs to at
its sender: an exchange entry, or a hopper or ring channel. An ANSWER keeps the kind of the packet it answers. -/
structure Packet where
  vc : Nat
  kind : PktKind
  ictx : Nat
  remote : Bool
  dst : Nat
  src : Nat
  id : Nat
  offset : Nat
  tag : Nat
  chunk : Nat
  dfa : Nat
  sfa : Nat
  last : Bool
  payload : List Byte
  at_ : Nat
  leg : Nat
  escape : Bool
  ref : Nat
  answers : PktKind
  deriving DecidableEq, Repr

/-- One entry of an exchange program in execution (R201): its words; packets sent or chunks read or combined so far;
the bytes its RECV has counted; whether it is answered, done, and recorded as late (R228); for an RNODE the credits it
holds from its parent, the chunks its inputs hold (input number, chunk, bytes), and the devices of those children that another
device has turned out to hold; for a STREAM the descriptor the setup pass has read. -/
structure XEntry where
  w : List Word
  next : Nat
  count : Nat
  issued : Bool
  done : Bool
  late : Bool
  credit : Nat
  inputs : List (Nat × Nat × List Byte)
  kidFa : Tab Nat
  sw : List Word
  deriving DecidableEq, Repr

/-- The stages of a tile's exchange phase (R195, R202, R204). -/
inductive XStage where
  | idle
  /-- the superstep boundary has passed and the release is withheld, by a stop, a pre-emption or a park -/
  | held
  /-- the release is on its way to the sequencer -/
  | due
  | setup
  | opened
  | ended
  deriving DecidableEq, Repr

/-- The exchange sequencer of a tile (R195 to R206). -/
structure XSeq where
  stage : XStage
  /-- the cycle at which the release reached the tile -/
  start : Nat
  entries : List XEntry
  /-- the entry whose issue is next in program order (R205) -/
  pos : Nat
  /-- the contexts that wait at the superstep barrier for the end of the phase (R195) -/
  waiters : List Waiter
  deriving DecidableEq, Repr

/-- The phase has ended with a lead-in still to issue (R196, R205). -/
def XSeq.leadWaits (q : XSeq) : Bool := decide (q.stage = .ended ∧ q.pos < q.entries.length)

/-- No exchange phase. -/
def XSeq.reset : XSeq := { stage := .idle, start := 0, entries := [], pos := 0, waiters := [] }

end Sys2Proof.Machine
end

