-- ==== Sys2Proof/Machine/SluiceState.lean ====
section
/-!
DEFINITION. The state of chapter 7: the Sluice queues of a mill, their requests, and the cached translations.
-/
namespace Sys2Proof.Machine

/-- A descriptor held in a queue (R282, R283, R288): its number, its sixteen words, the base and bound its tile
addresses resolve against, and for an exchange STREAM entry the index of the entry. -/
structure SDesc where
  num : Nat
  w : List Word
  base : Nat
  bound : Nat
  entry : Option Nat
  deriving DecidableEq, Repr

/-- A request outstanding (R293): the stream byte it begins at and its length, its context virtual address, where it was
translated to, and its need time in 1/1,024 ns (none for a background request). -/
structure SReq where
  pos : Nat
  len : Nat
  va : Nat
  host : Bool
  addr : Nat
  need : Option Nat
  deriving DecidableEq, Repr

/-- A page fault whose record is due once the requests outstanding have completed (R304): reason, level, virtual
address, stream byte, and whether the request writes. -/
structure SFault where
  reason : Nat
  level : Nat
  va : Nat
  pos : Nat
  write : Bool
  deriving DecidableEq, Repr

/-- A Sluice queue (R282 to R287, R294, R296, R304 to R308). -/
structure SQueue where
  /-- descriptors held, at most 8; the first is the current one -/
  descs : List SDesc
  /-- requests outstanding, in stream order -/
  reqs : List SReq
  /-- the halt code of R287 -/
  halt : Option Nat
  /-- the queue is in FAULT since this cycle (R304, R307), and the fault whose record is still due -/
  faultSince : Option Nat
  faultDue : Option SFault
  /-- the current descriptor has failed: its code and the address of event 0x5005; later requests stay unissued (R308) -/
  failed : Option (Nat × Nat)
  /-- the stream byte of the least failing request of the current descriptor (R304, R308, R631) -/
  failPos : Option Nat
  code : Nat
  limit : Nat
  /-- global time at which the current descriptor reached the head of the queue (R297), in 1/1,024 ns -/
  t0 : Nat
  /-- the stream byte of the next request to issue, and the cycle since which it waits at the issue port (R298) -/
  pos : Nat
  since : Nat
  /-- R296 -/
  done : Nat
  /-- stream ranges (start, length) at or above DONE whose credit has been sent (R631) -/
  credited : List (Nat × Nat)
  /-- R305: the last fault record, and the number the next fault receives -/
  record : List Word
  faultId : Nat
  dry : Nat
  /-- the number the next descriptor receives -/
  next : Nat
  deriving DecidableEq, Repr

/-- An EMPTY queue with a limit of 8 (R294, R486). -/
def SQueue.reset : SQueue :=
  { descs := [], reqs := [], halt := none, faultSince := none, faultDue := none, failed := none, failPos := none, code := 0,
    limit := 8, t0 := 0, pos := 0, since := 0, done := 0, credited := [], record := [], faultId := 0, dry := 0, next := 0 }

/-- The queue of a mill that is bound, restarted or released: as after reset, but its last fault record stays until the next fault
(R305) and its count of dry events until it is cleared (R15, R310). -/
def SQueue.fresh (q : SQueue) : SQueue := { SQueue.reset with record := q.record, dry := q.dry }

/-- A cached translation (R281): the mill and the image context, the page's first context virtual address and size,
where it leads, and its W bit. -/
structure XlatEntry where
  mill : Nat
  ictx : Nat
  page : Nat
  size : Nat
  host : Bool
  addr : Nat
  w : Bool
  deriving DecidableEq, Repr

end Sys2Proof.Machine
end

