-- ==== Sys2Proof/Machine/TileState.lean ====
section
/-!
DEFINITION. The state of a tile core (chapter 2) with its hoppers, channels and rings (chapter 6).
-/
namespace Sys2Proof.Machine

/-- The run states of R52; HALTED belongs to the whole tile. -/
inductive RunState where
  | idle | run | wait | trapped | halted
  deriving DecidableEq, Repr

/-- A wait on a sync object (R240, R255, R62): the number of the wait, the counter, the virtual ID, the register for
the status, when it began, whether the watchdog has reported it, and the status of the fire that released it. -/
structure Wait where
  id : Nat
  phys : Nat
  vid : Nat
  rc : Nat
  since : Nat
  reported : Bool
  fired : Option Nat
  deriving DecidableEq, Repr

/-- Why a context holds at a bundle it has issued, or could not issue (R54, R79, R110, R286). -/
inductive Hold where
  /-- the bundle waits for a queue, a credit, ring space or a busy unit (R54): its two slots, and since which cycle -/
  | stall (a b : Slot) (since : Nat)
  /-- the bundle waits for an entry of a full Sluice queue, the descriptor of its `slc.issue` read and checked (R283), or slot A's
  sync instruction waits for credit (R234) -/
  | full (a b : Slot) (desc : Option (List Word))
  /-- `mem.fill` or `mem.copy` runs in the memory engine and the context stays at its bundle (R79): the bundle's slot A,
  whose effect comes with the operation's end, since a trap of it would leave neither slot's effect (R55, R80) -/
  | mem (a : Slot)
  /-- `mill.fence` waits: its rc, and the number below which the tile's mill commands must have completed (R110) -/
  | fence (rc next : Nat)
  /-- `slc.wait` waits: its queue and rc (R286) -/
  | slc (queue rc : Nat)
  deriving DecidableEq, Repr

/-- A hardware context (R51, R58). -/
structure Ctx where
  s : Vector Word 32
  v : Vector VReg 32
  p : Vector DWord 8
  pc : BitVec 23
  base : BitVec 23
  bound : BitVec 23
  run : RunState
  cause : Word
  trapPc : BitVec 23
  trapAddr : Word
  trapInfo : Word
  cvtCfg : Word
  cvtTid : Word
  cvtSptr : BitVec 23
  wait : Option Wait
  hold : Option Hold
  deriving DecidableEq, Repr

/-- A context after a fundamental reset (R632 gives the register values; R100 the others). -/
def Ctx.reset : Ctx :=
  { s := Vector.replicate 32 0, v := Vector.replicate 32 0, p := Vector.replicate 8 0, pc := 0, base := 0, bound := 0,
    run := .idle, cause := 0, trapPc := 0, trapAddr := 0, trapInfo := 0, cvtCfg := 0, cvtTid := 0, cvtSptr := 0,
    wait := none, hold := none }

/-- An operation of the memory engine (R76 to R80), all in context addresses of `ctx`, with its instruction's word. -/
structure MemOp where
  ctx : Nat
  word : Word
  copy : Bool
  dst : Nat
  src : Nat
  len : Nat
  pattern : Word
  deriving DecidableEq, Repr

/-- A tile core and its queues. Its memory is part of the device's (R37). -/
structure Tile where
  ctx : Vector Ctx 4
  /-- TILE_CTX_STATE.INH of S (R61) -/
  inh : Bool
  trapVec : BitVec 23
  /-- R60: workers whose traps wait for S, oldest first -/
  trapQ : List Nat
  /-- R62: S's arrival from before the trap handler -/
  pre : Option Wait
  memEng : Option MemOp
  /-- the number the next wait receives -/
  waitNum : Nat
  /-- R302: arrivals at the superstep barrier that are held until the tile's Sluice queues have drained -/
  heldArr : List SyncEvt
  /-- R243 -/
  bindings : List Binding
  hop : Vector Hopper 8
  chans : Tab Channel
  rings : Tab Ring
  deriving DecidableEq, Repr

/-- A tile after a fundamental reset, and of an unbound mill. -/
def Tile.reset : Tile :=
  { ctx := Vector.replicate 4 Ctx.reset, inh := false, trapVec := 0, trapQ := [], pre := none, memEng := none,
    waitNum := 0, heldArr := [], bindings := [], hop := Vector.replicate 8 { entries := [], closed := false },
    chans := [], rings := [] }

end Sys2Proof.Machine
end

