-- ==== Sys2Proof/Machine/ImageState.lean ====
section
/-!
DEFINITION. The state of chapter 11: an image context, its commands and completions, and what pre-emption has saved.
-/
namespace Sys2Proof.Machine

/-- The states of R481. BUSY is a command or forced operation in progress: `ImageCtx.busy`. -/
inductive CtxState where
  | empty | loaded | running | stopped | preempted
  deriving DecidableEq, Repr

/-- What the loader allocated HBM for (R464). -/
inductive AllocKind where
  | image | region | tables | save
  deriving DecidableEq, Repr

/-- One HBM allocation of a context (R464), in device addresses. -/
structure Alloc where
  kind : AllocKind
  start : Nat
  size : Nat
  deriving DecidableEq, Repr

/-- What a pending operation waits for: the next superstep boundary (R485, R489), the quiet of the save (R489), the
writing of the save area, the zeroing of UNLOAD (R487), with the second parameter of event 0x8006. -/
inductive CtxWait where
  | none | stopAtBoundary | preemptAtBoundary | quiesce | saving
  | zeroing (how : Nat)
  deriving DecidableEq, Repr

/-- R367: a stop requested while a commit runs, which waits for the boundary after it: its cause (R477), whether LDR_FORCE shows
BUSY for it, and the unloading that follows it, with the second parameter of event 0x8006. -/
structure StopDue where
  cause : Nat
  force : Bool
  unload : Option Nat
  deriving DecidableEq, Repr

/-- What the save area holds of one mill (R490, R150): the memory of its eight tiles as (offset in the mill's 64 MiB
of windows, byte), their cores and exchange sequencers, the mill and its Sluice queues. -/
structure SavedMill where
  mem : List Host.Cell
  tiles : List Tile
  seqs : List XSeq
  mill : Mill
  queues : List SQueue
  /-- the conversion counters of the tiles: TILE_CVT_SAT, TILE_CVT_FTZ, TILE_CVT_NAN and TILE_CVT_FMT of each -/
  cvt : List (List Word)
  deriving DecidableEq, Repr

/-- What the save area holds of a context (R490, R254): its mills by logical number, and its objects by virtual ID. -/
structure Saved where
  mills : List SavedMill
  objs : List (Nat × SyncObj)
  deriving DecidableEq, Repr

/-- An image context (R449, R455 to R492). -/
structure ImageCtx where
  state : CtxState
  /-- a command or forced operation is in progress (R481) -/
  busy : Bool
  /-- HST_CTX_STATE.CAUSE (R477) -/
  cause : Nat
  /-- IMAGE_ID of the image (R455), and NMILLS and PREEMPT of its MILLS record (R460) -/
  imageId : Word
  nmills : Nat
  preempt : Bool
  /-- the physical mill of each logical mill, while bound (R465); 0xFF once a fence has unbound it (R527) -/
  mills : List Nat
  /-- mills the context held when they were fenced (R532) -/
  lost : List Nat
  /-- R100, R229, R273, R310, R397: the context's RWL registers are locked -/
  locked : Bool
  /-- R464: its allocations, the first its copy of the image; R463: its host table as (PCIe address, length) -/
  allocs : List Alloc
  hosts : List (Nat × Nat)
  /-- the SHA-384 hash of the image as signed (R458, R576), empty while EMPTY -/
  digest : List Byte
  /-- memory key slot c (R597, R600) -/
  memKey : Option Nat
  /-- R478: the command ring has stopped on an error, until its EN is set again -/
  cmdStop : Bool
  /-- R474: the ring command fetched and not completed (its sixteen words) -/
  cmd : Option (List Word)
  /-- R473: the command is executed and waits for `wait` -/
  wait : CtxWait
  /-- R367: a stop that waits for the boundary after the commit that was running -/
  due : Option StopDue
  /-- R476: completions and reports that wait for ring room, oldest first, at most 16; and the ring's phase -/
  waiting : List (List Word)
  phase : Bool
  /-- a superstep boundary has passed and its release is withheld, by a stop, a pre-emption or a park -/
  withheld : Bool
  /-- R226: sequencers have stopped and tile ports discard -/
  halted : Bool
  /-- R484: physical tiles whose S has executed `sys.exit` -/
  exited : List Nat
  /-- R477: the first failing physical tile, and the status its STOPPED report carries -/
  failTile : Nat
  saved : Option Saved
  deriving DecidableEq, Repr

/-- EMPTY (R451). -/
def ImageCtx.reset : ImageCtx :=
  { state := .empty, busy := false, cause := 0, imageId := 0, nmills := 0, preempt := false, mills := [], lost := [], locked := false,
    allocs := [], hosts := [], digest := [], memKey := none, cmdStop := false, cmd := none, wait := .none, due := none, waiting := [], phase := true,
    withheld := false, halted := false, exited := [], failTile := 0xFFFF, saved := none }

end Sys2Proof.Machine
end

