-- ==== Sys2Proof/Machine/PowerState.lean ====
section
/-!
DEFINITION. The state of chapter 13 that is not a register (the Lehr domain, its comparators and counters, the mill
clocks, the Governor, parking), of the event recorder (R584 to R593), and of start-up (R619, R620).
-/
namespace Sys2Proof.Machine

/-- The clock-gating levels of R542. -/
inductive Gate where
  | g0 | g1 | g2 | g3
  deriving DecidableEq, Repr

/-- One mill clock (R540 to R548). -/
structure MillClk where
  gate : Gate
  /-- level k of R540, -16 to 16 -/
  level : Int
  /-- the level the generator steps toward -/
  target : Int
  /-- boost steps granted to this mill (R545) -/
  granted : Nat
  /-- the mill lends its budget (R544) -/
  lend : Bool
  /-- the cycle from which the mill has been idle without a break, if it is idle (R542, R544) -/
  idleSince : Option Nat
  /-- an operation is due since that cycle, and the clock waits for its restart window (R548) -/
  wake : Option Nat
  deriving DecidableEq, Repr

/-- GOV_MILLp resets to gate 3, level 0. -/
def MillClk.reset : MillClk :=
  { gate := .g3, level := 0, target := 0, granted := 0, lend := false, idleSince := none, wake := none }

/-- The park states of LEHR_PARK.STATE. -/
inductive ParkStage where
  | run | parking | parked | unparking
  deriving DecidableEq, Repr

/-- One record of the event recorder: its sequence number and its eight words (R584, R588). -/
structure EvRec where
  seq : Nat
  words : List Word
  deriving DecidableEq, Repr

/-- The Lehr domain (R535 to R565). Its registers stand in the register file. -/
structure Lehr where
  /-- the 12 V auxiliary input is present; the 50 V input is present -/
  aux : Bool
  main : Bool
  /-- the 50 V domain is powered -/
  dom50 : Bool
  /-- R624: OFF or TRIP has been performed, and the 50 V domain may not power up yet -/
  latched : Bool
  /-- R624: the cycle at which the 50 V input fell away, while it is absent -/
  lostAt : Nat
  /-- operating time in ms up to `opSince`, the cycle at which the 50 V domain was powered (R536) -/
  opBase : Nat
  opSince : Nat
  /-- power cycles (R536), saturating at 32 bits -/
  powerCycles : Nat
  /-- R537: the Lehr buffer, and the records it has lost -/
  buffer : List (List Word)
  bufLost : Nat
  /-- the domain runs on its crystal (R615) -/
  crystal : Bool
  /-- the cycle from which crystal edges, or their absence, have been seen -/
  crystalSince : Nat
  /-- LEHR_CMP_STAT.ACTIVE, TJMAX and TCOOL -/
  active : BitVec 10
  tjMax : Nat
  tCool : Nat
  /-- per die (its number in the order of R27), the last valid reading in °C -/
  dieTemp : List (Nat × Nat)
  /-- THERM_TRIP_N is asserted (low) -/
  thermTrip : Bool
  /-- SITE_ALERT_N is asserted (its accepted level is low) and the cycle of its last accepted change -/
  siteAlert : Bool
  siteSince : Nat
  /-- R556: inputs held for chatter (0 SITE_ALERT_N, 1 SYNC_PPS, 2 MOD_RST_N, 3 PERST_N), with their hold's cycle -/
  held : List (Nat × Nat)
  /-- REFCLK is in range, and since which cycle -/
  refclk : Bool
  refclkSince : Nat
  /-- R620: start-up is held at t1 since that cycle, and event 0x9009 has not been recorded yet -/
  holdSince : Option Nat
  /-- R555: the cycle of the last accepted SYNC_PPS edge; PPS_LOST -/
  ppsLast : Option Nat
  ppsLost : Bool
  deriving DecidableEq, Repr

/-- The Lehr domain as its inputs have just appeared (R535): both supplies present, the 50 V domain not yet counted. -/
def Lehr.reset : Lehr :=
  { aux := true, main := true, dom50 := true, latched := false, lostAt := 0, opBase := 0, opSince := 0, powerCycles := 0, buffer := [], bufLost := 0,
    crystal := true, crystalSince := 0, active := 0, tjMax := 0, tCool := 0, dieTemp := [], thermTrip := false,
    siteAlert := false, siteSince := 0, held := [], refclk := true, refclkSince := 0, holdSince := none, ppsLast := none,
    ppsLost := false }

/-- Parking (R558 to R564). -/
structure Park where
  stage : ParkStage
  /-- LEHR_PARK.CAUSES: bit 0 SITE, 1 temperature, 2 coolant, 3 REFCLK, 4 HOST -/
  causes : BitVec 5
  /-- the cycle of the first request, and of the entry into PARKED -/
  since : Nat
  parkedAt : Nat
  /-- image contexts at their park point, whose release (BOUNDARY) or actions 8 and 9 (COMMIT) are withheld -/
  atPoint : List Nat
  /-- contexts stopped by the park -/
  stopped : Nat
  /-- R562: every context is at its park point, and the module quiesces -/
  begun : Bool
  /-- R565: the unpark under way was started by a host write -/
  byHost : Bool
  deriving DecidableEq, Repr

/-- RUN, no cause. -/
def Park.reset : Park := { stage := .run, causes := 0, since := 0, parkedAt := 0, atPoint := [], stopped := 0, begun := false, byHost := false }

/-- The Governor (R540 to R548). -/
structure Gov where
  mills : Tab MillClk
  /-- THROTTLE is active, and its cause (0 power, 1 temperature) -/
  throttle : Bool
  cause : Nat
  /-- input power averaged over the last 1 ms, in watts -/
  watts : Nat
  /-- base dies whose mill PLL runs, and for those without a bound mill the cycle of the last unbinding (R541) -/
  pll : List Nat
  pllIdle : List (Nat × Nat)
  /-- R546: steps that reclaims have asked back since the last tick -/
  reclaim : Nat
  /-- R548: the last window of 8 ns in which a clock was started, and how many were -/
  window : Nat
  started : Nat
  deriving DecidableEq, Repr

/-- No mill clock runs and no PLL is started. -/
def Gov.reset : Gov := { mills := [], throttle := false, cause := 0, watts := 0, pll := [], pllIdle := [], reclaim := 0, window := 0, started := 0 }

/-- One pair of the coalescing table of a millisecond (R591, R592). -/
structure Pair where
  code : Nat
  source : Nat
  /-- occurrences counted and not recorded -/
  count : Nat
  /-- parameters P1 and P2 of the last occurrence -/
  p1 : Word
  p2 : Word
  /-- an overflow pair of R592, held beside the 256 -/
  overflow : Bool
  deriving DecidableEq, Repr

/-- The event recorder (R584 to R593). -/
structure Evr where
  /-- R588: the number the next record receives -/
  head : Nat
  /-- at most 1,024 newest records, oldest first -/
  sram : List EvRec
  /-- the NOR ring, at most 65,536 records, oldest first; kept across power cycles -/
  nor : List EvRec
  /-- the next number to copy to the NOR -/
  norNext : Nat
  /-- losses not yet reported by a record 0xA0F1: the first lost number and the count (R589) -/
  lostFirst : Nat
  lostCount : Nat
  /-- R593: the number of the first record written in this cycle -/
  cycleHead : Nat
  /-- R593: the NOR erase of a clear is running -/
  erasing : Bool
  /-- the millisecond of the coalescing table, and its pairs in the order of their first occurrence -/
  ms : Nat
  pairs : List Pair
  /-- R590: a copy into the window is due; the window's record once READY -/
  copying : Bool
  window : List Word
  /-- the millisecond in which EVR_CTL.VEC was last raised -/
  vecMs : Option Nat
  /-- R582: the endpoint ID of the registered event receiver; no command of the table registers one (log 126) -/
  receiver : Option Nat
  deriving DecidableEq, Repr

/-- A new module's recorder: empty, numbering from 0 (log 5). -/
def Evr.reset : Evr :=
  { head := 0, sram := [], nor := [], norNext := 0, lostFirst := 0, lostCount := 0, cycleHead := 0, erasing := false, ms := 0,
    pairs := [], copying := false, window := [], vecMs := none, receiver := Config.eventReceiver }

/-- Where the module stands in the sequence of R619. -/
inductive Stage where
  /-- the 50 V domain is unpowered -/
  | off
  /-- MOD_RST_N is asserted: fundamental reset -/
  | inReset
  /-- MOD_RST_N released, waiting at t1 for REFCLK (R620) -/
  | waitRefclk
  /-- the boot ROM may verify firmware (R569) -/
  | boot
  /-- firmware runs, memories are being poisoned (R504) -/
  | poisoning
  /-- memories hold poison, the loader is not ready yet -/
  | poisoned
  /-- start-up has ended -/
  | ready
  deriving DecidableEq, Repr

end Sys2Proof.Machine
end

