-- ==== Sys2Proof/Machine/RegTable.lean ====
section
/-!
DEFINITION. The register tables of the manual: for every register its BAR0 offset, its instances, and its fields with
their access types and reset values (R4, R9, R12 and the register rule of each chapter). A reset value that the
manual gives as per part, per boot or persisted stands here as 0: those registers are live views of other state.
The manual fixes no offsets for the capability entries beyond R43: they follow one another from 0x1000 (log 2).
-/
namespace Sys2Proof.Machine

/-- The access types of R9. -/
inductive FieldType where
  | ro | rw | wo | w1c | w1s | rwl
  deriving DecidableEq, Repr

/-- One field of a register table: bits `lo` to `lo + len - 1`. A reserved field is not listed. -/
structure RegField where
  lo : Nat
  len : Nat
  type : FieldType
  reset : Nat
  deriving DecidableEq, Repr

/-- One register table. An instance of it lies at `base` plus an index below the count times the stride, for
each of `dims`. -/
structure RegDesc where
  base : Nat
  dims : List (Nat × Nat)
  fields : List RegField
  deriving DecidableEq, Repr

namespace Reg

/-- R42: offset of the first capability entry. -/
abbrev CAP_CHAIN_PTR : Nat := 0x00000040
/-- R100: identity of the tile. -/
abbrev TILE_ID : Nat := 0x01008000
/-- R100: binding and lock state. -/
abbrev TILE_STATE : Nat := 0x01008004
/-- R100: entry of the S trap handler. -/
abbrev TILE_TRAP_VEC : Nat := 0x01008008
/-- R100: port contention counter. -/
abbrev TILE_PORT_WAIT : Nat := 0x0100800C
/-- R100: address of the first violation captured. -/
abbrev TILE_ERR_ADDR_LO : Nat := 0x01008010
/-- R100: upper half of the captured address. -/
abbrev TILE_ERR_ADDR_HI : Nat := 0x01008014
/-- R100: details of the captured violation. -/
abbrev TILE_ERR_INFO : Nat := 0x01008018
/-- R100: physical start of the context's region. -/
abbrev TILE_CTX_BASE : Nat := 0x01008100
/-- R100: size of the context's region. -/
abbrev TILE_CTX_BOUND : Nat := 0x01008104
/-- R100: program counter. -/
abbrev TILE_CTX_PC : Nat := 0x01008108
/-- R100: run state. -/
abbrev TILE_CTX_STATE : Nat := 0x0100810C
/-- R100: cause of the last trap. -/
abbrev TILE_TRAP_CAUSE : Nat := 0x01008110
/-- R100: address of the trapped bundle. In context 0, the pc saved on entry to the handler. -/
abbrev TILE_TRAP_PC : Nat := 0x01008114
/-- R100: operand address of the trap. -/
abbrev TILE_TRAP_ADDR : Nat := 0x01008118
/-- R100: the instruction word that trapped. -/
abbrev TILE_TRAP_INFO : Nat := 0x0100811C
/-- R100: conversion settings for cvt.st and cvt.ld. -/
abbrev TILE_CVT_CFG : Nat := 0x01008120
/-- R100: tensor ID for counting and for stochastic rounding. -/
abbrev TILE_CVT_TID : Nat := 0x01008124
/-- R100: scale pointer for cvt.st. -/
abbrev TILE_CVT_SPTR : Nat := 0x01008128
/-- R100: physical counts. -/
abbrev CAP_TA_PHYS : Nat := 0x00001028
/-- R100: enabled counts. This word is live. -/
abbrev CAP_TA_ENABLED : Nat := 0x0000102C
/-- R100: organisation. -/
abbrev CAP_TA_GEOM : Nat := 0x00001030
/-- R100: tile memory. -/
abbrev CAP_TA_MEM : Nat := 0x00001034
/-- R100: core resources. -/
abbrev CAP_TA_CORE : Nat := 0x00001038
/-- R100: spare map. These words are live. -/
abbrev CAP_TA_SPAREn : Nat := 0x0000103C
/-- R100: fence map. These words are live. -/
abbrev CAP_TA_FENCEDn : Nat := 0x00001048
/-- R151: identity and binding of the mill. -/
abbrev MILL_ID : Nat := 0x01000000
/-- R151: queue state. -/
abbrev MILL_Q_STATUS : Nat := 0x01000004
/-- R151: address of the first violation captured. -/
abbrev MILL_ERR_ADDR_LO : Nat := 0x01000010
/-- R151: upper half of the captured address. -/
abbrev MILL_ERR_ADDR_HI : Nat := 0x01000014
/-- R151: details of the captured violation. -/
abbrev MILL_ERR_INFO : Nat := 0x01000018
/-- R151: slot and chain saturations (R132). -/
abbrev MILL_SLOT_SAT : Nat := 0x01000020
/-- R151: NaN outputs (R132). -/
abbrev MILL_SLOT_NAN : Nat := 0x01000024
/-- R151: reserved T2 codes and infinite inputs (R132). -/
abbrev MILL_FMT_ERR : Nat := 0x01000028
/-- R151: drain saturations (R146). -/
abbrev MILL_DRN_SAT : Nat := 0x0100002C
/-- R151: drain flushes to zero (R146). -/
abbrev MILL_DRN_FTZ : Nat := 0x01000030
/-- R151: NaN values met by drains (R146). -/
abbrev MILL_DRN_NAN : Nat := 0x01000034
/-- R151: commands discarded in FAULT (R109). -/
abbrev MILL_DISCARD : Nat := 0x01000038
/-- R151: activity. -/
abbrev MILL_ROWS : Nat := 0x0100003C
/-- R151: mode and K sequence of slot s. The fields show the values that the next command entering the queue is checked against. -/
abbrev MILL_SLOT_STATEs : Nat := 0x01000080
/-- R151: array size in FP4 cells. -/
abbrev CAP_MM_ARRAY : Nat := 0x00001070
/-- R151: queue and bands. -/
abbrev CAP_MM_QUEUE : Nat := 0x00001074
/-- R151: accumulator memory. -/
abbrev CAP_MM_ACC : Nat := 0x00001078
/-- R151: supported operand pairs and modes. -/
abbrev CAP_MM_PAIRS : Nat := 0x0000107C
/-- R151: pipeline constants of R133 and R147. -/
abbrev CAP_MM_TIMING : Nat := 0x00001080
/-- R177: conversion saturations. -/
abbrev TILE_CVT_SAT : Nat := 0x01008020
/-- R177: conversion flushes. -/
abbrev TILE_CVT_FTZ : Nat := 0x01008024
/-- R177: NaN inputs. -/
abbrev TILE_CVT_NAN : Nat := 0x01008028
/-- R177: format errors. -/
abbrev TILE_CVT_FMT : Nat := 0x0100802C
/-- R193: supported format codes. -/
abbrev CAP_FMT_CODES : Nat := 0x00001090
/-- R193: block scaling. -/
abbrev CAP_FMT_SCALE : Nat := 0x00001094
/-- R193: stochastic rounding. -/
abbrev CAP_FMT_SR : Nat := 0x00001098
/-- R193: precision guard. -/
abbrev CAP_FMT_GUARD : Nat := 0x0000109C
/-- R229: address of the first violation captured. -/
abbrev RACE_ERR_ADDR_LO : Nat := 0x00300010
/-- R229: router that captured the violation. -/
abbrev RACE_ERR_ADDR_HI : Nat := 0x00300014
/-- R229: details of the captured violation. -/
abbrev RACE_ERR_INFO : Nat := 0x00300018
/-- R229: padding overruns (R228). -/
abbrev RACE_PAD_OVR : Nat := 0x00300020
/-- R229: packets to fenced tiles (R219). -/
abbrev RACE_FENCED : Nat := 0x00300024
/-- R229: combining back-pressure (R222). -/
abbrev RACE_RED_HOLD : Nat := 0x00300028
/-- R229: BF16 combining saturations (R220). -/
abbrev RACE_RED_SAT : Nat := 0x0030002C
/-- R229: moves to escape lanes (R216). -/
abbrev RACE_DETOUR : Nat := 0x00300030
/-- R229: corrected link errors (R212). -/
abbrev RACE_LINK_CE : Nat := 0x00300034
/-- R229: exception table entry n (R216). -/
abbrev RACE_EXCn : Nat := 0x00300100
/-- R229: tile map of context c (R215). -/
abbrev RACE_MAPc_w : Nat := 0x00301000
/-- R229: mesh geometry (R213). -/
abbrev CAP_RACE_GEOM : Nat := 0x000010D0
/-- R229: latency constants (R225), in Race cycles. -/
abbrev CAP_RACE_LAT : Nat := 0x000010D4
/-- R229: rates. -/
abbrev CAP_RACE_BW : Nat := 0x000010D8
/-- R229: router input buffers per port (R211), in flits. -/
abbrev CAP_RACE_BUF : Nat := 0x000010DC
/-- R229: exchange program limits (R202). -/
abbrev CAP_RACE_XP : Nat := 0x000010E0
/-- R229: combining resources (R220 to R223). -/
abbrev CAP_RACE_RED : Nat := 0x000010E4
/-- R273: item of the first violation captured. -/
abbrev SYNC_ERR_ADDR_LO : Nat := 0x00320010
/-- R273: originator of the captured violation. -/
abbrev SYNC_ERR_ADDR_HI : Nat := 0x00320014
/-- R273: details of the captured violation. -/
abbrev SYNC_ERR_INFO : Nat := 0x00320018
/-- R273: refused sync events. -/
abbrev SYNC_REFUSED : Nat := 0x00320020
/-- R273: refused sends. -/
abbrev HOP_REFUSED : Nat := 0x00320024
/-- R273: queue contents discarded on close (R267). -/
abbrev HOP_DISCARD : Nat := 0x00320028
/-- R273: selects the physical counter shown at 0x0044–0x005C. -/
abbrev SYNC_OBJ_SEL : Nat := 0x00320040
/-- R273: per-phase targets of the selected object. -/
abbrev SYNC_OBJ_CFG : Nat := 0x00320044
/-- R273: current counts of the selected object. -/
abbrev SYNC_OBJ_CNT : Nat := 0x00320048
/-- R273: state of the selected object. -/
abbrev SYNC_OBJ_STATE : Nat := 0x0032004C
/-- R273: bytes announced, bits 31:0. -/
abbrev SYNC_OBJ_ANN_LO : Nat := 0x00320050
/-- R273: bytes announced, bits 47:32. -/
abbrev SYNC_OBJ_ANN_HI : Nat := 0x00320054
/-- R273: bytes credited, bits 31:0. -/
abbrev SYNC_OBJ_CRD_LO : Nat := 0x00320058
/-- R273: bytes credited, bits 47:32. -/
abbrev SYNC_OBJ_CRD_HI : Nat := 0x0032005C
/-- R273: selects the tile and channel shown at 0x0064–0x0074. -/
abbrev HOP_SEL : Nat := 0x00320060
/-- R273: state of the selected channel. -/
abbrev HOP_CH_STATE : Nat := 0x00320064
/-- R273: messages sent on the selected channel. -/
abbrev HOP_CH_MSGS : Nat := 0x00320068
/-- R273: stall cycles of the selected channel (R259, R263). -/
abbrev HOP_CH_STALLS : Nat := 0x0032006C
/-- R273: sends dropped on the selected channel (R269). -/
abbrev HOP_CH_DROP : Nat := 0x00320070
/-- R273: receive state of the selected tile. -/
abbrev HOP_RX_STATE : Nat := 0x00320074
/-- R273: wait watchdog (R255). -/
abbrev SYNC_WDOGc : Nat := 0x00320100
/-- R273: translation (R230). -/
abbrev SYNC_XLATc_v : Nat := 0x00340000
/-- R273: object counts. -/
abbrev CAP_SYNC_IDS : Nat := 0x000010F0
/-- R273: counters per unit, lower levels (R232). -/
abbrev CAP_SYNC_LVL0 : Nat := 0x000010F4
/-- R273: counters per unit, upper levels (R232). -/
abbrev CAP_SYNC_LVL1 : Nat := 0x000010F8
/-- R273: worst-case release latencies (R235), in Race cycles. -/
abbrev CAP_SYNC_LAT : Nat := 0x000010FC
/-- R273: hoppers, channels and rings. -/
abbrev CAP_SYNC_HOP : Nat := 0x00001100
/-- R273: bindings and held events. -/
abbrev CAP_SYNC_MISC : Nat := 0x00001104
/-- R310: address of the first violation captured. -/
abbrev SLC_ERR_ADDR_LO : Nat := 0x00380010
/-- R310: space and upper address. -/
abbrev SLC_ERR_ADDR_HI : Nat := 0x00380014
/-- R310: details of the captured violation. -/
abbrev SLC_ERR_INFO : Nat := 0x00380018
/-- R310: refused descriptors. -/
abbrev SLC_REFUSED : Nat := 0x00380020
/-- R310: dry events over all queues (R299). -/
abbrev SLC_DRY : Nat := 0x00380024
/-- R310: page faults (R304). -/
abbrev SLC_FAULTS : Nat := 0x00380028
/-- R310: selects the queue shown at 0x0044–0x0074. -/
abbrev SLC_SEL : Nat := 0x00380040
/-- R310: status word of the selected queue (R285). -/
abbrev SLC_Q_STATUS : Nat := 0x00380044
/-- R310: progress of the selected queue, bits 31:0 (R296). -/
abbrev SLC_Q_DONE_LO : Nat := 0x00380048
/-- R310: progress of the selected queue, bits 47:32. -/
abbrev SLC_Q_DONE_HI : Nat := 0x0038004C
/-- R310: dry events of the selected queue (R299). -/
abbrev SLC_Q_DRY : Nat := 0x00380074
/-- R310: fault record word w of the selected queue (R305). -/
abbrev SLC_Q_FAULTw : Nat := 0x00380050
/-- R310: resume or abort of the selected queue (R306, R307). -/
abbrev SLC_RESUME : Nat := 0x00380070
/-- R310: translation invalidation (R281). -/
abbrev SLC_INV : Nat := 0x00380080
/-- R310: root table of context c, low half. -/
abbrev SLC_PTBc_LO : Nat := 0x00380100
/-- R310: root table of context c, high half. -/
abbrev SLC_PTBc_HI : Nat := 0x00380104
/-- R310: virtual limit of context c, low half (R277). -/
abbrev SLC_VLIMc_LO : Nat := 0x00380180
/-- R310: virtual limit of context c, high half. -/
abbrev SLC_VLIMc_HI : Nat := 0x00380184
/-- R310: fault timeout of context c (R307). -/
abbrev SLC_FTMOc : Nat := 0x00380200
/-- R310: HBM organisation (R274 to R276). -/
abbrev CAP_ST_HBM : Nat := 0x000010A8
/-- R310: usable capacity. -/
abbrev CAP_ST_SIZE : Nat := 0x000010AC
/-- R310: queues and limits (R282, R294, R295). -/
abbrev CAP_ST_QUEUE : Nat := 0x000010B0
/-- R310: descriptor limits (R288, R293). -/
abbrev CAP_ST_DESC : Nat := 0x000010B4
/-- R310: latency bounds for R300. -/
abbrev CAP_ST_LAT : Nat := 0x000010B8
/-- R310: bandwidth bounds for R300. -/
abbrev CAP_ST_BW : Nat := 0x000010BC
/-- R310: translation (R277 to R279). -/
abbrev CAP_ST_XLAT : Nat := 0x000010C0
/-- R363: address of the first violation captured. -/
abbrev FLM_CX_ERR_ADDR_LO : Nat := 0x00F00010
/-- R363: peer and upper address. -/
abbrev FLM_CX_ERR_ADDR_HI : Nat := 0x00F00014
/-- R363: details of the captured violation. -/
abbrev FLM_CX_ERR_INFO : Nat := 0x00F00018
/-- R363: stale gathers answered (R330). -/
abbrev FLM_CX_STALE : Nat := 0x00F00020
/-- R363: timeouts (R334). -/
abbrev FLM_CX_TMO : Nat := 0x00F00024
/-- R363: refused frames (R337). -/
abbrev FLM_CX_ARR_REF : Nat := 0x00F00028
/-- R363: saturations in encoding, cullet writes and decode-sums (R342, R343, R347). -/
abbrev FLM_CX_CMP_SAT : Nat := 0x00F0002C
/-- R363: NaN inputs met by compression (R342, R343). -/
abbrev FLM_CX_CMP_NAN : Nat := 0x00F00030
/-- R363: cullet flushes (R343). -/
abbrev FLM_CX_CUL_FTZ : Nat := 0x00F00034
/-- R363: selects the tensor record shown at 0x0044–0x0048. -/
abbrev FLM_CX_TSEL : Nat := 0x00F00040
/-- R363: current generation of the selected tensor. -/
abbrev FLM_CX_TGEN : Nat := 0x00F00044
/-- R363: state of the selected tensor. -/
abbrev FLM_CX_TSTATE : Nat := 0x00F00048
/-- R363: operations running on the device. -/
abbrev FLM_CX_RUN : Nat := 0x00F0004C
/-- R363: request timeout (R334). -/
abbrev FLM_CX_TMOc : Nat := 0x00F00100
/-- R363: mode and cullet state. -/
abbrev FLM_CX_CTLc : Nat := 0x00F00140
/-- R363: section limits (R320). -/
abbrev CAP_CX_TAB : Nat := 0x00001128
/-- R363: ranks and concurrency (R313, R321). -/
abbrev CAP_CX_LIM : Nat := 0x0000112C
/-- R363: engine resources. -/
abbrev CAP_CX_RATE : Nat := 0x00001130
/-- R363: compression (R342 to R345). -/
abbrev CAP_CX_CMP : Nat := 0x00001134
/-- R363: overlap mode limits (R356, R357). -/
abbrev CAP_OV_CFG : Nat := 0x000011A0
/-- R397: address of the first violation captured. -/
abbrev UPD_ERR_ADDR_LO : Nat := 0x00390010
/-- R397: upper address. -/
abbrev UPD_ERR_ADDR_HI : Nat := 0x00390014
/-- R397: details of the captured violation. -/
abbrev UPD_ERR_INFO : Nat := 0x00390018
/-- R397: update narrowing saturations (R380). -/
abbrev UPD_SAT : Nat := 0x00390020
/-- R397: update flushes (R380). -/
abbrev UPD_FTZ : Nat := 0x00390024
/-- R397: NaN values written or narrowed (R380). -/
abbrev UPD_NAN : Nat := 0x00390028
/-- R397: partial input-window writes (R384). -/
abbrev UPD_IN_PART : Nat := 0x0039002C
/-- R397: ledger cursor (R395). -/
abbrev UPD_PL_CURSOR : Nat := 0x00390040
/-- R397: ledger record window. -/
abbrev UPD_PL_WINDOWw : Nat := 0x00390080
/-- R397: pending step size (R370). -/
abbrev UPD_STEP_SIZEc : Nat := 0x00391000
/-- R397: pending seed (R371). -/
abbrev UPD_SEEDc : Nat := 0x00391004
/-- R397: step number, bits 31:0 (R369). -/
abbrev UPD_STEPc_LO : Nat := 0x00391008
/-- R397: step number, bits 63:32. -/
abbrev UPD_STEPc_HI : Nat := 0x0039100C
/-- R397: commit state. -/
abbrev UPD_CMTc : Nat := 0x00391010
/-- R397: replay control (R387 to R390). -/
abbrev UPD_RPL_CTLc : Nat := 0x00391014
/-- R397: first captured step (R391). -/
abbrev UPD_CAP_FIRSTc : Nat := 0x00391018
/-- R397: capture control. -/
abbrev UPD_CAP_CTLc : Nat := 0x0039101C
/-- R397: capture region. -/
abbrev UPD_CAP_BASEc : Nat := 0x00391020
/-- R397: capture region size. -/
abbrev UPD_CAP_SIZEc : Nat := 0x00391024
/-- R397: armed record. -/
abbrev UPD_RPL_RECc_w : Nat := 0x00391040
/-- R397: record computed by the replay. -/
abbrev UPD_RPL_OUTc_w : Nat := 0x00391080
/-- R397: section limits. -/
abbrev CAP_UPD_LIM : Nat := 0x00001140
/-- R397: resources. -/
abbrev CAP_UPD_RES : Nat := 0x00001144
/-- R397: records. -/
abbrev CAP_JR_REC : Nat := 0x00001150
/-- R397: ledger and capture. -/
abbrev CAP_JR_LEDGER : Nat := 0x00001154
/-- R447: addresses of the first violation captured. -/
abbrev FLM_ERR_ADDR_LO : Nat := 0x00800010
/-- R447: port of the captured violation. -/
abbrev FLM_ERR_ADDR_HI : Nat := 0x00800014
/-- R447: details of the captured violation. -/
abbrev FLM_ERR_INFO : Nat := 0x00800018
/-- R447: frames discarded by R403 and R414. -/
abbrev FLM_DISCARD : Nat := 0x00800020
/-- R447: authentication failures (R410). -/
abbrev FLM_AUTH_FAIL : Nat := 0x00800024
/-- R447: stalled frames (R418). -/
abbrev FLM_STALL : Nat := 0x00800028
/-- R447: own Flume address (R413). -/
abbrev FLM_FA : Nat := 0x00800040
/-- R447: routing control. -/
abbrev FLM_CTL : Nat := 0x00800044
/-- R447: global time, bits 31:0 (R426). -/
abbrev FLM_TIME_LO : Nat := 0x00800050
/-- R447: global time, bits 63:32. -/
abbrev FLM_TIME_HI : Nat := 0x00800054
/-- R447: time discipline (R427, R429). -/
abbrev FLM_TIME_CTL : Nat := 0x00800058
/-- R447: time state. -/
abbrev FLM_TIME_STAT : Nat := 0x0080005C
/-- R447: port control. -/
abbrev FLM_PORT_CTLn : Nat := 0x00801000
/-- R447: port state. -/
abbrev FLM_PORT_STATn : Nat := 0x00801004
/-- R447: link error counts (R405). -/
abbrev FLM_PORT_ERRn : Nat := 0x00801008
/-- R447: neighbour serial number, bits 31:0. -/
abbrev FLM_NBR_SNn_LO : Nat := 0x00801010
/-- R447: neighbour serial number, bits 63:32. -/
abbrev FLM_NBR_SNn_HI : Nat := 0x00801014
/-- R447: neighbour (R412). -/
abbrev FLM_NBR_INFOn : Nat := 0x00801018
/-- R447: route entry (R414). -/
abbrev FLM_RTd : Nat := 0x00810000
/-- R447: messages discarded (R435, R436). -/
abbrev TWIN_DISCARD : Nat := 0x00E00020
/-- R447: records too old to compare (R437). -/
abbrev TWIN_MISS : Nat := 0x00E00024
/-- R447: twin control. -/
abbrev TWIN_CTL : Nat := 0x00E00040
/-- R447: twin state. -/
abbrev TWIN_STATE : Nat := 0x00E00044
/-- R447: agreed step, bits 31:0 (R439). -/
abbrev TWIN_AGREED_LO : Nat := 0x00E00050
/-- R447: agreed step, bits 63:32. -/
abbrev TWIN_AGREED_HI : Nat := 0x00E00054
/-- R447: silence timeout (R440). -/
abbrev TWIN_TMO : Nat := 0x00E00058
/-- R447: network descriptor, bits 31:0 (R433). -/
abbrev TWIN_NET_LO : Nat := 0x00E00060
/-- R447: network descriptor, bits 47:32. -/
abbrev TWIN_NET_HI : Nat := 0x00E00064
/-- R447: rejoin table, bits 31:0 (R442). -/
abbrev TWIN_RJ_TAB_LO : Nat := 0x00E00070
/-- R447: rejoin table, bits 47:32. -/
abbrev TWIN_RJ_TAB_HI : Nat := 0x00E00074
/-- R447: rejoin control. -/
abbrev TWIN_RJ_CTL : Nat := 0x00E00078
/-- R447: named step. -/
abbrev TWIN_RJ_STEP : Nat := 0x00E0007C
/-- R447: rejoin rate (R443). -/
abbrev TWIN_RJ_RATE : Nat := 0x00E00080
/-- R447: ports and domain. -/
abbrev CAP_FLM_PORTS : Nat := 0x00001110
/-- R447: Ethernet-capable ports (R399). -/
abbrev CAP_FLM_ETH : Nat := 0x00001114
/-- R447: bounds (R405, R425). -/
abbrev CAP_FLM_LAT : Nat := 0x00001118
/-- R447: combining and time (R420, R421, R430). -/
abbrev CAP_FLM_RED : Nat := 0x0000111C
/-- R447: twin configuration. -/
abbrev CAP_TW_CFG : Nat := 0x00001160
/-- R447: twin limits. -/
abbrev CAP_TW_LIM : Nat := 0x00001164
/-- R493: command ring address, low half. -/
abbrev HST_CMD_BASE_LO : Nat := 0x00100000
/-- R493: command ring address, high half. -/
abbrev HST_CMD_BASE_HI : Nat := 0x00100004
/-- R493: command ring configuration. -/
abbrev HST_CMD_CFG : Nat := 0x00100008
/-- R493: command ring indices. -/
abbrev HST_CMD_IDX : Nat := 0x0010000C
/-- R493: completion ring address, low half. -/
abbrev HST_CPL_BASE_LO : Nat := 0x00100010
/-- R493: completion ring address, high half. -/
abbrev HST_CPL_BASE_HI : Nat := 0x00100014
/-- R493: completion ring configuration. -/
abbrev HST_CPL_CFG : Nat := 0x00100018
/-- R493: completion ring indices. -/
abbrev HST_CPL_IDX : Nat := 0x0010001C
/-- R493: context state. -/
abbrev HST_CTX_STATE : Nat := 0x00100020
/-- R493: VF BAR2 window (R453). -/
abbrev HST_VWIN : Nat := 0x00100024
/-- R493: sync doorbell, bits 31:0 (R480). -/
abbrev HST_SYNC_DB_LO : Nat := 0x00100040
/-- R493: sync doorbell, bits 63:32. -/
abbrev HST_SYNC_DB_HI : Nat := 0x00100044
/-- R493: address of the first violation captured. -/
abbrev HST_ERR_ADDR_LO : Nat := 0x00110010
/-- R493: function and upper address. -/
abbrev HST_ERR_ADDR_HI : Nat := 0x00110014
/-- R493: details of the captured violation. -/
abbrev HST_ERR_INFO : Nat := 0x00110018
/-- R493: completions and reports dropped (R476). -/
abbrev HST_CPL_LOST : Nat := 0x00110020
/-- R493: PF BAR2 window (R453). -/
abbrev HST_BAR2_BASE : Nat := 0x00110040
/-- R493: forced operations (R492). -/
abbrev LDR_FORCE : Nat := 0x00200000
/-- R493: free resources. This register is live. -/
abbrev LDR_FREE : Nat := 0x00200004
/-- R534: address of the first violation captured. -/
abbrev ECC_ERR_ADDR_LO : Nat := 0x003A0010
/-- R534: unit and upper address. -/
abbrev ECC_ERR_ADDR_HI : Nat := 0x003A0014
/-- R534: details of the captured violation. -/
abbrev ECC_ERR_INFO : Nat := 0x003A0018
/-- R534: physical location of a captured uncorrectable read. -/
abbrev ECC_ERR_LOC : Nat := 0x003A001C
/-- R534: corrected tile and slot memory words (R496). -/
abbrev ECC_TM_CE : Nat := 0x003A0020
/-- R534: uncorrectable tile and slot memory reads, poison excluded (R509). -/
abbrev ECC_TM_UE : Nat := 0x003A0024
/-- R534: corrected HBM words (R496). -/
abbrev ECC_HBM_CE : Nat := 0x003A0028
/-- R534: uncorrectable HBM reads, poison excluded (R509). -/
abbrev ECC_HBM_UE : Nat := 0x003A002C
/-- R534: die-kill rebuilds (R501). -/
abbrev ECC_SYM_CE : Nat := 0x003A0030
/-- R534: poison reads (R505). -/
abbrev ECC_POISON : Nat := 0x003A0034
/-- R534: integrity configuration. HBM_NEXT is locked as R498 states. -/
abbrev ECC_CFG : Nat := 0x003A0040
/-- R534: error injection target (R511, R512). -/
abbrev ECC_FLIP_SEL : Nat := 0x003A0050
/-- R534: data mask, bits 31:0. -/
abbrev ECC_FLIP_MASK_LO : Nat := 0x003A0054
/-- R534: data mask, bits 63:32. -/
abbrev ECC_FLIP_MASK_HI : Nat := 0x003A0058
/-- R534: check-bit mask. -/
abbrev ECC_FLIP_CHK : Nat := 0x003A005C
/-- R534: fence request (R525). -/
abbrev ECC_FENCE : Nat := 0x003A0060
/-- R534: fence state. This register is live. -/
abbrev ECC_FENCE_STAT : Nat := 0x003A0064
/-- R534: deferred-fence bound (R526). -/
abbrev ECC_FENCE_TMO : Nat := 0x003A0068
/-- R534: row mapping state. This register is live. -/
abbrev ECC_RMAP_STAT : Nat := 0x003A006C
/-- R534: failed core dies (R502). This register is live. -/
abbrev ECC_DIEk : Nat := 0x003A0080
/-- R566: item of the first violation captured. -/
abbrev GOV_ERR_ADDR_LO : Nat := 0x00400010
/-- R566: context of the captured violation. -/
abbrev GOV_ERR_ADDR_HI : Nat := 0x00400014
/-- R566: details of the captured violation. -/
abbrev GOV_ERR_INFO : Nat := 0x00400018
/-- R566: throttled time (R547). -/
abbrev GOV_THROTTLE : Nat := 0x00400020
/-- R566: rejected SYNC_PPS edges (R555). -/
abbrev GOV_PPS_REJ : Nat := 0x00400024
/-- R566: chatter holds (R556). -/
abbrev GOV_CHATTER : Nat := 0x00400028
/-- R566: Governor control. -/
abbrev GOV_CTL : Nat := 0x00400040
/-- R566: Governor state. This register is live. -/
abbrev GOV_STAT : Nat := 0x00400044
/-- R566: measured power. -/
abbrev GOV_POWER : Nat := 0x00400048
/-- R566: power-gating delay in running contexts (R542). -/
abbrev GOV_PG_US : Nat := 0x0040004C
/-- R566: clock state of mill p. -/
abbrev GOV_MILLp : Nat := 0x00400100
/-- R566: operating time, bits 31:0 (R536). -/
abbrev LEHR_OPMS_LO : Nat := 0x00400600
/-- R566: operating time, bits 47:32. -/
abbrev LEHR_OPMS_HI : Nat := 0x00400604
/-- R566: power cycles (R536). -/
abbrev LEHR_PCYC : Nat := 0x00400608
/-- R566: comparator state. This register is live. -/
abbrev LEHR_CMP_STAT : Nat := 0x0040060C
/-- R566: die temperature levels (R538). -/
abbrev LEHR_TJ_CFG : Nat := 0x00400610
/-- R566: coolant levels (R538). -/
abbrev LEHR_COOL_CFG : Nat := 0x00400614
/-- R566: site alert and park policy (R557 to R563). -/
abbrev LEHR_ALERT_CTL : Nat := 0x00400618
/-- R566: park state and requests. -/
abbrev LEHR_PARK : Nat := 0x0040061C
/-- R566: mill clock range in 25 MHz units (R540). -/
abbrev CAP_GOV_CLK : Nat := 0x00001170
/-- R566: power limits (R36). -/
abbrev CAP_GOV_PWR : Nat := 0x00001174
/-- R606: item of the first violation captured. -/
abbrev SKP_ERR_ADDR_LO : Nat := 0x00440010
/-- R606: requester. -/
abbrev SKP_ERR_ADDR_HI : Nat := 0x00440014
/-- R606: details of the captured violation. -/
abbrev SKP_ERR_INFO : Nat := 0x00440018
/-- R606: management packets discarded (R573). -/
abbrev SKP_BUS_DROP : Nat := 0x00440020
/-- R606: export records lost (R583). -/
abbrev SKP_EXP_LOST : Nat := 0x00440024
/-- R606: mode and boot state. This register is live. -/
abbrev SKP_MODE : Nat := 0x00440040
/-- R606: key slots holding keys. This register is live. -/
abbrev SKP_KEYSTAT : Nat := 0x00440044
/-- R606: memory encryption (R597). -/
abbrev SKP_MEMENC : Nat := 0x00440048
/-- R606: Skeop DMA rate (R295). -/
abbrev SKP_DMA_RATE : Nat := 0x0044004C
/-- R606: records lost before reaching NOR (R589). -/
abbrev EVR_LOST : Nat := 0x00450020
/-- R606: occurrences folded into repeat records (R591). -/
abbrev EVR_COALESCED : Nat := 0x00450024
/-- R606: next sequence number (R588). -/
abbrev EVR_HEAD : Nat := 0x00450040
/-- R606: oldest record held. -/
abbrev EVR_OLDEST : Nat := 0x00450044
/-- R606: record shown in the window (R590). -/
abbrev EVR_CURSOR : Nat := 0x00450048
/-- R606: window state. -/
abbrev EVR_STAT : Nat := 0x0045004C
/-- R606: reading and notification. -/
abbrev EVR_CTL : Nat := 0x00450050
/-- R606: record window. -/
abbrev EVR_WINDOWw : Nat := 0x00450080
/-- R606: part number. -/
abbrev CAP_ID_PART : Nat := 0x00001008
/-- R606: silicon stepping. -/
abbrev CAP_ID_STEP : Nat := 0x0000100C
/-- R606: serial number, bits 31:0. -/
abbrev CAP_ID_SN_LO : Nat := 0x00001010
/-- R606: serial number, bits 63:32. -/
abbrev CAP_ID_SN_HI : Nat := 0x00001014
/-- R606: running Skeop firmware. -/
abbrev CAP_ID_FW : Nat := 0x00001018
/-- R606: stores (R588). -/
abbrev CAP_EVR_SIZE : Nat := 0x00001180
/-- R606: coalescing (R591, R592). -/
abbrev CAP_EVR_CFG : Nat := 0x00001184
/-- R606: key resources. -/
abbrev CAP_SEC_KEYS : Nat := 0x00001190
/-- R606: algorithms. -/
abbrev CAP_SEC_ALG : Nat := 0x00001194
/-- R42: the capability entries, as (ID, offset, length in words). -/
def CAP_ENTRIES : List (Nat × Nat × Nat) :=
  [(1, 0x1000, 7),
   (2, 0x1020, 17),
   (3, 0x1068, 7),
   (4, 0x1088, 6),
   (5, 0x10A0, 9),
   (6, 0x10C8, 8),
   (7, 0x10E8, 8),
   (8, 0x1108, 6),
   (9, 0x1120, 6),
   (10, 0x1138, 4),
   (11, 0x1148, 4),
   (12, 0x1158, 4),
   (13, 0x1168, 4),
   (14, 0x1178, 4),
   (15, 0x1188, 4),
   (16, 0x1198, 3)]

end Reg

/-- The registers of the capability chain. -/
def regChain : List RegDesc :=
  [⟨Reg.CAP_CHAIN_PTR, [], [⟨0, 32, .ro, 4096⟩]⟩]

/-- The registers of tiles. -/
def regTile : List RegDesc :=
  [⟨Reg.TILE_ID, [(216, 65536), (8, 4096)], [⟨16, 16, .ro, 65535⟩, ⟨0, 11, .ro, 0⟩]⟩,
   ⟨Reg.TILE_STATE, [(216, 65536), (8, 4096)], [⟨8, 1, .ro, 0⟩, ⟨4, 4, .ro, 0⟩, ⟨0, 2, .ro, 0⟩]⟩,
   ⟨Reg.TILE_TRAP_VEC, [(216, 65536), (8, 4096)], [⟨0, 23, .rwl, 0⟩]⟩,
   ⟨Reg.TILE_PORT_WAIT, [(216, 65536), (8, 4096)], [⟨0, 32, .rw, 0⟩]⟩,
   ⟨Reg.TILE_ERR_ADDR_LO, [(216, 65536), (8, 4096)], [⟨0, 23, .ro, 0⟩]⟩,
   ⟨Reg.TILE_ERR_ADDR_HI, [(216, 65536), (8, 4096)], []⟩,
   ⟨Reg.TILE_ERR_INFO, [(216, 65536), (8, 4096)], [⟨31, 1, .w1c, 0⟩, ⟨16, 15, .ro, 0⟩, ⟨4, 4, .ro, 0⟩, ⟨0, 4, .ro, 0⟩]⟩,
   ⟨Reg.TILE_CTX_BASE, [(216, 65536), (8, 4096), (4, 256)], [⟨0, 23, .rwl, 0⟩]⟩,
   ⟨Reg.TILE_CTX_BOUND, [(216, 65536), (8, 4096), (4, 256)], [⟨0, 23, .rwl, 0⟩]⟩,
   ⟨Reg.TILE_CTX_PC, [(216, 65536), (8, 4096), (4, 256)], [⟨0, 23, .rwl, 0⟩]⟩,
   ⟨Reg.TILE_CTX_STATE, [(216, 65536), (8, 4096), (4, 256)], [⟨8, 1, .ro, 0⟩, ⟨0, 3, .ro, 0⟩]⟩,
   ⟨Reg.TILE_TRAP_CAUSE, [(216, 65536), (8, 4096), (4, 256)], [⟨12, 1, .ro, 0⟩, ⟨8, 4, .ro, 0⟩, ⟨0, 8, .ro, 0⟩]⟩,
   ⟨Reg.TILE_TRAP_PC, [(216, 65536), (8, 4096), (4, 256)], [⟨0, 23, .ro, 0⟩]⟩,
   ⟨Reg.TILE_TRAP_ADDR, [(216, 65536), (8, 4096), (4, 256)], [⟨0, 32, .ro, 0⟩]⟩,
   ⟨Reg.TILE_TRAP_INFO, [(216, 65536), (8, 4096), (4, 256)], [⟨0, 32, .ro, 0⟩]⟩,
   ⟨Reg.TILE_CVT_CFG, [(216, 65536), (8, 4096), (4, 256)], [⟨6, 1, .rw, 0⟩, ⟨4, 2, .rw, 0⟩, ⟨0, 4, .rw, 0⟩]⟩,
   ⟨Reg.TILE_CVT_TID, [(216, 65536), (8, 4096), (4, 256)], [⟨0, 32, .rw, 0⟩]⟩,
   ⟨Reg.TILE_CVT_SPTR, [(216, 65536), (8, 4096), (4, 256)], [⟨0, 23, .rw, 0⟩]⟩,
   ⟨Reg.CAP_TA_PHYS, [], [⟨16, 16, .ro, 1728⟩, ⟨0, 16, .ro, 216⟩]⟩,
   ⟨Reg.CAP_TA_ENABLED, [], [⟨16, 16, .ro, 1536⟩, ⟨0, 16, .ro, 192⟩]⟩,
   ⟨Reg.CAP_TA_GEOM, [], [⟨24, 8, .ro, 8⟩, ⟨16, 8, .ro, 24⟩, ⟨8, 8, .ro, 9⟩, ⟨0, 8, .ro, 8⟩]⟩,
   ⟨Reg.CAP_TA_MEM, [], [⟨24, 8, .ro, 8⟩, ⟨16, 8, .ro, 16⟩, ⟨0, 16, .ro, 1536⟩]⟩,
   ⟨Reg.CAP_TA_CORE, [], [⟨24, 8, .ro, 4⟩, ⟨16, 8, .ro, 16⟩, ⟨8, 8, .ro, 64⟩, ⟨4, 4, .ro, 2⟩, ⟨0, 4, .ro, 4⟩]⟩,
   ⟨Reg.CAP_TA_SPAREn, [(3, 4)], [⟨0, 32, .ro, 0⟩]⟩,
   ⟨Reg.CAP_TA_FENCEDn, [(7, 4)], [⟨0, 32, .ro, 0⟩]⟩]

/-- The registers of mills. -/
def regMill : List RegDesc :=
  [⟨Reg.MILL_ID, [(216, 65536)], [⟨16, 8, .ro, 255⟩, ⟨12, 4, .ro, 0⟩, ⟨0, 8, .ro, 0⟩]⟩,
   ⟨Reg.MILL_Q_STATUS, [(216, 65536)], [⟨30, 2, .ro, 0⟩, ⟨12, 4, .ro, 0⟩, ⟨8, 4, .ro, 0⟩, ⟨0, 6, .ro, 32⟩]⟩,
   ⟨Reg.MILL_ERR_ADDR_LO, [(216, 65536)], [⟨24, 3, .ro, 0⟩, ⟨0, 23, .ro, 0⟩]⟩,
   ⟨Reg.MILL_ERR_ADDR_HI, [(216, 65536)], []⟩,
   ⟨Reg.MILL_ERR_INFO, [(216, 65536)], [⟨31, 1, .w1c, 0⟩, ⟨16, 15, .ro, 0⟩, ⟨8, 4, .ro, 0⟩, ⟨4, 4, .ro, 0⟩, ⟨0, 4, .ro, 0⟩]⟩,
   ⟨Reg.MILL_SLOT_SAT, [(216, 65536)], [⟨0, 32, .rw, 0⟩]⟩,
   ⟨Reg.MILL_SLOT_NAN, [(216, 65536)], [⟨0, 32, .rw, 0⟩]⟩,
   ⟨Reg.MILL_FMT_ERR, [(216, 65536)], [⟨0, 32, .rw, 0⟩]⟩,
   ⟨Reg.MILL_DRN_SAT, [(216, 65536)], [⟨0, 32, .rw, 0⟩]⟩,
   ⟨Reg.MILL_DRN_FTZ, [(216, 65536)], [⟨0, 32, .rw, 0⟩]⟩,
   ⟨Reg.MILL_DRN_NAN, [(216, 65536)], [⟨0, 32, .rw, 0⟩]⟩,
   ⟨Reg.MILL_DISCARD, [(216, 65536)], [⟨0, 32, .rw, 0⟩]⟩,
   ⟨Reg.MILL_ROWS, [(216, 65536)], [⟨0, 32, .rw, 0⟩]⟩,
   ⟨Reg.MILL_SLOT_STATEs, [(216, 65536), (16, 4)], [⟨16, 2, .ro, 0⟩, ⟨8, 7, .ro, 0⟩, ⟨0, 7, .ro, 0⟩]⟩,
   ⟨Reg.CAP_MM_ARRAY, [], [⟨16, 16, .ro, 256⟩, ⟨0, 16, .ro, 256⟩]⟩,
   ⟨Reg.CAP_MM_QUEUE, [], [⟨16, 8, .ro, 32⟩, ⟨8, 8, .ro, 8⟩, ⟨0, 8, .ro, 32⟩]⟩,
   ⟨Reg.CAP_MM_ACC, [], [⟨16, 16, .ro, 256⟩, ⟨8, 8, .ro, 128⟩, ⟨0, 8, .ro, 16⟩]⟩,
   ⟨Reg.CAP_MM_PAIRS, [], [⟨0, 10, .ro, 1023⟩]⟩,
   ⟨Reg.CAP_MM_TIMING, [], [⟨16, 8, .ro, 5⟩, ⟨8, 8, .ro, 18⟩, ⟨0, 8, .ro, 6⟩]⟩]

/-- The registers of conversions and the formats capability. -/
def regCvt : List RegDesc :=
  [⟨Reg.TILE_CVT_SAT, [(216, 65536), (8, 4096)], [⟨0, 32, .rw, 0⟩]⟩,
   ⟨Reg.TILE_CVT_FTZ, [(216, 65536), (8, 4096)], [⟨0, 32, .rw, 0⟩]⟩,
   ⟨Reg.TILE_CVT_NAN, [(216, 65536), (8, 4096)], [⟨0, 32, .rw, 0⟩]⟩,
   ⟨Reg.TILE_CVT_FMT, [(216, 65536), (8, 4096)], [⟨0, 32, .rw, 0⟩]⟩,
   ⟨Reg.CAP_FMT_CODES, [], [⟨0, 16, .ro, 2047⟩]⟩,
   ⟨Reg.CAP_FMT_SCALE, [], [⟨8, 4, .ro, 15⟩, ⟨1, 1, .ro, 1⟩, ⟨0, 1, .ro, 1⟩]⟩,
   ⟨Reg.CAP_FMT_SR, [], [⟨8, 8, .ro, 24⟩, ⟨0, 8, .ro, 1⟩]⟩,
   ⟨Reg.CAP_FMT_GUARD, [], [⟨8, 8, .ro, 5⟩, ⟨0, 8, .ro, 64⟩]⟩]

/-- The registers of the Race. -/
def regRace : List RegDesc :=
  [⟨Reg.RACE_ERR_ADDR_LO, [], [⟨0, 23, .ro, 0⟩]⟩,
   ⟨Reg.RACE_ERR_ADDR_HI, [], [⟨0, 11, .ro, 0⟩]⟩,
   ⟨Reg.RACE_ERR_INFO, [], [⟨31, 1, .w1c, 0⟩, ⟨16, 15, .ro, 0⟩, ⟨12, 4, .ro, 0⟩, ⟨8, 4, .ro, 0⟩, ⟨0, 4, .ro, 0⟩]⟩,
   ⟨Reg.RACE_PAD_OVR, [], [⟨0, 32, .rw, 0⟩]⟩,
   ⟨Reg.RACE_FENCED, [], [⟨0, 32, .rw, 0⟩]⟩,
   ⟨Reg.RACE_RED_HOLD, [], [⟨0, 32, .rw, 0⟩]⟩,
   ⟨Reg.RACE_RED_SAT, [], [⟨0, 32, .rw, 0⟩]⟩,
   ⟨Reg.RACE_DETOUR, [], [⟨0, 32, .rw, 0⟩]⟩,
   ⟨Reg.RACE_LINK_CE, [], [⟨0, 32, .rw, 0⟩]⟩,
   ⟨Reg.RACE_EXCn, [(16, 4)], [⟨31, 1, .rwl, 0⟩, ⟨0, 11, .rwl, 0⟩]⟩,
   ⟨Reg.RACE_MAPc_w, [(16, 256), (48, 4)], [⟨24, 8, .rwl, 255⟩, ⟨16, 8, .rwl, 255⟩, ⟨8, 8, .rwl, 255⟩, ⟨0, 8, .rwl, 255⟩]⟩,
   ⟨Reg.CAP_RACE_GEOM, [], [⟨24, 8, .ro, 18⟩, ⟨16, 8, .ro, 12⟩, ⟨8, 8, .ro, 72⟩, ⟨0, 8, .ro, 24⟩]⟩,
   ⟨Reg.CAP_RACE_LAT, [], [⟨24, 8, .ro, 153⟩, ⟨16, 8, .ro, 13⟩, ⟨8, 8, .ro, 5⟩, ⟨4, 4, .ro, 1⟩, ⟨0, 4, .ro, 4⟩]⟩,
   ⟨Reg.CAP_RACE_BW, [], [⟨16, 16, .ro, 8000⟩, ⟨8, 8, .ro, 8⟩, ⟨0, 8, .ro, 1⟩]⟩,
   ⟨Reg.CAP_RACE_BUF, [], [⟨24, 8, .ro, 8⟩, ⟨16, 8, .ro, 32⟩, ⟨8, 8, .ro, 16⟩, ⟨0, 8, .ro, 4⟩]⟩,
   ⟨Reg.CAP_RACE_XP, [], [⟨16, 16, .ro, 4096⟩, ⟨8, 8, .ro, 64⟩, ⟨0, 8, .ro, 16⟩]⟩,
   ⟨Reg.CAP_RACE_RED, [], [⟨24, 8, .ro, 64⟩, ⟨16, 8, .ro, 32⟩, ⟨8, 8, .ro, 7⟩, ⟨0, 8, .ro, 32⟩]⟩]

/-- The registers of sync objects and hoppers. -/
def regSync : List RegDesc :=
  [⟨Reg.SYNC_ERR_ADDR_LO, [], [⟨16, 12, .ro, 0⟩, ⟨0, 14, .ro, 0⟩]⟩,
   ⟨Reg.SYNC_ERR_ADDR_HI, [], [⟨0, 11, .ro, 0⟩]⟩,
   ⟨Reg.SYNC_ERR_INFO, [], [⟨31, 1, .w1c, 0⟩, ⟨16, 15, .ro, 0⟩, ⟨12, 4, .ro, 0⟩, ⟨8, 4, .ro, 0⟩, ⟨0, 4, .ro, 0⟩]⟩,
   ⟨Reg.SYNC_REFUSED, [], [⟨0, 32, .rw, 0⟩]⟩,
   ⟨Reg.HOP_REFUSED, [], [⟨0, 32, .rw, 0⟩]⟩,
   ⟨Reg.HOP_DISCARD, [], [⟨0, 32, .rw, 0⟩]⟩,
   ⟨Reg.SYNC_OBJ_SEL, [], [⟨0, 14, .rw, 0⟩]⟩,
   ⟨Reg.SYNC_OBJ_CFG, [], [⟨16, 16, .ro, 0⟩, ⟨0, 16, .ro, 0⟩]⟩,
   ⟨Reg.SYNC_OBJ_CNT, [], [⟨16, 16, .ro, 0⟩, ⟨0, 16, .ro, 0⟩]⟩,
   ⟨Reg.SYNC_OBJ_STATE, [], [⟨16, 16, .ro, 0⟩, ⟨12, 4, .ro, 0⟩, ⟨9, 3, .ro, 0⟩, ⟨5, 4, .ro, 0⟩, ⟨4, 1, .ro, 0⟩, ⟨3, 1, .ro, 0⟩, ⟨0, 3, .ro, 0⟩]⟩,
   ⟨Reg.SYNC_OBJ_ANN_LO, [], [⟨0, 32, .ro, 0⟩]⟩,
   ⟨Reg.SYNC_OBJ_ANN_HI, [], [⟨0, 16, .ro, 0⟩]⟩,
   ⟨Reg.SYNC_OBJ_CRD_LO, [], [⟨0, 32, .ro, 0⟩]⟩,
   ⟨Reg.SYNC_OBJ_CRD_HI, [], [⟨0, 16, .ro, 0⟩]⟩,
   ⟨Reg.HOP_SEL, [], [⟨16, 6, .rw, 0⟩, ⟨0, 11, .rw, 0⟩]⟩,
   ⟨Reg.HOP_CH_STATE, [], [⟨30, 2, .ro, 3⟩, ⟨0, 21, .ro, 0⟩]⟩,
   ⟨Reg.HOP_CH_MSGS, [], [⟨0, 32, .rw, 0⟩]⟩,
   ⟨Reg.HOP_CH_STALLS, [], [⟨0, 32, .rw, 0⟩]⟩,
   ⟨Reg.HOP_CH_DROP, [], [⟨0, 32, .rw, 0⟩]⟩,
   ⟨Reg.HOP_RX_STATE, [], [⟨8, 4, .ro, 0⟩, ⟨0, 8, .ro, 0⟩]⟩,
   ⟨Reg.SYNC_WDOGc, [(16, 4)], [⟨0, 32, .rw, 0⟩]⟩,
   ⟨Reg.SYNC_XLATc_v, [(16, 16384), (4096, 4)], [⟨31, 1, .rwl, 0⟩, ⟨30, 1, .rwl, 0⟩, ⟨0, 14, .rwl, 0⟩]⟩,
   ⟨Reg.CAP_SYNC_IDS, [], [⟨16, 16, .ro, 16384⟩, ⟨0, 16, .ro, 4096⟩]⟩,
   ⟨Reg.CAP_SYNC_LVL0, [], [⟨16, 16, .ro, 128⟩, ⟨0, 16, .ro, 32⟩]⟩,
   ⟨Reg.CAP_SYNC_LVL1, [], [⟨16, 16, .ro, 2304⟩, ⟨0, 16, .ro, 512⟩]⟩,
   ⟨Reg.CAP_SYNC_LAT, [], [⟨24, 8, .ro, 64⟩, ⟨16, 8, .ro, 30⟩, ⟨8, 8, .ro, 18⟩, ⟨0, 8, .ro, 6⟩]⟩,
   ⟨Reg.CAP_SYNC_HOP, [], [⟨24, 8, .ro, 64⟩, ⟨16, 8, .ro, 32⟩, ⟨8, 8, .ro, 20⟩, ⟨4, 4, .ro, 4⟩, ⟨0, 4, .ro, 8⟩]⟩,
   ⟨Reg.CAP_SYNC_MISC, [], [⟨16, 8, .ro, 16⟩, ⟨8, 8, .ro, 16⟩, ⟨0, 8, .ro, 8⟩]⟩]

/-- The registers of the store. -/
def regSlc : List RegDesc :=
  [⟨Reg.SLC_ERR_ADDR_LO, [], [⟨0, 32, .ro, 0⟩]⟩,
   ⟨Reg.SLC_ERR_ADDR_HI, [], [⟨31, 1, .ro, 0⟩, ⟨0, 16, .ro, 0⟩]⟩,
   ⟨Reg.SLC_ERR_INFO, [], [⟨31, 1, .w1c, 0⟩, ⟨16, 15, .ro, 0⟩, ⟨12, 4, .ro, 0⟩, ⟨8, 4, .ro, 0⟩, ⟨0, 4, .ro, 0⟩]⟩,
   ⟨Reg.SLC_REFUSED, [], [⟨0, 32, .rw, 0⟩]⟩,
   ⟨Reg.SLC_DRY, [], [⟨0, 32, .rw, 0⟩]⟩,
   ⟨Reg.SLC_FAULTS, [], [⟨0, 32, .rw, 0⟩]⟩,
   ⟨Reg.SLC_SEL, [], [⟨16, 5, .rw, 0⟩, ⟨0, 8, .rw, 0⟩]⟩,
   ⟨Reg.SLC_Q_STATUS, [], [⟨29, 3, .ro, 0⟩, ⟨24, 4, .ro, 0⟩, ⟨20, 4, .ro, 0⟩, ⟨8, 8, .ro, 8⟩, ⟨0, 8, .ro, 0⟩]⟩,
   ⟨Reg.SLC_Q_DONE_LO, [], [⟨0, 32, .ro, 0⟩]⟩,
   ⟨Reg.SLC_Q_DONE_HI, [], [⟨0, 16, .ro, 0⟩]⟩,
   ⟨Reg.SLC_Q_DRY, [], [⟨0, 32, .rw, 0⟩]⟩,
   ⟨Reg.SLC_Q_FAULTw, [(8, 4)], [⟨0, 32, .ro, 0⟩]⟩,
   ⟨Reg.SLC_RESUME, [], [⟨30, 2, .wo, 0⟩, ⟨0, 16, .wo, 0⟩]⟩,
   ⟨Reg.SLC_INV, [], [⟨31, 1, .ro, 0⟩, ⟨8, 1, .w1s, 0⟩, ⟨0, 4, .rw, 0⟩]⟩,
   ⟨Reg.SLC_PTBc_LO, [(16, 8)], [⟨12, 20, .rwl, 0⟩]⟩,
   ⟨Reg.SLC_PTBc_HI, [(16, 8)], [⟨0, 16, .rwl, 0⟩]⟩,
   ⟨Reg.SLC_VLIMc_LO, [(16, 8)], [⟨16, 16, .rwl, 0⟩]⟩,
   ⟨Reg.SLC_VLIMc_HI, [(16, 8)], [⟨0, 16, .rwl, 0⟩]⟩,
   ⟨Reg.SLC_FTMOc, [(16, 4)], [⟨0, 32, .rw, 1000000⟩]⟩,
   ⟨Reg.CAP_ST_HBM, [], [⟨24, 8, .ro, 12⟩, ⟨16, 8, .ro, 32⟩, ⟨8, 8, .ro, 12⟩, ⟨0, 1, .ro, 0⟩]⟩,
   ⟨Reg.CAP_ST_SIZE, [], [⟨0, 16, .ro, 0⟩]⟩,
   ⟨Reg.CAP_ST_QUEUE, [], [⟨24, 8, .ro, 4⟩, ⟨16, 8, .ro, 64⟩, ⟨8, 8, .ro, 8⟩, ⟨4, 4, .ro, 8⟩, ⟨0, 4, .ro, 4⟩]⟩,
   ⟨Reg.CAP_ST_DESC, [], [⟨16, 16, .ro, 4096⟩, ⟨8, 8, .ro, 12⟩, ⟨0, 8, .ro, 5⟩]⟩,
   ⟨Reg.CAP_ST_LAT, [], [⟨16, 16, .ro, 4000⟩, ⟨0, 16, .ro, 1200⟩]⟩,
   ⟨Reg.CAP_ST_BW, [], [⟨16, 16, .ro, 27000⟩, ⟨8, 8, .ro, 204⟩, ⟨0, 8, .ro, 150⟩]⟩,
   ⟨Reg.CAP_ST_XLAT, [], [⟨24, 8, .ro, 48⟩, ⟨8, 8, .ro, 4⟩, ⟨0, 8, .ro, 3⟩]⟩]

/-- The registers of collectives. -/
def regCx : List RegDesc :=
  [⟨Reg.FLM_CX_ERR_ADDR_LO, [], [⟨0, 32, .ro, 0⟩]⟩,
   ⟨Reg.FLM_CX_ERR_ADDR_HI, [], [⟨16, 16, .ro, 0⟩, ⟨0, 16, .ro, 0⟩]⟩,
   ⟨Reg.FLM_CX_ERR_INFO, [], [⟨31, 1, .w1c, 0⟩, ⟨16, 15, .ro, 0⟩, ⟨12, 4, .ro, 0⟩, ⟨8, 4, .ro, 0⟩, ⟨0, 4, .ro, 0⟩]⟩,
   ⟨Reg.FLM_CX_STALE, [], [⟨0, 32, .rw, 0⟩]⟩,
   ⟨Reg.FLM_CX_TMO, [], [⟨0, 32, .rw, 0⟩]⟩,
   ⟨Reg.FLM_CX_ARR_REF, [], [⟨0, 32, .rw, 0⟩]⟩,
   ⟨Reg.FLM_CX_CMP_SAT, [], [⟨0, 32, .rw, 0⟩]⟩,
   ⟨Reg.FLM_CX_CMP_NAN, [], [⟨0, 32, .rw, 0⟩]⟩,
   ⟨Reg.FLM_CX_CUL_FTZ, [], [⟨0, 32, .rw, 0⟩]⟩,
   ⟨Reg.FLM_CX_TSEL, [], [⟨16, 4, .rw, 0⟩, ⟨0, 10, .rw, 0⟩]⟩,
   ⟨Reg.FLM_CX_TGEN, [], [⟨0, 32, .ro, 0⟩]⟩,
   ⟨Reg.FLM_CX_TSTATE, [], [⟨31, 1, .ro, 0⟩, ⟨30, 1, .ro, 0⟩, ⟨29, 1, .ro, 0⟩, ⟨28, 1, .ro, 0⟩, ⟨26, 2, .ro, 0⟩]⟩,
   ⟨Reg.FLM_CX_RUN, [], [⟨0, 6, .ro, 0⟩]⟩,
   ⟨Reg.FLM_CX_TMOc, [(16, 4)], [⟨0, 32, .rw, 10000⟩]⟩,
   ⟨Reg.FLM_CX_CTLc, [(16, 4)], [⟨4, 4, .ro, 0⟩, ⟨1, 1, .ro, 0⟩, ⟨0, 1, .w1c, 0⟩]⟩,
   ⟨Reg.CAP_CX_TAB, [], [⟨16, 16, .ro, 512⟩, ⟨0, 16, .ro, 1024⟩]⟩,
   ⟨Reg.CAP_CX_LIM, [], [⟨16, 16, .ro, 8192⟩, ⟨8, 8, .ro, 32⟩, ⟨0, 8, .ro, 4⟩]⟩,
   ⟨Reg.CAP_CX_RATE, [], [⟨16, 16, .ro, 1024⟩, ⟨8, 8, .ro, 6⟩, ⟨0, 8, .ro, 16⟩]⟩,
   ⟨Reg.CAP_CX_CMP, [], [⟨16, 16, .ro, 2048⟩, ⟨8, 8, .ro, 8⟩, ⟨0, 4, .ro, 15⟩]⟩,
   ⟨Reg.CAP_OV_CFG, [], [⟨16, 16, .ro, 64⟩, ⟨4, 4, .ro, 8⟩, ⟨0, 4, .ro, 1⟩]⟩]

/-- The registers of update and replay. -/
def regUpd : List RegDesc :=
  [⟨Reg.UPD_ERR_ADDR_LO, [], [⟨0, 32, .ro, 0⟩]⟩,
   ⟨Reg.UPD_ERR_ADDR_HI, [], [⟨0, 16, .ro, 0⟩]⟩,
   ⟨Reg.UPD_ERR_INFO, [], [⟨31, 1, .w1c, 0⟩, ⟨16, 15, .ro, 0⟩, ⟨12, 4, .ro, 0⟩, ⟨8, 4, .ro, 0⟩, ⟨0, 4, .ro, 0⟩]⟩,
   ⟨Reg.UPD_SAT, [], [⟨0, 32, .rw, 0⟩]⟩,
   ⟨Reg.UPD_FTZ, [], [⟨0, 32, .rw, 0⟩]⟩,
   ⟨Reg.UPD_NAN, [], [⟨0, 32, .rw, 0⟩]⟩,
   ⟨Reg.UPD_IN_PART, [], [⟨0, 32, .rw, 0⟩]⟩,
   ⟨Reg.UPD_PL_CURSOR, [], [⟨16, 12, .ro, 0⟩, ⟨0, 12, .rw, 0⟩]⟩,
   ⟨Reg.UPD_PL_WINDOWw, [(16, 4)], [⟨0, 32, .ro, 0⟩]⟩,
   ⟨Reg.UPD_STEP_SIZEc, [(16, 256)], [⟨0, 32, .rw, 0⟩]⟩,
   ⟨Reg.UPD_SEEDc, [(16, 256)], [⟨0, 32, .rw, 0⟩]⟩,
   ⟨Reg.UPD_STEPc_LO, [(16, 256)], [⟨0, 32, .rwl, 0⟩]⟩,
   ⟨Reg.UPD_STEPc_HI, [(16, 256)], [⟨0, 32, .rwl, 0⟩]⟩,
   ⟨Reg.UPD_CMTc, [(16, 256)], [⟨30, 2, .ro, 0⟩, ⟨29, 1, .w1c, 0⟩, ⟨5, 1, .ro, 0⟩, ⟨4, 1, .ro, 0⟩, ⟨0, 4, .ro, 0⟩]⟩,
   ⟨Reg.UPD_RPL_CTLc, [(16, 256)], [⟨30, 2, .ro, 0⟩, ⟨24, 4, .ro, 0⟩, ⟨4, 1, .ro, 0⟩, ⟨3, 1, .rw, 0⟩, ⟨2, 1, .rw, 0⟩, ⟨1, 1, .w1s, 0⟩, ⟨0, 1, .w1s, 0⟩]⟩,
   ⟨Reg.UPD_CAP_FIRSTc, [(16, 256)], [⟨0, 32, .rwl, 0⟩]⟩,
   ⟨Reg.UPD_CAP_CTLc, [(16, 256)], [⟨31, 1, .rw, 0⟩, ⟨16, 15, .ro, 0⟩, ⟨0, 16, .rw, 0⟩]⟩,
   ⟨Reg.UPD_CAP_BASEc, [(16, 256)], [⟨0, 32, .rwl, 0⟩]⟩,
   ⟨Reg.UPD_CAP_SIZEc, [(16, 256)], [⟨0, 32, .rwl, 0⟩]⟩,
   ⟨Reg.UPD_RPL_RECc_w, [(16, 256), (16, 4)], [⟨0, 32, .rwl, 0⟩]⟩,
   ⟨Reg.UPD_RPL_OUTc_w, [(16, 256), (16, 4)], [⟨0, 32, .ro, 0⟩]⟩,
   ⟨Reg.CAP_UPD_LIM, [], [⟨16, 16, .ro, 1024⟩, ⟨8, 8, .ro, 4⟩, ⟨0, 8, .ro, 16⟩]⟩,
   ⟨Reg.CAP_UPD_RES, [], [⟨16, 16, .ro, 64⟩, ⟨8, 8, .ro, 2⟩, ⟨0, 8, .ro, 8⟩]⟩,
   ⟨Reg.CAP_JR_REC, [], [⟨24, 8, .ro, 20⟩, ⟨16, 8, .ro, 4⟩, ⟨8, 8, .ro, 32⟩, ⟨0, 8, .ro, 64⟩]⟩,
   ⟨Reg.CAP_JR_LEDGER, [], [⟨16, 16, .ro, 4096⟩, ⟨0, 1, .ro, 1⟩]⟩]

/-- The registers of Flume and twin. -/
def regFlm : List RegDesc :=
  [⟨Reg.FLM_ERR_ADDR_LO, [], [⟨16, 16, .ro, 0⟩, ⟨0, 16, .ro, 0⟩]⟩,
   ⟨Reg.FLM_ERR_ADDR_HI, [], [⟨0, 5, .ro, 0⟩]⟩,
   ⟨Reg.FLM_ERR_INFO, [], [⟨31, 1, .w1c, 0⟩, ⟨16, 15, .ro, 0⟩, ⟨12, 4, .ro, 0⟩, ⟨8, 4, .ro, 0⟩, ⟨0, 4, .ro, 0⟩]⟩,
   ⟨Reg.FLM_DISCARD, [], [⟨0, 32, .rw, 0⟩]⟩,
   ⟨Reg.FLM_AUTH_FAIL, [], [⟨0, 32, .rw, 0⟩]⟩,
   ⟨Reg.FLM_STALL, [], [⟨0, 32, .rw, 0⟩]⟩,
   ⟨Reg.FLM_FA, [], [⟨31, 1, .rwl, 0⟩, ⟨15, 1, .rwl, 0⟩, ⟨0, 13, .rwl, 0⟩]⟩,
   ⟨Reg.FLM_CTL, [], [⟨16, 16, .rw, 0⟩, ⟨2, 1, .ro, 0⟩, ⟨1, 1, .w1s, 0⟩, ⟨0, 1, .rw, 0⟩]⟩,
   ⟨Reg.FLM_TIME_LO, [], [⟨0, 32, .ro, 0⟩]⟩,
   ⟨Reg.FLM_TIME_HI, [], [⟨0, 32, .ro, 0⟩]⟩,
   ⟨Reg.FLM_TIME_CTL, [], [⟨31, 1, .rw, 0⟩, ⟨30, 1, .rw, 0⟩, ⟨0, 5, .rw, 0⟩]⟩,
   ⟨Reg.FLM_TIME_STAT, [], [⟨29, 3, .ro, 0⟩, ⟨0, 16, .ro, 0⟩]⟩,
   ⟨Reg.FLM_PORT_CTLn, [(18, 64)], [⟨30, 2, .rw, 0⟩, ⟨29, 1, .w1s, 0⟩, ⟨28, 1, .rw, 0⟩, ⟨27, 1, .rw, 0⟩, ⟨0, 16, .rw, 1024⟩]⟩,
   ⟨Reg.FLM_PORT_STATn, [(18, 64)], [⟨29, 3, .ro, 0⟩, ⟨24, 4, .ro, 0⟩]⟩,
   ⟨Reg.FLM_PORT_ERRn, [(18, 64)], [⟨16, 16, .rw, 0⟩, ⟨0, 16, .rw, 0⟩]⟩,
   ⟨Reg.FLM_NBR_SNn_LO, [(18, 64)], [⟨0, 32, .ro, 0⟩]⟩,
   ⟨Reg.FLM_NBR_SNn_HI, [(18, 64)], [⟨0, 32, .ro, 0⟩]⟩,
   ⟨Reg.FLM_NBR_INFOn, [(18, 64)], [⟨16, 16, .ro, 0⟩, ⟨11, 5, .ro, 0⟩, ⟨10, 1, .ro, 0⟩, ⟨0, 1, .ro, 0⟩]⟩,
   ⟨Reg.FLM_RTd, [(8192, 4)], [⟨31, 1, .rw, 0⟩, ⟨0, 18, .rw, 0⟩]⟩,
   ⟨Reg.TWIN_DISCARD, [], [⟨0, 32, .rw, 0⟩]⟩,
   ⟨Reg.TWIN_MISS, [], [⟨0, 32, .rw, 0⟩]⟩,
   ⟨Reg.TWIN_CTL, [], [⟨31, 1, .rw, 0⟩, ⟨30, 1, .rw, 0⟩, ⟨16, 8, .rw, 1⟩, ⟨0, 4, .rw, 0⟩]⟩,
   ⟨Reg.TWIN_STATE, [], [⟨29, 3, .ro, 0⟩, ⟨0, 16, .ro, 0⟩]⟩,
   ⟨Reg.TWIN_AGREED_LO, [], [⟨0, 32, .ro, 0⟩]⟩,
   ⟨Reg.TWIN_AGREED_HI, [], [⟨0, 32, .ro, 0⟩]⟩,
   ⟨Reg.TWIN_TMO, [], [⟨0, 32, .rw, 10000⟩]⟩,
   ⟨Reg.TWIN_NET_LO, [], [⟨6, 26, .rw, 0⟩]⟩,
   ⟨Reg.TWIN_NET_HI, [], [⟨0, 16, .rw, 0⟩]⟩,
   ⟨Reg.TWIN_RJ_TAB_LO, [], [⟨4, 28, .rw, 0⟩]⟩,
   ⟨Reg.TWIN_RJ_TAB_HI, [], [⟨0, 16, .rw, 0⟩]⟩,
   ⟨Reg.TWIN_RJ_CTL, [], [⟨31, 1, .w1s, 0⟩, ⟨0, 9, .rw, 0⟩]⟩,
   ⟨Reg.TWIN_RJ_STEP, [], [⟨0, 32, .rw, 0⟩]⟩,
   ⟨Reg.TWIN_RJ_RATE, [], [⟨0, 32, .rw, 0⟩]⟩,
   ⟨Reg.CAP_FLM_PORTS, [], [⟨24, 8, .ro, 18⟩, ⟨16, 8, .ro, 8⟩, ⟨8, 8, .ro, 2⟩, ⟨0, 8, .ro, 13⟩]⟩,
   ⟨Reg.CAP_FLM_ETH, [], [⟨0, 18, .ro, 196608⟩]⟩,
   ⟨Reg.CAP_FLM_LAT, [], [⟨16, 16, .ro, 512⟩, ⟨0, 16, .ro, 320⟩]⟩,
   ⟨Reg.CAP_FLM_RED, [], [⟨24, 8, .ro, 8⟩, ⟨16, 8, .ro, 4⟩, ⟨8, 8, .ro, 16⟩, ⟨0, 8, .ro, 100⟩]⟩,
   ⟨Reg.CAP_TW_CFG, [], [⟨24, 8, .ro, 255⟩, ⟨16, 8, .ro, 1⟩]⟩,
   ⟨Reg.CAP_TW_LIM, [], [⟨16, 16, .ro, 256⟩, ⟨0, 16, .ro, 256⟩]⟩]

/-- The registers of host and loader. -/
def regHost : List RegDesc :=
  [⟨Reg.HST_CMD_BASE_LO, [(16, 4096)], [⟨12, 20, .rw, 0⟩]⟩,
   ⟨Reg.HST_CMD_BASE_HI, [(16, 4096)], [⟨0, 32, .rw, 0⟩]⟩,
   ⟨Reg.HST_CMD_CFG, [(16, 4096)], [⟨31, 1, .rw, 0⟩, ⟨30, 1, .w1c, 0⟩, ⟨0, 4, .rw, 4⟩]⟩,
   ⟨Reg.HST_CMD_IDX, [(16, 4096)], [⟨16, 16, .ro, 0⟩, ⟨0, 16, .rw, 0⟩]⟩,
   ⟨Reg.HST_CPL_BASE_LO, [(16, 4096)], [⟨12, 20, .rw, 0⟩]⟩,
   ⟨Reg.HST_CPL_BASE_HI, [(16, 4096)], [⟨0, 32, .rw, 0⟩]⟩,
   ⟨Reg.HST_CPL_CFG, [(16, 4096)], [⟨31, 1, .rw, 0⟩, ⟨30, 1, .w1c, 0⟩, ⟨8, 8, .rw, 0⟩, ⟨0, 4, .rw, 4⟩]⟩,
   ⟨Reg.HST_CPL_IDX, [(16, 4096)], [⟨16, 16, .ro, 0⟩, ⟨0, 16, .rw, 0⟩]⟩,
   ⟨Reg.HST_CTX_STATE, [(16, 4096)], [⟨24, 8, .ro, 0⟩, ⟨16, 5, .ro, 0⟩, ⟨8, 8, .ro, 0⟩, ⟨0, 3, .ro, 0⟩]⟩,
   ⟨Reg.HST_VWIN, [(16, 4096)], [⟨0, 14, .rw, 0⟩]⟩,
   ⟨Reg.HST_SYNC_DB_LO, [(16, 4096)], [⟨0, 32, .wo, 0⟩]⟩,
   ⟨Reg.HST_SYNC_DB_HI, [(16, 4096)], [⟨0, 32, .wo, 0⟩]⟩,
   ⟨Reg.HST_ERR_ADDR_LO, [], [⟨0, 32, .ro, 0⟩]⟩,
   ⟨Reg.HST_ERR_ADDR_HI, [], [⟨16, 5, .ro, 0⟩, ⟨0, 16, .ro, 0⟩]⟩,
   ⟨Reg.HST_ERR_INFO, [], [⟨31, 1, .w1c, 0⟩, ⟨16, 15, .ro, 0⟩, ⟨12, 4, .ro, 0⟩, ⟨8, 4, .ro, 0⟩, ⟨0, 4, .ro, 0⟩]⟩,
   ⟨Reg.HST_CPL_LOST, [], [⟨0, 32, .rw, 0⟩]⟩,
   ⟨Reg.HST_BAR2_BASE, [], [⟨0, 18, .rw, 0⟩]⟩,
   ⟨Reg.LDR_FORCE, [], [⟨31, 1, .ro, 0⟩, ⟨24, 2, .wo, 0⟩, ⟨0, 4, .wo, 0⟩]⟩,
   ⟨Reg.LDR_FREE, [], [⟨24, 8, .ro, 0⟩, ⟨0, 24, .ro, 0⟩]⟩]

/-- The registers of memory integrity. -/
def regEcc : List RegDesc :=
  [⟨Reg.ECC_ERR_ADDR_LO, [], [⟨0, 32, .ro, 0⟩]⟩,
   ⟨Reg.ECC_ERR_ADDR_HI, [], [⟨16, 11, .ro, 0⟩, ⟨0, 16, .ro, 0⟩]⟩,
   ⟨Reg.ECC_ERR_INFO, [], [⟨31, 1, .w1c, 0⟩, ⟨16, 15, .ro, 0⟩, ⟨15, 1, .ro, 0⟩, ⟨8, 4, .ro, 0⟩, ⟨0, 4, .ro, 0⟩]⟩,
   ⟨Reg.ECC_ERR_LOC, [], [⟨28, 4, .ro, 0⟩, ⟨24, 4, .ro, 0⟩, ⟨19, 5, .ro, 0⟩, ⟨18, 1, .ro, 0⟩, ⟨0, 18, .ro, 0⟩]⟩,
   ⟨Reg.ECC_TM_CE, [], [⟨0, 32, .rw, 0⟩]⟩,
   ⟨Reg.ECC_TM_UE, [], [⟨0, 32, .rw, 0⟩]⟩,
   ⟨Reg.ECC_HBM_CE, [], [⟨0, 32, .rw, 0⟩]⟩,
   ⟨Reg.ECC_HBM_UE, [], [⟨0, 32, .rw, 0⟩]⟩,
   ⟨Reg.ECC_SYM_CE, [], [⟨0, 32, .rw, 0⟩]⟩,
   ⟨Reg.ECC_POISON, [], [⟨0, 32, .rw, 0⟩]⟩,
   ⟨Reg.ECC_CFG, [], [⟨16, 1, .rwl, 0⟩, ⟨8, 8, .rw, 4⟩, ⟨0, 8, .rw, 16⟩]⟩,
   ⟨Reg.ECC_FLIP_SEL, [], [⟨31, 1, .w1s, 0⟩, ⟨24, 2, .rw, 0⟩, ⟨0, 11, .rw, 0⟩]⟩,
   ⟨Reg.ECC_FLIP_MASK_LO, [], [⟨0, 32, .rw, 0⟩]⟩,
   ⟨Reg.ECC_FLIP_MASK_HI, [], [⟨0, 32, .rw, 0⟩]⟩,
   ⟨Reg.ECC_FLIP_CHK, [], [⟨0, 16, .rw, 0⟩]⟩,
   ⟨Reg.ECC_FENCE, [], [⟨0, 8, .wo, 0⟩]⟩,
   ⟨Reg.ECC_FENCE_STAT, [], [⟨24, 8, .ro, 255⟩, ⟨8, 8, .ro, 0⟩, ⟨0, 8, .ro, 0⟩]⟩,
   ⟨Reg.ECC_FENCE_TMO, [], [⟨0, 32, .rw, 1000⟩]⟩,
   ⟨Reg.ECC_RMAP_STAT, [], [⟨16, 16, .ro, 0⟩, ⟨0, 16, .ro, 0⟩]⟩,
   ⟨Reg.ECC_DIEk, [(12, 4)], [⟨0, 16, .ro, 0⟩]⟩]

/-- The registers of Governor and Lehr. -/
def regGov : List RegDesc :=
  [⟨Reg.GOV_ERR_ADDR_LO, [], [⟨0, 32, .ro, 0⟩]⟩,
   ⟨Reg.GOV_ERR_ADDR_HI, [], [⟨0, 4, .ro, 0⟩]⟩,
   ⟨Reg.GOV_ERR_INFO, [], [⟨31, 1, .w1c, 0⟩, ⟨16, 15, .ro, 0⟩, ⟨8, 4, .ro, 0⟩, ⟨0, 4, .ro, 0⟩]⟩,
   ⟨Reg.GOV_THROTTLE, [], [⟨0, 32, .rw, 0⟩]⟩,
   ⟨Reg.GOV_PPS_REJ, [], [⟨0, 32, .rw, 0⟩]⟩,
   ⟨Reg.GOV_CHATTER, [], [⟨0, 32, .rw, 0⟩]⟩,
   ⟨Reg.GOV_CTL, [], [⟨31, 1, .rw, 1⟩, ⟨30, 1, .rw, 0⟩, ⟨16, 8, .rw, 16⟩, ⟨0, 12, .rw, 3450⟩]⟩,
   ⟨Reg.GOV_STAT, [], [⟨31, 1, .ro, 0⟩, ⟨16, 12, .ro, 0⟩, ⟨8, 8, .ro, 0⟩]⟩,
   ⟨Reg.GOV_POWER, [], [⟨0, 16, .ro, 0⟩]⟩,
   ⟨Reg.GOV_PG_US, [], [⟨0, 16, .rw, 0⟩]⟩,
   ⟨Reg.GOV_MILLp, [(216, 4)], [⟨30, 2, .ro, 3⟩, ⟨29, 1, .ro, 0⟩, ⟨0, 6, .ro, 0⟩]⟩,
   ⟨Reg.LEHR_OPMS_LO, [], [⟨0, 32, .ro, 0⟩]⟩,
   ⟨Reg.LEHR_OPMS_HI, [], [⟨0, 16, .ro, 0⟩]⟩,
   ⟨Reg.LEHR_PCYC, [], [⟨0, 32, .ro, 0⟩]⟩,
   ⟨Reg.LEHR_CMP_STAT, [], [⟨24, 8, .ro, 0⟩, ⟨16, 8, .ro, 0⟩, ⟨0, 10, .ro, 0⟩]⟩,
   ⟨Reg.LEHR_TJ_CFG, [], [⟨16, 8, .ro, 115⟩, ⟨8, 8, .rw, 105⟩, ⟨0, 8, .rw, 95⟩]⟩,
   ⟨Reg.LEHR_COOL_CFG, [], [⟨8, 8, .rw, 45⟩, ⟨0, 8, .rw, 40⟩]⟩,
   ⟨Reg.LEHR_ALERT_CTL, [], [⟨31, 1, .rw, 1⟩, ⟨30, 1, .rw, 0⟩, ⟨29, 1, .rw, 0⟩, ⟨16, 8, .rw, 30⟩, ⟨0, 16, .rw, 5000⟩]⟩,
   ⟨Reg.LEHR_PARK, [], [⟨30, 2, .ro, 0⟩, ⟨16, 5, .ro, 0⟩, ⟨1, 1, .w1s, 0⟩, ⟨0, 1, .w1s, 0⟩]⟩,
   ⟨Reg.CAP_GOV_CLK, [], [⟨24, 8, .ro, 25⟩, ⟨16, 8, .ro, 80⟩, ⟨8, 8, .ro, 64⟩, ⟨0, 8, .ro, 48⟩]⟩,
   ⟨Reg.CAP_GOV_PWR, [], [⟨16, 16, .ro, 3600⟩, ⟨8, 8, .ro, 180⟩, ⟨0, 8, .ro, 12⟩]⟩]

/-- The registers of Skeop and the event recorder. -/
def regSkp : List RegDesc :=
  [⟨Reg.SKP_ERR_ADDR_LO, [], [⟨0, 32, .ro, 0⟩]⟩,
   ⟨Reg.SKP_ERR_ADDR_HI, [], [⟨8, 4, .ro, 0⟩, ⟨0, 8, .ro, 0⟩]⟩,
   ⟨Reg.SKP_ERR_INFO, [], [⟨31, 1, .w1c, 0⟩, ⟨16, 15, .ro, 0⟩, ⟨8, 4, .ro, 0⟩, ⟨0, 4, .ro, 0⟩]⟩,
   ⟨Reg.SKP_BUS_DROP, [], [⟨0, 32, .rw, 0⟩]⟩,
   ⟨Reg.SKP_EXP_LOST, [], [⟨0, 32, .rw, 0⟩]⟩,
   ⟨Reg.SKP_MODE, [], [⟨28, 4, .ro, 0⟩, ⟨26, 2, .ro, 0⟩, ⟨25, 1, .ro, 0⟩, ⟨24, 1, .ro, 0⟩, ⟨8, 8, .ro, 0⟩, ⟨0, 8, .ro, 0⟩]⟩,
   ⟨Reg.SKP_KEYSTAT, [], [⟨20, 4, .ro, 0⟩, ⟨16, 4, .ro, 0⟩, ⟨0, 16, .ro, 0⟩]⟩,
   ⟨Reg.SKP_MEMENC, [], [⟨0, 16, .rw, 0⟩]⟩,
   ⟨Reg.SKP_DMA_RATE, [], [⟨0, 32, .rw, 4000⟩]⟩,
   ⟨Reg.EVR_LOST, [], [⟨0, 32, .rw, 0⟩]⟩,
   ⟨Reg.EVR_COALESCED, [], [⟨0, 32, .rw, 0⟩]⟩,
   ⟨Reg.EVR_HEAD, [], [⟨0, 32, .ro, 0⟩]⟩,
   ⟨Reg.EVR_OLDEST, [], [⟨0, 32, .ro, 0⟩]⟩,
   ⟨Reg.EVR_CURSOR, [], [⟨0, 32, .rw, 0⟩]⟩,
   ⟨Reg.EVR_STAT, [], [⟨1, 1, .ro, 0⟩, ⟨0, 1, .ro, 0⟩]⟩,
   ⟨Reg.EVR_CTL, [], [⟨31, 1, .rw, 0⟩, ⟨24, 4, .rw, 3⟩, ⟨16, 8, .rw, 0⟩]⟩,
   ⟨Reg.EVR_WINDOWw, [(8, 4)], [⟨0, 32, .ro, 0⟩]⟩,
   ⟨Reg.CAP_ID_PART, [], [⟨24, 8, .ro, 16⟩, ⟨8, 16, .ro, 768⟩, ⟨0, 8, .ro, 1⟩]⟩,
   ⟨Reg.CAP_ID_STEP, [], [⟨8, 8, .ro, 1⟩, ⟨0, 8, .ro, 0⟩]⟩,
   ⟨Reg.CAP_ID_SN_LO, [], [⟨0, 32, .ro, 0⟩]⟩,
   ⟨Reg.CAP_ID_SN_HI, [], [⟨0, 32, .ro, 0⟩]⟩,
   ⟨Reg.CAP_ID_FW, [], [⟨24, 8, .ro, 0⟩, ⟨16, 8, .ro, 0⟩, ⟨8, 8, .ro, 0⟩, ⟨0, 8, .ro, 0⟩]⟩,
   ⟨Reg.CAP_EVR_SIZE, [], [⟨16, 16, .ro, 1024⟩, ⟨8, 8, .ro, 16⟩, ⟨0, 8, .ro, 32⟩]⟩,
   ⟨Reg.CAP_EVR_CFG, [], [⟨16, 8, .ro, 1⟩, ⟨0, 16, .ro, 256⟩]⟩,
   ⟨Reg.CAP_SEC_KEYS, [], [⟨24, 8, .ro, 64⟩, ⟨16, 8, .ro, 16⟩, ⟨8, 8, .ro, 4⟩, ⟨0, 8, .ro, 2⟩]⟩,
   ⟨Reg.CAP_SEC_ALG, [], [⟨24, 8, .ro, 19⟩, ⟨0, 5, .ro, 31⟩]⟩]

/-- Every register table of the manual but the capability headers of R42. -/
def regTable : List RegDesc :=
  regChain ++ regTile ++ regMill ++ regCvt ++ regRace ++ regSync ++ regSlc ++ regCx ++ regUpd ++ regFlm ++ regHost ++ regEcc ++ regGov ++ regSkp

/-- The `_LO` registers of the 64-bit quantities (R8), by the offset of their first instance; the `_HI` register of each lies at the
next offset. -/
def loBases : List Nat :=
  [Reg.TILE_ERR_ADDR_LO, Reg.MILL_ERR_ADDR_LO, Reg.RACE_ERR_ADDR_LO, Reg.SYNC_ERR_ADDR_LO, Reg.SYNC_OBJ_ANN_LO,
   Reg.SYNC_OBJ_CRD_LO, Reg.SLC_ERR_ADDR_LO, Reg.SLC_Q_DONE_LO, Reg.SLC_PTBc_LO, Reg.SLC_VLIMc_LO,
   Reg.FLM_CX_ERR_ADDR_LO, Reg.UPD_ERR_ADDR_LO, Reg.UPD_STEPc_LO, Reg.FLM_ERR_ADDR_LO, Reg.FLM_TIME_LO,
   Reg.FLM_NBR_SNn_LO, Reg.TWIN_AGREED_LO, Reg.TWIN_NET_LO, Reg.TWIN_RJ_TAB_LO, Reg.HST_CMD_BASE_LO,
   Reg.HST_CPL_BASE_LO, Reg.HST_SYNC_DB_LO, Reg.HST_ERR_ADDR_LO, Reg.ECC_ERR_ADDR_LO, Reg.ECC_FLIP_MASK_LO,
   Reg.GOV_ERR_ADDR_LO, Reg.LEHR_OPMS_LO, Reg.SKP_ERR_ADDR_LO, Reg.CAP_ID_SN_LO]

/-- The indices of the instance of `dims` at distance `rem` from the base, if one lies there. -/
def regIndex : List (Nat × Nat) → Nat → Option (List Nat)
  | [], rem => if rem = 0 then some [] else none
  | (n, s) :: ds, rem => if rem / s < n then (regIndex ds (rem % s)).map (rem / s :: ·) else none

/-- The register at a BAR0 offset in a list of tables: its table and its indices. -/
def regFindIn : List RegDesc → Nat → Option (RegDesc × List Nat)
  | [], _ => none
  | d :: ds, off =>
    if off < d.base then regFindIn ds off
    else match regIndex d.dims (off - d.base) with
      | some ix => some (d, ix)
      | none => regFindIn ds off

/-- The register at a BAR0 offset, or none where the offset is reserved (R41). -/
def regFind (off : Nat) : Option (RegDesc × List Nat) := regFindIn regTable off

/-- The reset value of a register: each field's reset value in its place (R12). -/
def RegDesc.resetWord (d : RegDesc) : Word :=
  d.fields.foldl (fun w f => putFld w f.lo f.len f.reset) 0

/-- The reset value at a BAR0 offset; 0 where no register lies (R41). -/
def regReset (off : Nat) : Word :=
  match regFind off with
  | some (d, _) => d.resetWord
  | none => 0

/-- The bits of a register that its table does not reserve. -/
def RegDesc.listedMask (d : RegDesc) : Word :=
  d.fields.foldl (fun w f => putFld w f.lo f.len (2 ^ f.len - 1)) 0

/-- The header words of R42 at an offset, where one lies there: ID, version 1 (R50) and length, and the offset of the
next entry. -/
def capHeader (off : Nat) : Option Word :=
  let rec go : List (Nat × Nat × Nat) → Option Word
    | [] => none
    | (id, o, len) :: rest =>
      if off = o then some (BitVec.ofNat 32 (len * 2 ^ 24 + 1 * 2 ^ 16 + id))
      else if off = o + 4 then
        some (match rest with
          | (_, o', _) :: _ => BitVec.ofNat 32 o'
          | [] => 0)
      else go rest
  go Reg.CAP_ENTRIES

end Sys2Proof.Machine
end

