-- ==== Sys2Proof/Machine/SkeopState.lean ====
section
/-!
DEFINITION. The state of Skeop (chapter 14) but for the event recorder and the memory keys.
-/
namespace Sys2Proof.Machine

/-- The modes of R567, in the order of their codes. -/
inductive SkMode where
  | startUp | operational | test | recovery
  deriving DecidableEq, Repr

/-- The code of a mode (R567). -/
def SkMode.code : SkMode → Nat
  | .startUp => 0 | .operational => 1 | .test => 2 | .recovery => 3

/-- A firmware slot of the NOR (R569): header, code and signature, and whether it has been marked invalid (R571) or its
update was cut off (R623). -/
structure FwSlot where
  image : List Byte
  invalid : Bool
  deriving DecidableEq, Repr

/-- An SPDM session (R575, R578): its identifier; FINISH has completed it; its requester was mutually authenticated
with a certificate chaining to the owner root. -/
structure Session where
  id : Nat
  established : Bool
  owner : Bool
  deriving DecidableEq, Repr

/-- The telemetry export of R583: the collector, its port, the kinds exported, the least severity; the next ledger
record and event record to send, the datagram sequence number, and losses not yet reported. -/
structure Export where
  collector : List Byte
  port : Nat
  ledger : Bool
  events : Bool
  minSev : Nat
  nextLedger : Nat
  nextEvent : Nat
  seq : Nat
  lost : Nat
  deriving DecidableEq, Repr

/-- Skeop. -/
structure Skeop where
  mode : SkMode
  /-- R602: 0 LOCKED, 1 OBSERVE, 2 INVASIVE -/
  debug : Nat
  /-- R577: the SHA-384 hash of the owner root key, kept in the NOR -/
  owner : Option (List Byte)
  /-- R570: blown anti-rollback fuses -/
  fusedSvn : Nat
  /-- R569: the running slot (0 A, 1 B), the SVN and version of the running firmware -/
  slot : Nat
  svnRun : Nat
  versionRun : Nat
  slotA : FwSlot
  slotB : FwSlot
  /-- the slot marked active in the NOR boot record, if either is -/
  active : Option Nat
  /-- neither slot was bootable: the boot ROM's recovery service runs (R569) -/
  rom : Bool
  /-- a PLDM firmware transfer is in progress into the other slot (R571) -/
  updating : Bool
  /-- R594 to R596: image key slots of kind V and of kind D, kept in the NOR -/
  imgV : Tab (List Byte)
  imgD : Tab (List Byte)
  /-- R604: kind D keys are unusable until the next fundamental reset -/
  imgDOff : Bool
  /-- R601: link keys, by 2 * port + slot -/
  linkKeys : Tab (List Byte)
  /-- R603: the nonce that has been issued and not spent, and the cycle of its issue -/
  nonce : Option (List Byte × Nat)
  /-- R572: endpoint ID, negotiated transmission unit, the partial message and its bus -/
  eid : Nat
  unit : Nat
  partMsg : List Byte
  partBus : Nat
  /-- R575: negotiation has taken place; the open sessions, at most 4 -/
  negotiated : Bool
  sessions : List Session
  /-- R583 -/
  telemetry : Option Export
  deriving DecidableEq, Repr

/-- A firmware slot as shipped: its contents are the part's (log 5). -/
def FwSlot.shipped (n : Nat) : FwSlot := { image := Config.shippedFirmware n, invalid := false }

/-- A new module's Skeop: START-UP, nothing set. -/
def Skeop.reset : Skeop :=
  { mode := .startUp, debug := 0, owner := none, fusedSvn := 0, slot := 0, svnRun := 0, versionRun := 0,
    slotA := FwSlot.shipped 0, slotB := FwSlot.shipped 1, active := none, rom := false, updating := false, imgV := [], imgD := [],
    imgDOff := false, linkKeys := [], nonce := none, eid := 0, unit := 64, partMsg := [], partBus := 0,
    negotiated := false, sessions := [], telemetry := none }

end Sys2Proof.Machine
end

