-- ==== Sys2Proof/Machine/UpdState.lean ====
section
/-!
DEFINITION. The state of chapter 9 and of the precision guard (R178 to R193): the update section of an image context,
its step, its commit, its replay and capture, and the phase ledger.
-/
namespace Sys2Proof.Machine

/-- A guard entry (R183) with its rung and clean counter (R187), those that the last commit left (R193), and the counts of
the current step (R181). -/
structure GuardEntry where
  thSat : Nat
  thUfl : Nat
  desc : Nat
  plans : Nat
  base : Nat
  /-- R178: rung 3 is E5M2, not E4M3; rung 2 is E3M2, not E2M3 -/
  fp8v : Bool
  fp6v : Bool
  rung : Nat
  clean : Nat
  rungKept : Nat
  cleanKept : Nat
  elems : Nat
  sat : Nat
  ftz : Nat
  nan : Nat
  deriving DecidableEq, Repr

/-- The guard section of a context (R182), and the entry numbers noted by event 0x6104 in this step (R180). -/
structure Guard where
  gra : Nat
  gsum : Nat
  entries : List GuardEntry
  noted : List Nat
  deriving DecidableEq, Repr

/-- A context without a guard section. -/
def Guard.empty : Guard := { gra := 0, gsum := 0, entries := [], noted := [] }

/-- The update section as loaded (R373 to R377): its header, its windows (address, size, parity), its coefficient
tables and its entries. -/
structure UpdSection where
  header : List Word
  windows : List (Nat × Nat × Nat)
  tables : List (List Word)
  entries : List (List Word)
  deriving DecidableEq, Repr

/-- What one device contributes to the commit exchange, or what a node has added up (R366, R423): the check block
(step, image, step size, seed, replay state), the guard totals as (ELEMS, SAT, FTZ, NAN) per entry, and the HALT bit and the
mismatch flag with its field (event 0x6201). -/
structure Contribution where
  check : List Nat
  totals : List (Nat × Nat × Nat × Nat)
  halt : Bool
  mismatch : Option Nat
  deriving DecidableEq, Repr

/-- Trace counts of one logical tile in the current superstep (R390). -/
structure TraceAcc where
  xstat : Nat
  rxd : Nat
  csat : Nat
  cftz : Nat
  cnan : Nat
  mcmd : Nat
  deriving DecidableEq, Repr

/-- A capture block (R391): where it begins in its region, its step, the frames in it with the port each came on, the bytes captured,
and COMPLETE. -/
structure CapBlock where
  at_ : Nat
  step : Nat
  frames : List (Nat × Frame)
  bytes : Nat
  complete : Bool
  deriving DecidableEq, Repr

/-- The step of a context and its commit (R364 to R372, R383 to R390). -/
structure Step where
  section_ : Option UpdSection
  /-- the action of R365 now running, 1 to 9; 0 outside a commit -/
  action : Nat
  /-- waiters of CVID held until action 9 -/
  waiters : List Waiter
  /-- contributions received from children of the commit tree, as (Flume address, contribution) -/
  children : List (Nat × Contribution)
  /-- the device's own contribution has been sent, and the HALT bit in it (R439) -/
  sent : Bool
  halting : Bool
  /-- per physical mill of the context, the number below which its commands must have completed before action 1 ends -/
  millNext : List (Nat × Nat)
  /-- domain totals per guard entry and the decision vector (R187, R191) -/
  totals : List (Nat × Nat × Nat × Nat)
  decisions : Nat
  /-- step size and seed in force, and pending values (R370, R371); UPD_CMTc holds their marks -/
  eta : Word
  etaPend : Word
  seed : Word
  seedPend : Word
  stale : Bool
  /-- the first step after a load or restart (R385) -/
  start : Bool
  barriers : Nat
  /-- input digest accumulators by parity, and the input digest of the step being committed, as 128-bit numbers (R383) -/
  acc0 : Nat
  acc1 : Nat
  input : Nat
  /-- the committed-state digest of the step being committed (R382) -/
  digest : Nat
  /-- R369: while a replayed step is held at CVID in DONE, its waiters -/
  rplHeld : Bool
  /-- trace counts per logical tile in the current superstep (R390) -/
  trace : Tab TraceAcc
  /-- capture (R391): the reserved region (R392) as (start, size), its next free byte, and the blocks in it -/
  capRegion : Option (Nat × Nat)
  capPos : Nat
  capBlocks : List CapBlock
  /-- replay from capture (R393): the frames of the block consumed so far -/
  capRead : Nat
  /-- the twin was silent at this commit (R385, R440) -/
  solo : Bool
  deriving DecidableEq, Repr

/-- Step 0 of an unloaded context. -/
def Step.reset : Step :=
  { section_ := none, action := 0, waiters := [], children := [], sent := false, halting := false,
    millNext := [], totals := [], decisions := 0,
    eta := 0, etaPend := 0, seed := 0, seedPend := 0, stale := false, start := false, barriers := 0,
    acc0 := 0, acc1 := 0, input := 0, digest := 0, rplHeld := false, trace := [], capRegion := none,
    capPos := 0, capBlocks := [], capRead := 0, solo := false }

/-- The measurements of the phase ledger for one context (R394, R395): global time of the last boundary, and per
logical mill the end of its last exchange phase and its last arrival; boost and lending seen; padding overruns and dry
events. -/
structure Measure where
  boundary : Nat
  superstep : Nat
  xEnd : Tab Nat
  arrival : Tab Nat
  boosted : Bool
  lent : Bool
  pad : Nat
  dry : Nat
  deriving DecidableEq, Repr

/-- Nothing measured. -/
def Measure.reset : Measure :=
  { boundary := 0, superstep := 0, xEnd := [], arrival := [], boosted := false, lent := false, pad := 0, dry := 0 }

end Sys2Proof.Machine
end

