-- ==== Sys2Proof/Machine/State.lean ====
section
/-!
DEFINITION. The state of the Valvan: the queue of waiting commands, Skeop, and the rest of the device; what stops a
step; and the state after reset. Every part is plain data.
-/
namespace Sys2Proof.Machine

/-- What the model answers or sends to the outside. -/
inductive Output where
  /-- an MSI-X vector raised in a function's table (R237, R450, R476, R590) -/
  | msix (func vec : Nat)
  /-- a completion or report written to host memory (R476): image context, index, sixteen words -/
  | completion (ictx index : Nat) (words : List Word)
  /-- bytes written to host memory for a function by a stream (R279, R450) -/
  | hostWrite (func addr : Nat) (data : List Byte)
  /-- a Flume frame sent on a port, which is 32 for a frame that no port takes yet (R400, R414) -/
  | frame (port : Nat) (f : Frame)
  /-- a cumulative acknowledgement or a NAK of a Flume link (R405) -/
  | ack (port lseq : Nat)
  | nak (port lseq : Nat)
  /-- a packet of a RoCEv2 queue pair sent or sent again (R432): port, queue pair, packet number -/
  | roce (port qp psn : Nat)
  /-- a queue pair acknowledges the packets up to a number (R432) -/
  | roceAck (port qp psn : Nat)
  /-- a twin message on F16 or F17 (R434) -/
  | twin (port : Nat) (msg : List Byte)
  /-- bytes that a rejoin writes at a context virtual address of the other device (R443) -/
  | rejoin (va : Nat) (data : List Byte)
  /-- a management response (R572 to R583): bus, endpoint ID, code of the request, status, data -/
  | mgmt (bus : Bus) (eid : Byte) (code status : Nat) (data : List Byte)
  /-- a PLDM PlatformEventMessage (R582): the receiver, and the record's words or the sensor crossed -/
  | platformEvent (eid : Nat) (words : List Word)
  /-- a telemetry datagram (R583) -/
  | datagram (bytes : List Byte)
  deriving DecidableEq, Repr

/-- What the last read answered: its bytes and the status of the access (R5, R41, R454). -/
structure Reply where
  data : List Byte
  status : Nat
  deriving DecidableEq, Repr

/-- What R8 holds for one 64-bit quantity: the `_LO` written and not yet committed, the status of a refused `_LO`
standing, and the `_HI` captured by a read of `_LO`. -/
structure Halves where
  held : Option Word
  refused : Option Nat
  captured : Option Word
  deriving DecidableEq, Repr

/-- Nothing held, refused or captured. -/
def Halves.reset : Halves := { held := none, refused := none, captured := none }

/-- The device without Skeop. Tables are indexed by physical tile, physical mill, image context, physical counter,
and mill * 32 + queue; an entry not listed is at its reset value. -/
structure Dev where
  /-- Race cycles counted by the idle step; the model's clock (log 1) -/
  cycle : Nat
  /-- the number of free values used so far (log 3) -/
  freeIx : Nat
  /-- registers by BAR0 offset; `regReset` where not listed -/
  regs : Tab Word
  /-- R8, by the offset of `_LO` -/
  halves : Tab Halves
  /-- HBM and tile memories by device address (R37) -/
  mem : Memory
  ecc : Ecc
  evr : Evr
  lehr : Lehr
  park : Park
  gov : Gov
  stage : Stage
  tiles : Tab Tile
  mills : Tab Mill
  seqs : Tab XSeq
  /-- packets in the Race, in the order of their injection -/
  race : List Packet
  objs : Tab SyncObj
  /-- sync events on their way to their objects, in the order of their issue (R234) -/
  syncFly : List SyncEvt
  sluice : Tab SQueue
  xcache : List XlatEntry
  imgs : Tab ImageCtx
  colls : Tab Coll
  /-- R313: (image context, operation) running, and waiting in the order of their triggers -/
  cxRun : List (Nat × Nat)
  cxWait : List (Nat × Nat)
  guards : Tab Guard
  steps : Tab Step
  measures : Tab Measure
  /-- the phase ledger's records by slot (R394) -/
  ledger : Tab (List Word)
  /-- records written to the ledger since reset (R583) -/
  ledgerCount : Nat
  flume : Flume
  /-- NumVFs while VF Enable is 1, else 0 (R449) -/
  numVf : Nat
  /-- what PCIe makes of the completion writes to come, an input of the model: an entry is true where the write meets an error, and a
  write past the end meets none (R478; log 109) -/
  cplErr : List Bool
  /-- everything sent to the outside, oldest first (log 9) -/
  out : List Output
  reply : Option Reply
  deriving DecidableEq, Repr

/-- Everything of the device at its reset value. -/
def Dev.reset : Dev :=
  { cycle := 0, freeIx := 0, regs := [], halves := [], mem := [], ecc := Ecc.reset, evr := Evr.reset, lehr := Lehr.reset,
    park := Park.reset, gov := Gov.reset, stage := .inReset, tiles := [], mills := [], seqs := [], race := [], objs := [],
    syncFly := [], sluice := [], xcache := [], imgs := [], colls := [], cxRun := [], cxWait := [], guards := [], steps := [],
    measures := [], ledger := [], ledgerCount := 0, flume := Flume.reset, numVf := 0, cplErr := [], out := [], reply := none }

/-- The machine's state. -/
structure State where
  /-- the commands that wait, first in, first out -/
  pending : List Instr
  sk : Skeop
  dev : Dev
  deriving DecidableEq, Repr

/-- Why a step can stop with a fault. No command of the Valvan does: what the manual refuses, traps or stops is an
effect on the state, so the type is empty (safe: there is nothing to raise). -/
inductive Fault where
  deriving DecidableEq, Repr

/-- Why a step can be refused. -/
inductive Refusal where
  /-- raised by Dispatch for a row of the table that has no meaning yet; safe: the machine stops -/
  | notModelled (mnemonic : String)
  deriving DecidableEq, Repr

/-- The machine after reset: its supplies are up and MOD_RST_N is still asserted, as in the first row of R619; the
queue is empty. The values the manual does not give are those of log 5. -/
def State.reset : State := { pending := [], sk := Skeop.reset, dev := Dev.reset }

end Sys2Proof.Machine
end

