-- ==== Sys2Proof/Machine/Clock.lean ====
section
/-!
DEFINITION. The clock of the model. Times of the manual are counted in Race cycles of 0.625 ns (R70).
-/
namespace Sys2Proof.Machine

/-- What a command answers. -/
abbrev Res := Host.Outcome State Fault Refusal

/-- Race cycles in `n` nanoseconds: 8 cycles are 5 ns (R70). -/
def cyclesOfNs (n : Nat) : Nat := ceilDiv (n * 8) 5

/-- Race cycles in `n` microseconds. -/
def cyclesOfUs (n : Nat) : Nat := n * 1600

/-- Race cycles in `n` milliseconds. -/
def cyclesOfMs (n : Nat) : Nat := n * 1600000

/-- Nanoseconds in `n` Race cycles. -/
def nsOfCycles (n : Nat) : Nat := n * 5 / 8

/-- Lift an effect on the device. -/
def onDev (f : Dev → Dev) (s : State) : State := { s with dev := f s.dev }

/-- Lift an effect on Skeop. -/
def onSk (f : Skeop → Skeop) (s : State) : State := { s with sk := f s.sk }

end Sys2Proof.Machine
end

