-- ==== Sys2Proof/Machine/Ops.lean ====
section
/-!
DEFINITION. Operations that commands share: registers and counters, the event recorder (R584 to R592), violation
capture (R522), and reading and writing memory words with their check codes (R495 to R517).
-/
namespace Sys2Proof.Machine

/-! ### Status codes (R18) -/

abbrev sOk : Nat := 0x0
abbrev sBound : Nat := 0x1
abbrev sFenced : Nat := 0x2
abbrev sClosed : Nat := 0x3
abbrev sUe : Nat := 0x4
abbrev sFault : Nat := 0x5
abbrev sPerm : Nat := 0x6
abbrev sLen : Nat := 0x7
abbrev sBroken : Nat := 0x8
abbrev sStale : Nat := 0x9
abbrev sTimeout : Nat := 0xA
abbrev sParam : Nat := 0xB

/-! ### The register file -/

/-- The stored value of the register at a BAR0 offset. -/
def Dev.reg (d : Dev) (off : Nat) : Word := Tab.get regReset d.regs off

/-- Store a register. -/
def Dev.setReg (d : Dev) (off : Nat) (w : Word) : Dev := { d with regs := Tab.set regReset d.regs off w }

/-- A field of a stored register. -/
def Dev.regFld (d : Dev) (off lo len : Nat) : Nat := fld (d.reg off) lo len

/-- Store a field of a register. -/
def Dev.setFld (d : Dev) (off lo len v : Nat) : Dev := d.setReg off (putFld (d.reg off) lo len v)

/-- Add to a 32-bit counter, which holds at all-ones (R15). -/
def Dev.count (d : Dev) (off n : Nat) : Dev :=
  d.setReg off (BitVec.ofNat 32 (sat 0xFFFFFFFF ((d.reg off).toNat + n)))

/-- The register at `base`, entry `i` of an array with the given stride. -/
def at1 (base stride i : Nat) : Nat := base + stride * i

/-! ### Tables of units -/

def Dev.tile (d : Dev) (t : Nat) : Tile := Tab.get (fun _ => Tile.reset) d.tiles t
def Dev.setTile (d : Dev) (t : Nat) (v : Tile) : Dev := { d with tiles := Tab.set (fun _ => Tile.reset) d.tiles t v }
def Dev.mill (d : Dev) (p : Nat) : Mill := Tab.get (fun _ => Mill.reset) d.mills p
def Dev.setMill (d : Dev) (p : Nat) (v : Mill) : Dev := { d with mills := Tab.set (fun _ => Mill.reset) d.mills p v }
def Dev.seq (d : Dev) (t : Nat) : XSeq := Tab.get (fun _ => XSeq.reset) d.seqs t
def Dev.setSeq (d : Dev) (t : Nat) (v : XSeq) : Dev := { d with seqs := Tab.set (fun _ => XSeq.reset) d.seqs t v }
def Dev.obj (d : Dev) (p : Nat) : SyncObj := Tab.get (fun _ => SyncObj.free) d.objs p
def Dev.setObj (d : Dev) (p : Nat) (v : SyncObj) : Dev := { d with objs := Tab.set (fun _ => SyncObj.free) d.objs p v }
def Dev.queue (d : Dev) (k : Nat) : SQueue := Tab.get (fun _ => SQueue.reset) d.sluice k
def Dev.setQueue (d : Dev) (k : Nat) (v : SQueue) : Dev :=
  { d with sluice := Tab.set (fun _ => SQueue.reset) d.sluice k v }
def Dev.img (d : Dev) (c : Nat) : ImageCtx := Tab.get (fun _ => ImageCtx.reset) d.imgs c
def Dev.setImg (d : Dev) (c : Nat) (v : ImageCtx) : Dev :=
  { d with imgs := Tab.set (fun _ => ImageCtx.reset) d.imgs c v }
def Dev.coll (d : Dev) (c : Nat) : Coll := Tab.get (fun _ => Coll.empty) d.colls c
def Dev.setColl (d : Dev) (c : Nat) (v : Coll) : Dev := { d with colls := Tab.set (fun _ => Coll.empty) d.colls c v }
def Dev.guard (d : Dev) (c : Nat) : Guard := Tab.get (fun _ => Guard.empty) d.guards c
def Dev.setGuard (d : Dev) (c : Nat) (v : Guard) : Dev :=
  { d with guards := Tab.set (fun _ => Guard.empty) d.guards c v }
def Dev.stepOf (d : Dev) (c : Nat) : Step := Tab.get (fun _ => Step.reset) d.steps c
def Dev.setStep (d : Dev) (c : Nat) (v : Step) : Dev := { d with steps := Tab.set (fun _ => Step.reset) d.steps c v }
def Dev.measure (d : Dev) (c : Nat) : Measure := Tab.get (fun _ => Measure.reset) d.measures c
def Dev.setMeasure (d : Dev) (c : Nat) (v : Measure) : Dev :=
  { d with measures := Tab.set (fun _ => Measure.reset) d.measures c v }
def Dev.port (d : Dev) (n : Nat) : FPort := Tab.get (fun _ => FPort.reset) d.flume.ports n
def Dev.setPort (d : Dev) (n : Nat) (v : FPort) : Dev :=
  { d with flume := { d.flume with ports := Tab.set (fun _ => FPort.reset) d.flume.ports n v } }
def Dev.clk (d : Dev) (p : Nat) : MillClk := Tab.get (fun _ => MillClk.reset) d.gov.mills p
def Dev.setClk (d : Dev) (p : Nat) (v : MillClk) : Dev :=
  { d with gov := { d.gov with mills := Tab.set (fun _ => MillClk.reset) d.gov.mills p v } }

/-- Send something to the outside. -/
def Dev.emit (d : Dev) (o : Output) : Dev := { d with out := d.out ++ [o] }

/-- Draw the number of the next free value (log 3). -/
def Dev.draw (d : Dev) : Dev := { d with freeIx := d.freeIx + 1 }

/-- The PCIe function that owns a context (R449): function 0 is the PF. -/
def Dev.owner (d : Dev) (c : Nat) : Nat := if c < d.numVf then c + 1 else 0

/-! ### Binding (R30, R32, R215, R465) -/

/-- The image context and logical mill of a physical mill, while it is bound. -/
def Dev.binding (d : Dev) (p : Nat) : Option (Nat × Nat) :=
  (List.range 16).findSome? fun c => ((d.img c).mills.findIdx? (· = p)).map fun l => (c, l)

/-- The image context a physical tile is bound to. -/
def Dev.tileCtx (d : Dev) (t : Nat) : Option Nat := (d.binding (t / 8)).map (·.1)

/-- The logical tile of a physical tile (R32). -/
def Dev.logical (d : Dev) (t : Nat) : Option Nat := (d.binding (t / 8)).map fun b => b.2 * 8 + t % 8

/-- The physical tile of a context's logical tile (R215). -/
def Dev.physical (d : Dev) (c lt : Nat) : Option Nat := ((d.img c).mills[lt / 8]?).map fun p => p * 8 + lt % 8

/-- The mill is fenced (R524). -/
def Dev.isFenced (d : Dev) (p : Nat) : Bool := d.ecc.fenced.contains p

/-- The spare field of a compute die in CAP_TA_SPAREn (R101, R527, R531). -/
def Dev.spareField (d : Dev) (c : Nat) : Nat :=
  if d.ecc.spareUsed.contains c then 0xF else (Config.spareMill c).val

/-- The mill is enabled: neither fenced nor its die's spare (R101). -/
def Dev.isEnabled (d : Dev) (p : Nat) : Bool := !d.isFenced p && decide (d.spareField (p / 9) ≠ p % 9)

/-- The number of enabled mills (R101). -/
def Dev.enabledMills (d : Dev) : Nat := ((List.range 216).filter d.isEnabled).length

/-! ### The event recorder (R584 to R592) -/

/-- Operating time in ms (R536): a 48-bit counter, which holds at all-ones (R15). -/
def Dev.opMs (d : Dev) : Nat :=
  sat (2 ^ 48 - 1) (d.lehr.opBase + (if d.lehr.dom50 then (d.cycle - d.lehr.opSince) / 1600000 else 0))

/-- One step of the CRC-16 of R585 over one byte. -/
def crc16Byte (crc : Nat) (b : Nat) : Nat :=
  (List.range 8).foldl (fun c _ => if c ≥ 0x8000 then ((c * 2) % 0x10000) ^^^ 0x1021 else c * 2)
    (crc ^^^ (b * 256))

/-- The CRC-16 of R585. -/
def crc16 (bs : List Byte) : Nat := bs.foldl (fun c b => crc16Byte c b.toNat) 0xFFFF

/-- The eight words of a record (R584). -/
def eventWords (sev source code ms pcyc : Nat) (p0 p1 p2 p3 : Nat) : List Word :=
  let head := bytesOf 4 (sev * 2 ^ 28 + source * 2 ^ 16 + code) ++ bytesOf 6 ms ++ bytesOf 4 pcyc
  let tail := bytesOf 4 p0 ++ bytesOf 4 p1 ++ bytesOf 4 p2 ++ bytesOf 4 p3
  wordsOf 8 (head ++ bytesOf 2 (crc16 (head ++ tail)) ++ tail)

/-- The severity of an event code (R586, R605). -/
def severity (code : Nat) : Nat :=
  if code ∈ [0x9007, 0x9008] then 5
  else if code ∈ [0x1001, 0x6202, 0x6204, 0x7203, 0x7204, 0x9006, 0xB006, 0xB008, 0xA003, 0xA007] then 4
  else if code ∈ [0x1002, 0x1003, 0x2001, 0x2002, 0x2003, 0x3001, 0x3002, 0x3003, 0x3005, 0x3006, 0x4002, 0x5004, 0x5005,
      0x6001, 0x6003, 0x6004, 0x6201, 0x7002, 0x7005, 0x8001, 0x8007, 0x8008, 0x9009, 0xB001, 0xB002, 0xB005, 0xA002,
      0xA0F1] then 3
  else if code ∈ [0x1004, 0x3004, 0x4001, 0x4003, 0x4004, 0x4005, 0x4006, 0x4007, 0x5001, 0x5002, 0x5003, 0x6002, 0x6005,
      0x6006, 0x6104, 0x6203, 0x6205, 0x7003, 0x7004, 0x7006, 0x7007, 0x7008, 0x7009, 0x7201, 0x7202, 0x7206, 0x8009,
      0x9001, 0x9002, 0x9003, 0x900A, 0x900B, 0x900C, 0x900D, 0xB003, 0xB007, 0xB00B, 0xA006, 0xA00B, 0xA00D] then 2
  else if code ∈ [0x6007, 0x6101, 0x6102, 0x6103, 0x6206, 0x7001, 0x7101, 0x7205, 0x8002, 0x8004, 0x8005, 0x8006, 0x9004,
      0x9005, 0xB004, 0xB009, 0xB00A, 0xA001, 0xA009] then 0
  else 1

/-- SOURCE values (R587). -/
abbrev srcNone : Nat := 0xFFF
def srcMill (p : Nat) : Nat := 0x800 + p
def srcPort (n : Nat) : Nat := 0xC00 + n
def srcStack (k : Nat) : Nat := 0xC80 + k
def srcFunc (f : Nat) : Nat := 0xD00 + f
def srcCtx (c : Nat) : Nat := 0xE00 + c

/-- Drop the oldest record of SRAM beyond 1,024 (R588); one not copied yet is lost (R589). -/
def Dev.trimSram (d : Dev) : Dev :=
  match d.evr.sram with
  | [] => d
  | r :: rest =>
    if d.evr.sram.length ≤ 1024 then d
    else if d.evr.norNext = r.seq then
      let e := d.evr
      let d : Dev := { d with evr := { e with
        sram := rest
        norNext := (r.seq + 1) % 2 ^ 32
        lostFirst := if e.lostCount = 0 then r.seq else e.lostFirst
        lostCount := e.lostCount + 1 } }
      d.count Reg.EVR_LOST 1
    else { d with evr := { d.evr with sram := rest } }

/-- Announce a record whose severity reaches EVR_CTL.SEVMIN: a PlatformEventMessage (R582), and the PF vector at most
once a millisecond (EVR_CTL.VEC). -/
def Dev.announce (d : Dev) (sev : Nat) (words : List Word) : Dev :=
  if d.regFld Reg.EVR_CTL 24 4 ≤ sev then
    let d : Dev := { d with out := d.out ++ (d.evr.receiver.map fun eid => Output.platformEvent eid words).toList }
    if d.evr.vecMs = some d.opMs then d
    else
      let d : Dev := { d with evr := { d.evr with vecMs := some d.opMs } }
      d.emit (.msix 0 (d.regFld Reg.EVR_CTL 16 8))
  else d

/-- Write one record into SRAM with the next sequence number (R588). -/
def Dev.writeRecord (d : Dev) (sev : Nat) (words : List Word) : Dev :=
  let e := d.evr
  let d : Dev := { d with evr := { e with
    sram := e.sram ++ [{ seq := e.head, words := words }]
    head := (e.head + 1) % 2 ^ 32 } }
  d.trimSram.announce sev words

/-- A record stamped with a millisecond of operating time. -/
def Dev.writeEvent (d : Dev) (sev source code ms p0 p1 p2 p3 : Nat) : Dev :=
  d.writeRecord sev (eventWords sev source code ms d.lehr.powerCycles p0 p1 p2 p3)

/-- The repeat record of a pair (R591). -/
def Dev.writeRepeat (d : Dev) (ms : Nat) (p : Pair) : Dev :=
  if p.count = 0 then d
  else
    (d.writeEvent (severity p.code) (if p.overflow then srcNone else p.source) 0xA0F0 ms p.code p.count p.p1.toNat
      p.p2.toNat).count Reg.EVR_COALESCED p.count

/-- End the coalescing window when its millisecond has passed (R591). -/
def Dev.flushPairs (d : Dev) : Dev :=
  if d.evr.ms = d.opMs then d
  else
    let d' := d.evr.pairs.foldl (fun d p => d.writeRepeat d.evr.ms p) d
    { d' with evr := { d'.evr with ms := d.opMs, pairs := [] } }

/-- Count one more occurrence against the first pair that `sel` selects. -/
def bumpPair (sel : Pair → Bool) (p1 p2 : Word) : List Pair → List Pair
  | [] => []
  | p :: ps => if sel p then { p with count := p.count + 1, p1 := p1, p2 := p2 } :: ps else p :: bumpPair sel p1 p2 ps

/-- Codes never coalesced: repeat and loss records and the record of a clear (R591). -/
def neverCoalesced (code : Nat) : Bool := code = 0xA0F0 || code = 0xA0F1 || code = 0xA00A

/-- Record an event with its SOURCE and parameters, or coalesce it (R591, R592). While only the Lehr domain runs it
goes to the Lehr buffer, stamped with the next power-up's count (R537). -/
def Dev.eventSrc (d : Dev) (code source p0 p1 p2 p3 : Nat) : Dev :=
  let sev := severity code
  if !d.lehr.dom50 then
    let words := eventWords sev source code d.opMs (sat 0xFFFFFFFF (d.lehr.powerCycles + 1)) p0 p1 p2 p3
    let b := d.lehr.buffer ++ [words]
    if b.length ≤ 16 then { d with lehr := { d.lehr with buffer := b } }
    else { d with lehr := { d.lehr with buffer := b.drop 1, bufLost := d.lehr.bufLost + 1 } }
  else
    let d := d.flushPairs
    let full := fun (d : Dev) => d.writeEvent sev source code d.opMs p0 p1 p2 p3
    if neverCoalesced code then full d
    else
      let e := d.evr
      let isPair := fun (p : Pair) => decide (p.code = code) && decide (p.source = source) && !p.overflow
      let isOver := fun (p : Pair) => decide (p.code = code) && p.overflow
      let w1 := BitVec.ofNat 32 p1
      let w2 := BitVec.ofNat 32 p2
      let new := fun (o : Bool) => ({ code := code, source := source, count := 0, p1 := 0, p2 := 0, overflow := o } : Pair)
      if e.pairs.any isPair then { d with evr := { e with pairs := bumpPair isPair w1 w2 e.pairs } }
      else if (e.pairs.filter (fun p => !p.overflow)).length < 256 then
        full { d with evr := { e with pairs := e.pairs ++ [new false] } }
      else if e.pairs.any isOver then { d with evr := { e with pairs := bumpPair isOver w1 w2 e.pairs } }
      else full { d with evr := { e with pairs := e.pairs ++ [new true] } }

/-- SOURCE of an event whose first parameter settles it (R587; log 7 for 0xB009). -/
def eventSource (code p0 p1 : Nat) : Nat :=
  if code / 0x1000 = 1 then p0
  else if code ∈ [0x3001, 0x3002, 0x3003, 0x3004, 0x3005, 0x4001, 0x4003, 0x4004, 0x4005, 0x4006, 0x4007, 0x5001] then p0
  else if code ∈ [0x5002, 0x5003, 0x5004, 0x5005, 0xB007, 0xB008] then srcMill p0
  else if code ∈ [0x3006, 0x6001, 0x6003, 0x6004, 0x6005, 0x6006, 0x6007, 0x6201, 0x6202, 0x6203,
      0x6204, 0x6205, 0x6206, 0x7201, 0x7202, 0x7203, 0x7204, 0x7205, 0x7206, 0x8001, 0x8002, 0x8003, 0x8004,
      0x8005, 0x8006, 0x8007, 0x8008, 0x9006, 0xA009] then (if p0 < 16 then srcCtx p0 else srcNone)
  else if code ∈ [0x7001, 0x7002, 0x7003, 0x7004, 0x7005, 0x7008, 0x7009] then srcPort p0
  else if code ∈ [0x8009, 0xB00B] then srcFunc p0
  else if code ∈ [0xB002, 0xB006, 0xB00A] then srcStack p0
  else if code = 0xB001 then (if p0.testBit 15 then srcMill (p0 % 256) else p0 % 2048)
  else if code ∈ [0xB003, 0xB004, 0xB005] then (if p0 / 0x1000 = 1 then srcStack (p0 / 256 % 16) else p0 % 2048)
  else if code = 0xB009 then (if p0 = 0 then p1 else if p0 = 1 then srcMill p1 else srcStack p1)
  else srcNone

/-- Record an event whose SOURCE its parameters settle. -/
def Dev.event (d : Dev) (code p0 p1 p2 p3 : Nat) : Dev := d.eventSrc code (eventSource code p0 p1) p0 p1 p2 p3

/-! ### Capture (R520, R522) -/

/-- Capture a violation in the block whose `_ERR_ADDR_LO` lies at `base`: `info` holds the fields of `_ERR_INFO` below
bit 16. The first violation fills the registers; a later one is only counted. -/
def Dev.capture (d : Dev) (base : Nat) (lo hi info : Nat) : Dev :=
  let w := d.reg (base + 8)
  if bit w 31 then d.setFld (base + 8) 16 15 (sat 0x7FFF (fld w 16 15 + 1))
  else
    ((d.setReg base (BitVec.ofNat 32 lo)).setReg (base + 4) (BitVec.ofNat 32 hi)).setReg (base + 8)
      (BitVec.ofNat 32 (2 ^ 31 + 2 ^ 16 + info % 2 ^ 16))

/-! ### Device addresses (R37 to R39, R66, R275) -/

abbrev tileBase : Nat := 0x100000000000
abbrev tileSize : Nat := 0x600000
abbrev tileWindow : Nat := 0x800000

/-- The device address of an offset in a physical tile's memory (R37). -/
def tileAddr (t off : Nat) : Nat := tileBase + t * tileWindow + off

/-- The usable HBM of the mode in force (R39). -/
def Dev.hbmSize (d : Dev) : Nat := if d.ecc.hbmMode = 1 then 0xB400000000 else 0xC000000000

/-- Where a device address leads. -/
inductive Place where
  | hbm | tile (t off : Nat) | regs (off : Nat) | none
  deriving DecidableEq, Repr

/-- The device address map (R37 to R39). -/
def Dev.place (d : Dev) (a : Nat) : Place :=
  if a < d.hbmSize then .hbm
  else if tileBase ≤ a ∧ a < tileBase + 1728 * tileWindow then
    let o := (a - tileBase) % tileWindow
    if o < tileSize then .tile ((a - tileBase) / tileWindow) o else .none
  else if 0xF00000000000 ≤ a ∧ a < 0xF00004000000 then .regs (a - 0xF00000000000)
  else .none

/-- An HBM address in the interleave of R275: stack, channel, pseudo-channel, index of its granule in the channel. -/
def hbmStack (a : Nat) : Nat := (a / 4096) % 12
def hbmChannel (a : Nat) : Nat := (a / 4096 / 12) % 32
def hbmPc (a : Nat) : Nat := a % 4096 / 2048
def hbmIndex (a : Nat) : Nat := a / 4096 / 12 / 32

/-- The HBM device address at an offset of a granule, from its stack, channel and index (R275). -/
def hbmAddr (stack channel index off : Nat) : Nat := ((index * 32 + channel) * 12 + stack) * 4096 + off

/-- The core die of an HBM address in the mode in force (R499; log 6). -/
def Dev.hbmDieOf (d : Dev) (a : Nat) : Nat :=
  if d.ecc.hbmMode = 1 then
    (Config.stripeDie (hbmStack a) (hbmChannel a) (hbmIndex a / 15) + hbmIndex a % 15) % 16
  else Config.hbmDie a % 16

/-- The other fourteen data members of the stripe of an HBM address (R499). -/
def stripeMates (a : Nat) : List Nat :=
  ((List.range 15).filter (· ≠ hbmIndex a % 15)).map fun k =>
    hbmAddr (hbmStack a) (hbmChannel a) (hbmIndex a / 15 * 15 + k) (a % 4096)

/-- The row of a tile-memory word (R66) or of an HBM word (R275, log 6). -/
def Dev.rowOf (d : Dev) (a : Nat) : RowId :=
  match d.place a with
  | .tile t off => { hbm := false, unit := t, bank := off / 64 % 16, row := off / 1024 }
  | _ =>
    { hbm := true, unit := hbmStack a * 64 + hbmChannel a * 2 + hbmPc a, bank := Config.hbmBank a, row := Config.hbmRow a }

/-- P0 of events 0xB003 to 0xB005 (R533). -/
def RowId.code (r : RowId) : Nat := if r.hbm then 0x1000 + r.unit / 64 * 256 + r.unit % 64 else r.unit

/-! ### Fence requests (R525, R526): the request; its effect is in Machine/Fence.lean. -/

/-- Request a fence: event 0xB007, and a deferred fence unless the mill is fenced or has one pending. -/
def Dev.requestFence (d : Dev) (p trigger : Nat) : Dev :=
  let c := match d.binding p with
    | some (c, _) => c
    | none => 0xF
  let d := d.event 0xB007 p trigger c 0
  if d.isFenced p || d.ecc.pending.any (fun f => decide (f.mill = p)) then d
  else { d with ecc := { d.ecc with
           pending := d.ecc.pending ++ [{ mill := p, trigger := trigger, ictx := c, since := d.cycle }] } }

/-! ### Words (R495 to R509) -/

/-- The flip mask of a stored word. -/
def Dev.flipOf (d : Dev) (wa : Nat) : BitVec 80 := Tab.get (fun _ => 0) d.ecc.flips wa

def Dev.setFlip (d : Dev) (wa : Nat) (m : BitVec 80) : Dev :=
  { d with ecc := { d.ecc with flips := Tab.set (fun _ => 0) d.ecc.flips wa m } }

/-- Store bytes in memory. -/
def Dev.putBytes (d : Dev) (a : Nat) (bs : List Byte) : Dev := { d with mem := d.mem.setBytes a bs }

/-- Make `n` bytes poison again (R504, R514). -/
def Dev.poison (d : Dev) (a n : Nat) : Dev := { d with mem := d.mem.forget a n }

/-- What reading a word gives. -/
inductive WordRead where
  | ok (v : List Byte)
  | corrected (v : List Byte)
  | ue (poison : Bool)
  deriving DecidableEq, Repr

/-- What the check code makes of the word at `wa` (R495, R505). -/
def Dev.checkWord (d : Dev) (wa : Nat) : WordRead :=
  match Memory.bytes d.mem 8 wa with
  | none => .ue true
  | some v =>
    let m := d.flipOf wa
    let n := popCount 80 m.toNat
    if n = 0 then .ok v
    else if n ≤ 2 then .corrected v
    else if n = 3 then .ue false
    else match Config.flipOutcome wa (BitVec.ofNat 64 (leNat v)) m with
      | none => .ue false
      | some (w, true) => .corrected (bytesOf 8 w.toNat)
      | some (w, false) => .ok (bytesOf 8 w.toNat)

/-! ### Words written (R496, R500, R511) -/

/-- The word is one that the armed flip mask waits for (R511): TARGET 0 a tile's memory, 2 an HBM stack. -/
def Dev.flipTarget (d : Dev) (wa : Nat) : Bool :=
  let w := d.reg Reg.ECC_FLIP_SEL
  bit w 31 && (match d.place wa with
    | .hbm => decide (fld w 24 2 = 2 ∧ fld w 0 11 = hbmStack wa)
    | .tile t _ => decide (fld w 24 2 = 0 ∧ fld w 0 11 = t)
    | _ => false)

/-- The 80-bit mask of the flip registers (R511). -/
def Dev.flipMask (d : Dev) : BitVec 80 :=
  BitVec.ofNat 80 ((d.reg Reg.ECC_FLIP_MASK_LO).toNat + (d.reg Reg.ECC_FLIP_MASK_HI).toNat * 2 ^ 32 +
    fld (d.reg Reg.ECC_FLIP_CHK) 0 16 * 2 ^ 64)

/-- Clear the check state of the `n` words from `wa` up, which have just been written, and apply an armed flip mask to
the first that it waits for: ARM clears and event 0xB009 is recorded (R511). -/
def Dev.written (d : Dev) (agent : Nat) : (n wa : Nat) → Dev
  | 0, _ => d
  | n + 1, wa =>
    let d := d.setFlip wa 0
    if d.flipTarget wa then
      let w := d.reg Reg.ECC_FLIP_SEL
      let d := ((d.setFlip wa d.flipMask).setReg Reg.ECC_FLIP_SEL (putBit w 31 false)).event 0xB009 (fld w 24 2)
        (fld w 0 11) ((match d.place wa with | .tile _ o => o | _ => wa) % 2 ^ 32) agent
      d.written agent n (wa + 8)
    else d.written agent n (wa + 8)

/-- Store one whole word for an agent. -/
def Dev.putWord (d : Dev) (agent wa : Nat) (v : List Byte) : Dev := (d.putBytes wa v).written agent 1 wa

/-! ### Uncorrectable reads (R509, R533) -/

/-- The location of an uncorrectable read as ECC_ERR_LOC lays it out. -/
def Dev.errLoc (d : Dev) (a : Nat) : Nat :=
  let r := d.rowOf a
  if r.hbm then
    hbmStack a * 2 ^ 28 + d.hbmDieOf a * 2 ^ 24 + hbmChannel a * 2 ^ 19 + hbmPc a * 2 ^ 18 + r.row % 2 ^ 18
  else r.bank * 2 ^ 24 + r.row

/-- The SOURCE of ECC_ERR_INFO for an uncorrectable word that an agent reads: 14 is the scrubber, 15 the row mapper. -/
def ueSource (agent : Nat) (hbm : Bool) : Nat :=
  if agent = 15 then 5 else if hbm then (if agent = 14 then 4 else 2) else if agent = 14 then 3 else 0

/-- An uncorrectable read by an agent is captured, located, recorded as event 0xB001 or 0xB002, and counted (R507, R509). -/
def Dev.reportUe (d : Dev) (agent wa : Nat) (poison : Bool) : Dev :=
  let r := d.rowOf wa
  let unit := if r.hbm then hbmStack wa else r.unit
  let off := match d.place wa with
    | .tile _ o => o
    | _ => wa % 2 ^ 32
  let hi := if r.hbm then wa / 2 ^ 32 % 2 ^ 16 else 0
  let fresh := !bit (d.reg Reg.ECC_ERR_INFO) 31
  let pz := if poison then 1 else 0
  let d := d.capture Reg.ECC_ERR_ADDR_LO off (unit * 2 ^ 16 + hi) (pz * 2 ^ 15 + ueSource agent r.hbm * 256 + sUe)
  let d := if fresh then d.setReg Reg.ECC_ERR_LOC (BitVec.ofNat 32 (d.errLoc wa)) else d
  let d := if r.hbm then d.event 0xB002 (hbmStack wa) (wa % 2 ^ 32) (wa / 2 ^ 32) pz
    else d.event 0xB001 r.unit off agent pz
  if poison then d.count Reg.ECC_POISON 1 else d.count (if r.hbm then Reg.ECC_HBM_UE else Reg.ECC_TM_UE) 1

/-! ### Row mapping (R513 to R516) -/

/-- The spare rows a row's bank has left (R513, R516). -/
def Dev.sparesLeft (d : Dev) (r : RowId) : Nat :=
  let used := (d.ecc.rowMap.filter fun q => decide (q.hbm = r.hbm ∧ q.unit = r.unit ∧ q.bank = r.bank)).length
  if r.hbm then Config.hbmSpares r.unit r.bank - used else 8 - Config.fusedRows r.unit r.bank - used

/-- The word addresses of a row of tile memory (R66): 64 bytes. -/
def rowWords (r : RowId) : List Nat :=
  (List.range 8).map fun k => tileAddr r.unit (r.row * 1024 + r.bank * 64 + 8 * k)

/-- The counter of corrected words of a row's memory (R496). -/
def ceReg (r : RowId) : Nat := if r.hbm then Reg.ECC_HBM_CE else Reg.ECC_TM_CE

/-- The row mapper moves one word to a spare row (R514): a correctable word is counted and copied corrected, an uncorrectable
one is reported and becomes poison. -/
def Dev.copyWord (d : Dev) (r : RowId) (wa : Nat) : Dev :=
  match d.checkWord wa with
  | .ok v => d.putWord 15 wa v
  | .corrected v => (d.count (ceReg r) 1).putWord 15 wa v
  | .ue pz => ((d.reportUe 15 wa pz).poison wa 8).written 15 1 wa

/-- Copy a row to a spare (R514). -/
def Dev.copyRow (d : Dev) (r : RowId) : Dev := (rowWords r).foldl (fun d wa => d.copyWord r wa) d

/-- A row becomes a candidate (R513): it is mapped to a spare (R514), or stays in use and requests a fence (R515), or
waits for the next start-up's repair (R516). `n` is the number of its corrected words. -/
def Dev.candidate (d : Dev) (r : RowId) (n : Nat) : Dev :=
  if d.ecc.exhausted.contains r || d.ecc.hbmPend.contains r then d
  else
    let d := d.event 0xB003 r.code r.bank r.row n
    if r.hbm then { d with ecc := { d.ecc with hbmPend := d.ecc.hbmPend ++ [r] } }
    else if d.sparesLeft r = 0 then
      let d : Dev := { d with ecc := { d.ecc with exhausted := d.ecc.exhausted ++ [r] } }
      let status := Config.freeNat d.freeIx % 12
      let d := d.draw.capture Reg.ECC_ERR_ADDR_LO (r.row * 1024 + r.bank * 64) (r.unit * 2 ^ 16) (5 * 256 + status)
      (d.event 0xB005 r.code r.bank r.row 0).requestFence (r.unit / 8) 1
    else
      let d := d.copyRow r
      let d := { d with ecc := { d.ecc with
        rowMap := d.ecc.rowMap ++ [r], norRows := d.ecc.norRows ++ [r]
        rowCe := d.ecc.rowCe.filter fun e => decide (e.1 ≠ r) } }
      d.event 0xB004 r.code r.bank r.row (d.sparesLeft r)

/-- A word has been corrected (R496): it is counted and written back, and its row may become a candidate (R513). -/
def Dev.correct (d : Dev) (wa : Nat) (v : List Byte) : Dev :=
  let r := d.rowOf wa
  let d := (d.putWord 14 wa v).count (ceReg r) 1
  if d.ecc.rowCe.contains (r, wa) then d
  else
    let l := d.ecc.rowCe ++ [(r, wa)]
    let d := { d with ecc := { d.ecc with rowCe := l } }
    let n := (l.filter fun e => decide (e.1 = r)).length
    if d.regFld Reg.ECC_CFG 8 8 ≤ n then d.candidate r n else d

/-- An uncorrectable read by an agent (R509, R533); one that is not poison makes its row a candidate (R507, R513). -/
def Dev.uncorrectable (d : Dev) (agent wa : Nat) (poison : Bool) : Dev :=
  let r := d.rowOf wa
  let d := d.reportUe agent wa poison
  if poison then d else d.candidate r ((d.ecc.rowCe.filter fun e => decide (e.1 = r)).length)

/-! ### Rebuilding in mode 1 (R499 to R502) -/

/-- The core die is marked failed (R502). -/
def Dev.dieFailed (d : Dev) (stack die : Nat) : Bool :=
  (Tab.get (fun _ => (0 : BitVec 16)) d.ecc.dieFailed stack).toNat.testBit die

/-- Mark a core die failed: event 0xB006 (R502). -/
def Dev.failDie (d : Dev) (stack die n : Nat) : Dev :=
  let mark := fun (t : Tab (BitVec 16)) =>
    Tab.set (fun _ => 0) t stack (Tab.get (fun _ => (0 : BitVec 16)) t stack ||| BitVec.ofNat 16 (2 ^ die))
  let d : Dev := { d with ecc := { d.ecc with dieFailed := mark d.ecc.dieFailed, norDies := mark d.ecc.norDies } }
  d.event 0xB006 stack die n 0

/-- The words of the 64 B blocks that a rebuild of the block of `a` reads: those of the other data members of its stripe. -/
def mateWords (a : Nat) : List Nat := (stripeMates (alignDown 64 a)).flatMap fun b => (List.range 8).map (b + 8 * ·)

/-- Whether the 64 B block of an HBM address can be rebuilt (R501): no other member is uncorrectable or lies on a failed
die. Poison members are consistent with their check granule and do not prevent it (R505; log 8). -/
def Dev.canRebuild (d : Dev) (a : Nat) : Bool :=
  let base := Config.stripeDie (hbmStack a) (hbmChannel a) (hbmIndex a / 15)
  let checkDie := (base + 15) % 16
  !d.dieFailed (hbmStack a) checkDie &&
  (stripeMates (alignDown 64 a)).all (fun b => !d.dieFailed (hbmStack b) (d.hbmDieOf b)) &&
  (mateWords a).all fun w => match d.checkWord w with
    | .ue false => false
    | _ => true

/-- The words that a rebuild reads from the other members are corrected where their code allows (R496). -/
def Dev.readMates (d : Dev) (a : Nat) : Dev :=
  (mateWords a).foldl (fun d w => match d.checkWord w with
    | .corrected v => d.correct w v
    | .ok _ | .ue _ => d) d

/-- The rebuilt words of a block are written back (R496, R501): those that hold poison are poison again (R505). -/
def Dev.writeBlock (d : Dev) (block : Nat) : Dev :=
  (List.range 8).foldl (fun d k =>
    let w := block + 8 * k
    match Memory.bytes d.mem 8 w with
    | some v => d.putWord 14 w v
    | none => d.setFlip w 0) d

/-- Rebuild the 64 B block of an HBM address from its stripe: it is counted and written back, and may mark its die failed
(R501, R502). A block of a die already marked is rebuilt, not read or written. -/
def Dev.rebuild (d : Dev) (a : Nat) : Dev :=
  let die := d.hbmDieOf a
  let d := (d.readMates a).count Reg.ECC_SYM_CE 1
  if d.dieFailed (hbmStack a) die then d
  else
    let d := d.writeBlock (alignDown 64 a)
    let key := (hbmStack a, die, (hbmIndex a / 15) * 32 + hbmChannel a)
    if d.ecc.symCorr.contains key then d
    else
      let l := d.ecc.symCorr ++ [key]
      let n := (l.filter fun e => decide (e.1 = hbmStack a ∧ e.2.1 = die)).length
      let d := { d with ecc := { d.ecc with symCorr := l } }
      if d.regFld Reg.ECC_CFG 0 8 ≤ n then d.failDie (hbmStack a) die n else d

/-- The word lies on a failed die of a stack in mode 1, which is not read (R502). -/
def Dev.onLostDie (d : Dev) (wa : Nat) : Bool :=
  decide (wa < tileBase) && decide (d.ecc.hbmMode = 1) && d.dieFailed (hbmStack wa) (d.hbmDieOf wa)

/-- Read one word for an agent: its bytes, or none with its poison mark where it is uncorrectable. `first`: no word of its 64 B
block has yet been read in this access, which rebuilds a block once. -/
def Dev.readWord (d : Dev) (agent wa : Nat) (first : Bool) : Dev × Option (List Byte) × Bool :=
  if d.onLostDie wa then
    match Memory.bytes d.mem 8 wa with
    | some v =>
      if d.canRebuild wa then (if first then d.rebuild wa else d, some v, false)
      else (d.uncorrectable agent wa false, none, false)
    | none => (d.uncorrectable agent wa true, none, true)
  else match d.checkWord wa with
    | .ok v => (d, some v, false)
    | .corrected v => (d.correct wa v, some v, false)
    | .ue true => (d.uncorrectable agent wa true, none, true)
    | .ue false =>
      match decide (wa < tileBase) && decide (d.ecc.hbmMode = 1) && d.canRebuild wa, Memory.bytes d.mem 8 wa with
      | true, some v => (d.rebuild wa, some v, false)
      | _, _ => (d.uncorrectable agent wa false, none, false)

/-- What a read of several words gives: the device after it, the bytes where every word could be read, and the first
uncorrectable word. -/
structure ReadResult where
  dev : Dev
  bytes : Option (List Byte)
  bad : Option Nat

/-- Read `n` whole words from word address `wa` up. Every word is read, also past an uncorrectable one. -/
def Dev.readWords (d : Dev) (agent : Nat) : (n wa : Nat) → (first : Bool := true) → ReadResult
  | 0, _, _ => { dev := d, bytes := some [], bad := none }
  | n + 1, wa, first =>
    let r := d.readWord agent wa first
    let rest := r.1.readWords agent n (wa + 8) (decide ((wa + 8) % 64 = 0))
    match r.2.1, rest.bytes with
    | some v, some vs => { dev := rest.dev, bytes := some (v ++ vs), bad := none }
    | some _, none => { dev := rest.dev, bytes := none, bad := rest.bad }
    | none, _ => { dev := rest.dev, bytes := none, bad := some wa }

/-- Read `len` bytes from device address `a`: the words that contain them are read. -/
def Dev.read (d : Dev) (agent a len : Nat) : ReadResult :=
  let w0 := alignDown 8 a
  let r := d.readWords agent ((alignUp 8 (a + len) - w0) / 8) w0
  { r with bytes := r.bytes.map fun bs => (bs.drop (a - w0)).take len }

/-- The old value of a 64 B block is read before a write (R500). Words never written are no violation here (log 181). -/
def Dev.oldBlock (d : Dev) (agent block : Nat) : Dev :=
  (List.range 8).foldl (fun d k =>
    let w := block + 8 * k
    if (Memory.bytes d.mem 8 w).isNone then d
    else (d.readWord agent w ((List.range k).all fun j => (Memory.bytes d.mem 8 (block + 8 * j)).isNone)).1) d

/-- The old values of the HBM blocks of `n` words from `wa` up, which a write in mode 1 reads (R500). -/
def Dev.oldBlocks (d : Dev) (agent n wa : Nat) : Dev :=
  if n = 0 ∨ tileBase ≤ wa ∨ d.ecc.hbmMode ≠ 1 then d
  else
    let b := alignDown 64 wa
    (List.range ((alignUp 64 (wa + 8 * n) - b) / 64)).foldl (fun d k => d.oldBlock agent (b + 64 * k)) d

/-- Write whole words: `bs` from word address `wa` up. The paths of R506 write through it, so that no word they cover stays poison. -/
def Dev.writeWords (d : Dev) (agent wa : Nat) (bs : List Byte) : Dev :=
  ((d.oldBlocks agent (bs.length / 8) wa).putBytes wa bs).written agent (bs.length / 8) wa

/-- Write `bs` at device address `a`. A word only part of which is written is read first and merged (R67); where that
read is uncorrectable, nothing is written and its word address is answered. -/
def Dev.write (d : Dev) (agent a : Nat) (bs : List Byte) : Dev × Option Nat :=
  let w0 := alignDown 8 a
  let w1 := alignUp 8 (a + bs.length)
  let headPart := decide (w0 < a) || decide (a + bs.length < w0 + 8)
  let tailPart := decide (a + bs.length < w1) && decide (w0 + 8 < w1)
  let h := if headPart then d.readWords agent 1 w0 else { dev := d, bytes := some [], bad := none }
  let t := if tailPart then h.dev.readWords agent 1 (w1 - 8) else { dev := h.dev, bytes := some [], bad := none }
  match h.bytes, t.bytes with
  | some hb, some tb =>
    let all := hb.take (a - w0) ++ bs ++
      (if tailPart then tb.drop (8 - (w1 - (a + bs.length))) else if headPart then hb.drop (a + bs.length - w0) else [])
    (t.dev.writeWords agent w0 all, none)
  | none, _ => (t.dev, some w0)
  | some _, none => (t.dev, some (w1 - 8))

end Sys2Proof.Machine
end

