-- ==== Sys2Proof/Machine/FlumeOps.lean ====
section
/-!
DEFINITION. Sending Flume frames: the route of R414 and R415, the retry buffer of R405, and answers (R403, R419).
-/
namespace Sys2Proof.Machine

/-- The CLASS a frame kind travels on (R402). -/
def frameClass (kind : Nat) : Nat :=
  if kind ∈ [2, 9, 11, 12] then 1 else if kind ∈ [7, 10] then 2 else 0

/-- The device's own Flume address (R413). -/
def Dev.fa (d : Dev) : Nat := fld (d.reg Reg.FLM_FA) 15 1 * 0x8000 + fld (d.reg Reg.FLM_FA) 0 13

/-- FLM_CTL.ROUTE_EN. -/
def Dev.routeEn (d : Dev) : Bool := bit (d.reg Reg.FLM_CTL) 0

/-- The mode of a port: 0 OFF, 1 FLUME, 2 ETH (R399). -/
def Dev.portMode (d : Dev) (n : Nat) : Nat := d.regFld (at1 Reg.FLM_PORT_CTLn 0x40 n) 30 2

/-- The ports of a route entry that R415 counts: those that came UP in FLUME mode, were applied by RT_COMMIT where R417 asks
for it, and have not gone DOWN since. One that retrains keeps its place, and its frames wait (log 81). -/
def Dev.routePorts (d : Dev) (entry : Word) : List Nat :=
  (List.range 18).filter fun n => bit entry n && (d.port n).counted && decide (d.portMode n = 1)

/-- The flow hash of R415. -/
def flowHash (sfa dfa cls flow : Nat) : Nat :=
  ((sfa * 40503) ^^^ (dfa * 30197) ^^^ (cls * 9973) ^^^ (flow * 52711)) % 2 ^ 16

/-- The port a frame leaves on, or none where R414 discards it. -/
def Dev.route (d : Dev) (f : Frame) : Option Nat :=
  let e := d.reg (at1 Reg.FLM_RTd 4 (f.dfa % 8192))
  if f.dfa / 0x8000 ≠ d.fa / 0x8000 ∨ !bit e 31 then none
  else
    let ps := d.routePorts e
    if ps.length = 0 then none else ps[flowHash f.sfa f.dfa f.cls f.flow % ps.length]?

/-- Bytes a frame takes in a retry buffer: header, payload and CRC (R400). -/
def frameSize (f : Frame) : Nat := 32 + f.payload.length

/-- The port holds a credit of the neighbour's receive buffer for a class: one goes with each frame sent, and comes back with its
acknowledgement (R408; log 14). -/
def FPort.hasCredit (p : FPort) (n cls : Nat) : Bool :=
  decide ((p.retry.filter fun f => decide (f.cls = cls)).length ≤ Config.linkCredits n cls)

/-- The frame that leaves port `n` next: CTL first; RED and BULK in turn where both wait (R408). A class without credit waits, and while
ROUTE_EN is 0 every frame but a link-local one (R413). -/
def FPort.nextOut (p : FPort) (n : Nat) (routes : Bool) : Option (Frame × Nat × Bool) :=
  let of := fun (c : Nat) =>
    if p.hasCredit n c then p.waiting.find? fun x => decide (x.1.cls = c) && (routes || decide (x.1.kind < 2)) else none
  match of 0, of 1, of 2 with
  | some x, _, _ => some x
  | none, some b, some r => some (if p.lastRed then b else r)
  | none, some b, none => some b
  | none, none, r => r

/-- The retry buffer has room for a frame (R405). -/
def FPort.hasRoom (p : FPort) (f : Frame) : Bool :=
  decide ((p.retry.map frameSize).foldl (· + ·) 0 + frameSize f ≤ 0x80000)

/-- A frame goes out under a key slot: the slot's frame counter advances (R409). -/
def FPort.counted1 (p : FPort) (key : Bool) : FPort :=
  if key then { p with ctr1 := p.ctr1 + 1 } else { p with ctr0 := p.ctr0 + 1 }

/-- FLM_PORT_CTLn.KEYSEL and ENC. -/
def Dev.keySel (d : Dev) (n : Nat) : Bool := bit (d.reg (at1 Reg.FLM_PORT_CTLn 0x40 n)) 27
def Dev.portEnc (d : Dev) (n : Nat) : Bool := bit (d.reg (at1 Reg.FLM_PORT_CTLn 0x40 n)) 28

/-- Transmit a frame with the next LSEQ, keeping it until it is acknowledged (R405, R409). -/
def Dev.transmit (d : Dev) (n : Nat) (f : Frame) : Dev :=
  let p := d.port n
  let key := d.keySel n
  let f := { f with keyId := key, lseq := p.nextSeq, enc := d.portEnc n }
  let d := d.setPort n { p.counted1 key with
    nextSeq := (p.nextSeq + 1) % 4096
    retry := p.retry ++ [f]
    lastRed := if f.cls = 0 then p.lastRed else decide (f.cls = 2) }
  d.emit (.frame n f)

/-- Transmit waiting frames while the port is UP, their class has credit and the retry buffer has room (R408). -/
def Dev.drainPort (n : Nat) : (fuel : Nat) → Dev → Dev
  | 0, d => d
  | k + 1, d =>
    let p := d.port n
    match p.nextOut n d.routeEn with
    | none => d
    | some x =>
      if p.state = .up ∧ p.hasRoom x.1 then
        Dev.drainPort n k ((d.setPort n { p with waiting := p.waiting.erase x }).transmit n x.1)
      else d

/-- Send a frame on a port: it waits its turn (R408). -/
def Dev.sendOn (d : Dev) (n : Nat) (f : Frame) : Dev :=
  let p := d.port n
  let d := d.setPort n { p with waiting := p.waiting ++ [(f, d.cycle, false)] }
  Dev.drainPort n (p.waiting.length + 1) d

/-- The Race header word H0 (R207). -/
def headerH0 (vc kind ictx remote dst src : Nat) : Nat :=
  vc * 2 ^ 30 + kind * 2 ^ 27 + ictx * 2 ^ 23 + remote * 2 ^ 22 + dst * 2 ^ 11 + src

/-- The low word of a SIG packet's payload (R245): its operation and its counter, or the tag of a combining credit (log 61). -/
def sigWord (op phys : Nat) : Nat := op % 4 * 2 ^ 16 + phys % 2 ^ 14

/-- The Race kind that a frame kind carries, as the code of R207 (R402). -/
def frameRace (kind : Nat) : Nat :=
  if kind = 3 then 1 else if kind = 4 then 2 else if kind = 5 then 3 else if kind = 6 then 4 else if kind = 7 then 5 else 0

/-- What an ANSWER to a frame names (log 15): the hopper or ring of a HOP or RING frame, else bits 22:0 of H1. -/
def frameRef (f : Frame) : Nat := if f.kind = 4 ∨ f.kind = 5 then fld f.arg1 24 8 else fld f.arg1 0 23

/-- H1 of an ANSWER (log 15): the kind answered in bits 31:28, which is the Race kind, or from 8 up the kind of a
collective's frame; the status in bits 27:24 (R207); and what it answers in bits 22:0. The LAST of H3 is that of the RING packet
answered, and else 1. -/
def answerH1 (status kind ref : Nat) : Nat := kind % 16 * 2 ^ 28 + status % 16 * 2 ^ 24 + ref % 2 ^ 23

/-- The ANSWER to a frame (R403, R419): destination and source exchanged; for a frame of the collective engine, its FLOW,
ARG0 and ARG1 name it (log 15). -/
def answerFrame (own : Nat) (f : Frame) (status ref : Nat) : Frame :=
  let h0 := f.arg0.toNat
  if 8 ≤ f.kind then
    { cls := 0, kind := 3, ttl := 64, keyId := false, dfa := f.sfa, sfa := own, job := f.job, lseq := 0, flow := 0,
      arg0 := f.arg0, arg1 := BitVec.ofNat 32 (answerH1 status f.kind f.flow), arg2 := f.arg1, payload := [] }
  else
  { cls := 0, kind := 3, ttl := 64, keyId := false, dfa := f.sfa, sfa := own, job := f.job, lseq := 0, flow := 0,
    arg0 := BitVec.ofNat 32 (headerH0 0 1 (fldN h0 23 4) 1 (fldN h0 0 11) (fldN h0 11 11)),
    arg1 := BitVec.ofNat 32 (answerH1 status (frameRace f.kind) ref)
    arg2 := BitVec.ofNat 32 (if f.kind = 5 ∧ !bit f.arg2 22 then 0 else 2 ^ 22), payload := [] }

/-- The context under a replay from capture that a frame of this device belongs to (R393; log 53). -/
def Dev.soloOf (d : Dev) (f : Frame) : Option Nat :=
  (List.range 16).find? fun c =>
    let w := d.reg (at1 Reg.UPD_RPL_CTLc 0x100 c)
    decide (f.sfa = d.fa ∧ (d.coll c).job = f.job ∧ (d.coll c).ranks ≠ [] ∧ fld w 30 2 ≠ 0) && bit w 3

/-- Discard an outbound frame of a context that replays from capture (R393). -/
def Dev.dropSolo (d : Dev) (c : Nat) : Dev :=
  let r := at1 Reg.UPD_CAP_CTLc 0x100 c
  d.setFld r 16 15 (sat 0x7FFF (d.regFld r 16 15 + 1))

/-- Capture a Flume violation (R447): SOURCE of FLM_ERR_INFO. -/
def Dev.flmError (d : Dev) (f : Frame) (port ictx source status : Nat) : Dev :=
  d.capture Reg.FLM_ERR_ADDR_LO (f.dfa * 2 ^ 16 + f.sfa) port (ictx * 2 ^ 12 + source * 2 ^ 8 + status)

/-- A frame that cannot be routed is discarded, counted and recorded as event 0x7006 (R414, R446). -/
def Dev.unroutable (d : Dev) (port : Nat) (f : Frame) : Dev :=
  ((d.count Reg.FLM_DISCARD 1).flmError f port 0 0 sParam).event 0x7006 f.dfa f.sfa f.kind port

/-- Send a frame toward its destination without answering a failure: to this device itself it goes as frame of port
32. -/
def Dev.sendPlain (d : Dev) (f : Frame) : Dev :=
  match d.soloOf f with
  | some c => d.dropSolo c
  | none =>
  if !d.routeEn then d
  else if f.dfa = d.fa then d.emit (.frame 32 f)
  else match d.route f with
    | some n => d.sendOn n f
    | none => d.unroutable 32 f

/-- Answer a frame with a status; an ANSWER is never answered (R403). -/
def Dev.answerTo (d : Dev) (f : Frame) (status ref : Nat) : Dev :=
  if f.kind = 3 then d else d.sendPlain (answerFrame d.fa f status ref)

/-- Route and send a frame (R414). One that cannot be routed is discarded, answered with ERR_PARAM, counted and
recorded as event 0x7006. -/
def Dev.sendFrame (d : Dev) (port : Nat) (f : Frame) : Dev :=
  match d.soloOf f with
  | some c => d.dropSolo c
  | none =>
  if !d.routeEn then d
  else if f.dfa = d.fa then d.emit (.frame 32 f)
  else match d.route f with
    | some n => d.sendOn n f
    | none => (d.unroutable port f).answerTo f sParam (frameRef f)

end Sys2Proof.Machine
end

