-- ==== Sys2Proof/Machine/RaceOps.lean ====
section
/-!
DEFINITION. Packets of the Race: the tile map (R215), injection, answers (R206), and the violations of chapter 5.
-/
namespace Sys2Proof.Machine

/-- The physical mill that the tile map of a context gives a logical mill; none where it is unmapped (R215, R630). -/
def Dev.mapMill (d : Dev) (c lm : Nat) : Option Nat :=
  if 192 ≤ lm then none
  else
    let b := fld (d.reg (Reg.RACE_MAPc_w + 0x100 * c + 4 * (lm / 4))) (8 * (lm % 4)) 8
    if b < 216 then some b else none

/-- The physical tile of a logical tile under the tile map (R215). -/
def Dev.mapTile (d : Dev) (c lt : Nat) : Option Nat := (d.mapMill c (lt / 8)).map fun p => 8 * p + lt % 8

/-- Write one entry of a context's tile map. -/
def Dev.setMap (d : Dev) (c lm v : Nat) : Dev :=
  d.setFld (Reg.RACE_MAPc_w + 0x100 * c + 4 * (lm / 4)) (8 * (lm % 4)) 8 v

/-- The channel a packet kind travels on (R208). -/
def PktKind.vc : PktKind → Nat
  | .data => 1 | .pass => 1 | .part => 2 | _ => 0

/-- A packet between two tiles of this device, before injection. -/
def packet (kind : PktKind) (ictx src dst : Nat) : Packet :=
  { vc := kind.vc, kind := kind, ictx := ictx, remote := false, dst := dst, src := src, id := 0, offset := 0, tag := 0,
    chunk := 0, dfa := 0, sfa := 0, last := false, payload := [], at_ := src, leg := src, escape := false, ref := 0, answers := .data }

/-- Inject a packet at its source's router. -/
def Dev.inject (d : Dev) (p : Packet) : Dev := { d with race := d.race ++ [p] }

/-- The frame a packet to another device travels in (R402): logical tile numbers, and the job key of its context. -/
def Dev.packetFrame (d : Dev) (p : Packet) (flmKind : Nat) : Frame :=
  let h1 := match p.kind with
    | .part => p.tag * 2 ^ 20 + p.chunk
    | .answer => answerH1 p.id p.answers.code p.ref
    | _ => p.id * 2 ^ 24 + p.offset
  let h3 := p.payload.length * 2 ^ 23 + (if p.last then 2 ^ 22 else 0)
  { cls := frameClass flmKind, kind := flmKind, ttl := 64, keyId := false, dfa := p.dfa, sfa := d.fa,
    job := (d.coll p.ictx).job, lseq := 0, flow := 0,
    arg0 := BitVec.ofNat 32 (headerH0 p.vc p.kind.code p.ictx 1 p.dst p.src), arg1 := BitVec.ofNat 32 h1,
    arg2 := BitVec.ofNat 32 h3, payload := p.payload }

/-- Answer a packet on CTL (R206, R219, R227): to its source tile, or to the device it came from. -/
def Dev.answer (d : Dev) (p : Packet) (status : Nat) : Dev :=
  if p.remote then
    let f : Frame :=
      { cls := 0, kind := 3, ttl := 64, keyId := false, dfa := p.sfa, sfa := d.fa, job := (d.coll p.ictx).job,
        lseq := 0, flow := 0, arg0 := BitVec.ofNat 32 (headerH0 0 1 p.ictx 1 p.src ((d.logical p.dst).getD 0)),
        arg1 := BitVec.ofNat 32 (answerH1 status p.kind.code p.ref)
        arg2 := BitVec.ofNat 32 (if p.kind = .ring ∧ !p.last then 0 else 2 ^ 22), payload := [] }
    d.sendPlain f
  else
    d.inject { packet .answer p.ictx p.dst p.src with id := status, ref := p.ref, answers := p.kind, last := p.last }

/-- Capture a violation of the Race block (R229). -/
def Dev.raceError (d : Dev) (offset tile ictx source status : Nat) : Dev :=
  d.capture Reg.RACE_ERR_ADDR_LO offset tile (ictx * 2 ^ 12 + source * 2 ^ 8 + status)

/-- Remove the `n`-th packet from the Race. -/
def Dev.takePacket (d : Dev) (n : Nat) : Dev := { d with race := d.race.eraseIdx n }

/-- The `n`-th packet, where it has reached its destination and no earlier packet of the same source, destination and
channel is still on its way (R209). -/
def Dev.arrived (d : Dev) (n : Nat) : Option Packet :=
  match d.race[n]? with
  | some p =>
    if p.at_ = p.dst && (d.race.take n).all (fun q => !(q.src = p.src && q.dst = p.dst && q.vc = p.vc && q.remote = p.remote && q.sfa = p.sfa))
    then some p else none
  | none => none

end Sys2Proof.Machine
end

