-- ==== Sys2Proof/Machine/HostOps.lean ====
section
/-!
DEFINITION. Completions and reports (R475, R476), and the host block's violations.
-/
namespace Sys2Proof.Machine

/-- A register of a context's page (R493). -/
def hostReg (base c : Nat) : Nat := at1 base 0x1000 c

/-- Capture a violation of the host block: SOURCE of HST_ERR_INFO. -/
def Dev.hostError (d : Dev) (lo hi func ictx source status : Nat) : Dev :=
  d.capture Reg.HST_ERR_ADDR_LO lo (func * 2 ^ 16 + hi) (ictx * 2 ^ 12 + source * 2 ^ 8 + status)

/-- Entries of a ring (R472). -/
def ringSize (cfg : Word) : Nat := 2 ^ fld cfg 0 4

/-- The completion ring has room, is enabled and has not stopped (R476, R478). -/
def Dev.cplRoom (d : Dev) (c : Nat) : Bool :=
  let cfg := d.reg (hostReg Reg.HST_CPL_CFG c)
  let idx := d.reg (hostReg Reg.HST_CPL_IDX c)
  bit cfg 31 && !bit cfg 30 && decide ((fld idx 16 16 + 2 ^ 16 - fld idx 0 16) % 2 ^ 16 < ringSize cfg)

/-- Words 5 to 7, which no layout of R475 lists, are free (log 108). -/
def freeMiddle (ix : Nat) (ws : List Word) : List Word :=
  ws.take 5 ++ (List.range 3).map (fun k => Config.freeWord (ix + k)) ++ ws.drop 8

/-- Write one entry at TAIL with the ring's phase, advance TAIL, and raise the ring's vector (R476). -/
def Dev.cplPut (d : Dev) (c : Nat) (ws : List Word) : Dev :=
  let cfg := d.reg (hostReg Reg.HST_CPL_CFG c)
  let tail := d.regFld (hostReg Reg.HST_CPL_IDX c) 16 16
  let i := d.img c
  let w0 := putBit (wordAt ws 0) 4 i.phase
  let next := (tail + 1) % 2 ^ 16
  let d := d.emit (.completion c (tail % ringSize cfg) (freeMiddle d.freeIx (w0 :: ws.drop 1)))
  let d := ({ d with freeIx := d.freeIx + 3 } : Dev).setFld (hostReg Reg.HST_CPL_IDX c) 16 16 next
  let d := d.setImg c { i with phase := if next % ringSize cfg = 0 then !i.phase else i.phase }
  d.emit (.msix (d.owner c) (fld cfg 8 8))

/-- The write of an entry meets a PCIe error: the ring stops (R478). The entry waits for the ring's restart, since no later command
is fetched before its completion is written (R474; log 109). -/
def Dev.cplFault (d : Dev) (c : Nat) (ws : List Word) : Dev :=
  let tail := d.regFld (hostReg Reg.HST_CPL_IDX c) 16 16
  let d := d.setFld (hostReg Reg.HST_CPL_CFG c) 30 1 1
  let d := d.setImg c { d.img c with waiting := ws :: (d.img c).waiting }
  (d.hostError tail 0 (d.owner c) c 2 sFault).event 0x8008 c 2 tail sFault

/-- The write of one entry, as PCIe takes it (R476, R478). -/
def Dev.cplWrite (d : Dev) (c : Nat) (ws : List Word) : Dev :=
  match d.cplErr with
  | [] => d.cplPut c ws
  | true :: rest => ({ d with cplErr := rest } : Dev).cplFault c ws
  | false :: rest => ({ d with cplErr := rest } : Dev).cplPut c ws

/-- Post a completion or report: write it, let it wait, or lose it (R476). -/
def Dev.post (d : Dev) (c : Nat) (ws : List Word) : Dev :=
  let i := d.img c
  if d.cplRoom c && i.waiting.isEmpty then d.cplWrite c ws
  else if i.waiting.length < 16 then d.setImg c { i with waiting := i.waiting ++ [ws] }
  else
    (d.count Reg.HST_CPL_LOST 1).event 0x8007 c (fld (wordAt ws 0) 8 8) (fld (wordAt ws 0) 16 16) 0

/-- Write waiting completions while there is room (R476). -/
def Dev.drainCpl (c : Nat) : (fuel : Nat) → Dev → Dev
  | 0, d => d
  | n + 1, d =>
    match (d.img c).waiting with
    | [] => d
    | ws :: rest =>
      if d.cplRoom c then Dev.drainCpl c n ((d.setImg c { d.img c with waiting := rest }).cplWrite c ws) else d

/-- The sixteen words of a completion (R475). -/
def cplWords (tag op status : Nat) (w1 w2 w3 w4 : Nat) (tail : List Word) : List Word :=
  [BitVec.ofNat 32 (tag * 2 ^ 16 + op * 2 ^ 8 + status), BitVec.ofNat 32 w1, BitVec.ofNat 32 w2, BitVec.ofNat 32 w3,
   BitVec.ofNat 32 w4, 0, 0, 0] ++ (tail ++ List.replicate 8 0).take 8

/-- The low 32 bits of a context's step number (UPD_STEPc). -/
def Dev.stepLow (d : Dev) (c : Nat) : Nat := (d.reg (at1 Reg.UPD_STEPc_LO 0x100 c)).toNat

/-- The whole step number of a context. -/
def Dev.stepNum (d : Dev) (c : Nat) : Nat :=
  (d.reg (at1 Reg.UPD_STEPc_LO 0x100 c)).toNat + (d.reg (at1 Reg.UPD_STEPc_HI 0x100 c)).toNat * 2 ^ 32

/-- Complete the ring command in progress with a status and words 1 to 4 (R474, R475). -/
def Dev.completeWith (d : Dev) (c status w1 w2 w3 w4 : Nat) : Dev :=
  let i := d.img c
  match i.cmd with
  | none => d
  | some ws =>
    let w0 := wordAt ws 0
    let d := d.setImg c { i with cmd := none, wait := .none, busy := false }
    d.post c (cplWords (fld w0 16 16) (fld w0 0 8) status w1 w2 w3 w4 [])

/-- Complete the ring command in progress with a status: a LOAD that has allocated nothing, or a command whose completion
carries the step number (R475). -/
def Dev.complete (d : Dev) (c status : Nat) : Dev :=
  match (d.img c).cmd with
  | none => d
  | some ws => d.completeWith c status 0 (if fld (wordAt ws 0) 0 8 = 1 then 0 else d.stepLow c) 0 0

end Sys2Proof.Machine
end

