-- ==== Sys2Proof/Machine/Stop.lean ====
section
/-!
DEFINITION. Closing queues (R267), breaking shared objects (R252), stopping an image context (R226, R477, R485), fences
(R525 to R528), and halting a tile (R63).
-/
namespace Sys2Proof.Machine

/-! ### Queues of a tile (R267) -/

/-- Capture a violation of the sync and hopper block (R271): item, counter, tile, context, SOURCE, status. -/
def Dev.syncError (d : Dev) (item phys tile ictx source status : Nat) : Dev :=
  d.capture Reg.SYNC_ERR_ADDR_LO (item % 4096 * 2 ^ 16 + phys) tile (ictx * 2 ^ 12 + source * 2 ^ 8 + status)

/-- A hopper enters CLOSED (R267): its entries are discarded and counted, or kept under HALTED. -/
def Dev.closeHopper (d : Dev) (t : Nat) (h : Fin 8) (cause : Nat) (keep : Bool) : Dev :=
  let tl := d.tile t
  let q := tl.hop[h]
  if q.closed then d
  else
    let n := q.entries.length
    let q' : Hopper := { entries := if keep then q.entries else [], closed := true }
    let d := d.setTile t { tl with hop := tl.hop.set h q' }
    let d := if keep then d else d.count Reg.HOP_DISCARD n
    d.event 0x4004 t h.val n cause

/-- A ring of the tile's ring table enters CLOSED (R267). -/
def Dev.closeRing (d : Dev) (t r : Nat) (cause : Nat) (keep : Bool) : Dev :=
  let tl := d.tile t
  match Tab.find tl.rings r with
  | none => d
  | some q =>
    if q.closed then d
    else
      let n := (q.records.filter (·.2)).length
      let q' : Ring := { q with closed := true, records := if keep then q.records else [] }
      let d := d.setTile t { tl with rings := Tab.put tl.rings r q' }
      let d := if keep then d else d.count Reg.HOP_DISCARD n
      d.event 0x4004 t (r + 8) n cause

/-- Every hopper and ring of a tile enters CLOSED (R267). -/
def Dev.closeQueues (d : Dev) (t cause : Nat) (keep : Bool) : Dev :=
  let d := (List.finRange 8).foldl (fun d h => d.closeHopper t h cause keep) d
  (List.range 4).foldl (fun d r => d.closeRing t r cause keep) d

/-! ### Waiters and shared objects -/

/-- The tile with the wait of a waiter marked as fired with a status. A wait that S made before its trap handler is
marked for `sys.tret` (R62). -/
def Tile.fired (tl : Tile) (w : Waiter) (status : Nat) : Tile :=
  let mark := fun (x : Option Wait) => x.map fun v => if v.id = w.id then { v with fired := some status } else v
  let c : Fin 4 := Fin.ofNat 4 w.ctx
  let cx := tl.ctx[c]
  { tl with
    ctx := tl.ctx.set c { cx with wait := mark cx.wait }
    pre := if w.ctx = 0 then mark tl.pre else tl.pre }

/-- Change a tile that a pre-empted context has saved. -/
def Saved.mapTile (v : Saved) (lt : Nat) (f : Tile → Tile) : Saved :=
  { v with mills := v.mills.modify (lt / 8) fun m => { m with tiles := m.tiles.modify (lt % 8) f } }

/-- Fire a waiter with a status; the release reaches it by WAIT_RELEASE (R235). The wait of a pre-empted context is
marked in what it has saved (R254). -/
def Dev.fireWaiter (d : Dev) (w : Waiter) (status : Nat) : Dev :=
  match w.away with
  | some (c, lt) =>
    let i := d.img c
    d.setImg c { i with saved := i.saved.map fun v => v.mapTile lt fun tl => tl.fired w status }
  | none => d.setTile w.tile ((d.tile w.tile).fired w status)

/-- A shared object enters BROKEN (R252): every waiter, of a held arrival too, is released with ERR_BROKEN, counts and held events go,
event 0x4002. -/
def Dev.breakObj (d : Dev) (phys : Nat) : Dev :=
  let o := d.obj phys
  if o.state = .free ∨ !o.shared then d
  else
    let d := o.waiting.foldl (fun d w => d.fireWaiter w sBroken) d
    let o' : SyncObj := { o with
      state := .broken, sig := 0, arr := 0, ann := 0, crd := 0, waiters := [], held := [], heldDue := false, ready := [],
      reported := false }
    (d.setObj phys o').event 0x4002 phys o.ictx o.waiting.length o.phase

/-- The counters a context owns. -/
def Dev.owned (d : Dev) (c : Nat) : List Nat :=
  (d.objs.filter fun e => decide (e.2.state ≠ .free ∧ e.2.ictx = c)).map (·.1)

/-- Every shared object a context owns enters BROKEN (R252). -/
def Dev.breakShared (d : Dev) (c : Nat) : Dev := (d.owned c).foldl Dev.breakObj d

/-! ### Binding and unbinding mills -/

/-- The physical tiles of a context, in order of logical mill. -/
def Dev.tilesOf (d : Dev) (c : Nat) : List Nat :=
  (d.img c).mills.flatMap fun p => if p < 216 then (List.range 8).map (p * 8 + ·) else []

/-- A tile whose mill is unbound: as after reset, but its queues stay CLOSED until a loader starts a context on it (R267). -/
def Tile.unbound (tl : Tile) : Tile := { Tile.reset with hop := tl.hop, rings := tl.rings }

/-- A mill loses its binding (R267, R100): its queues close with cause 3 and its cores, engines and sequencers are as
after reset. Memory, counters and error registers are kept. -/
def Dev.resetMill (d : Dev) (p : Nat) : Dev :=
  let d := (List.range 8).foldl (fun d k =>
    let t := p * 8 + k
    let d := d.closeQueues t 3 false
    (d.setTile t (d.tile t).unbound).setSeq t XSeq.reset) d
  let d := (List.range 32).foldl (fun d q => d.setQueue (p * 32 + q) (d.queue (p * 32 + q)).fresh) d
  { d.setMill p Mill.reset with ecc := { d.ecc with slotUe := d.ecc.slotUe.filter fun e => decide (e.1 ≠ p) } }

/-- The base die of a physical mill (R28, R30). -/
def baseDie (p : Nat) : Nat := p / 27

/-- After an unbinding: the mill is power-gated, or off where it is fenced (R542), and a base die that has lost its last
bound mill begins the 10 ms of R541. -/
def Dev.unbound (d : Dev) (p : Nat) : Dev :=
  let d := d.setClk p { MillClk.reset with gate := if d.isFenced p then .g3 else .g2 }
  let b := baseDie p
  if (List.range 27).any (fun k => (d.binding (b * 27 + k)).isSome) then d
  else { d with gov := { d.gov with pllIdle := (d.gov.pllIdle.filter fun e => decide (e.1 ≠ b)) ++ [(b, d.cycle)] } }

/-- A pending fence takes effect (R527): the mill is unbound and fenced, and its die's spare, if it names another mill,
becomes enabled. Its clock is off (R542). -/
def Dev.fenceNow (d : Dev) (f : PendingFence) : Dev :=
  let p := f.mill
  let b := d.binding p
  let die := p / 9
  let spare := d.spareField die
  let promoted := if spare < 9 ∧ spare ≠ p % 9 then die * 9 + spare else 0xFF
  let d : Dev := { d with ecc := { d.ecc with
    pending := d.ecc.pending.filter fun g => decide (g.mill ≠ p)
    fenced := d.ecc.fenced ++ [p]
    norFenced := if d.ecc.norFenced.contains p then d.ecc.norFenced else d.ecc.norFenced ++ [p]
    lastFence := p
    spareUsed := if d.ecc.spareUsed.contains die then d.ecc.spareUsed else d.ecc.spareUsed ++ [die] } }
  let d := match b with
    | none => d.setClk p { d.clk p with gate := .g3 }
    | some (c, l) =>
      let i := d.img c
      let d := d.resetMill p
      let d := (d.setImg c { i with mills := i.mills.set l 0xFF, lost := i.lost ++ [p] }).setMap c l 0xFF
      d.unbound p
  d.event 0xB008 p promoted d.enabledMills (match b with
    | some (c, _) => c
    | none => 0xF)

/-- Pending fences of mills bound to a context, in ascending mill order (R528). -/
def Dev.pendingOf (d : Dev) (c : Nat) : List PendingFence :=
  ((d.ecc.pending.filter fun f => decide ((d.binding f.mill).map (·.1) = some c))).mergeSort fun a b => a.mill ≤ b.mill

/-! ### Stopping a context -/

/-- An operation that the engine forgets: it neither waits nor runs any more (R226, R360). -/
def CxOp.dropped (o : CxOp) : CxOp :=
  if o.stage = .running ∨ o.stage = .waiting then { o with stage := .failed, pend := [] } else o

/-- The step of a context ends without a commit (R349, R359): the engine forgets its operations, and CULL_DIRTY is set
where an RSX operation with a single cullet store has begun to write it. -/
def Dev.dropOps (d : Dev) (c : Nat) : Dev :=
  let dirty := (d.coll c).ops.any fun o => o.cout && decide (fld (wordAt o.w 0) 28 4 = 3) && !bit (wordAt o.w 0) 26
  let k := d.coll c
  let d := { d.setColl c { k with ops := k.ops.map CxOp.dropped } with
    cxRun := d.cxRun.filter fun e => decide (e.1 ≠ c)
    cxWait := d.cxWait.filter fun e => decide (e.1 ≠ c) }
  if dirty then d.setReg (at1 Reg.FLM_CX_CTLc 4 c) (putBit (d.reg (at1 Reg.FLM_CX_CTLc 4 c)) 0 true) else d

/-- Join two stops that wait for one boundary: the cause is the first's. -/
def StopDue.join (x : Option StopDue) (y : StopDue) : StopDue :=
  match x with
  | none => y
  | some x => { cause := x.cause, force := x.force || y.force, unload := x.unload.or y.unload }

/-- A stop requested while a commit runs waits for the boundary after it; the context reports an operation in progress (R367,
R481). -/
def Dev.stopLater (d : Dev) (c : Nat) (x : StopDue) : Dev :=
  let i := d.img c
  d.setImg c { i with busy := true, due := some (StopDue.join i.due x) }

/-- Whether LDR_FORCE's BUSY ends with the stop that was due: a forced UNLOAD goes on. -/
def StopDue.endsForce (x : StopDue) : Bool := x.force && decide (x.unload ≠ some 1)

/-- A context enters STOPPED (R485, R477): shared objects break, queues close, RWL fields unlock, pending fences of its
mills take effect (R526), the STOPPED report is posted and event 0x8003 recorded. `now` is a stop with the effects of
R226, after which sequencers stand still and tile ports discard. Of a pre-empted context, what the save holds stays (log 203). A stop that waited for a commit is met by any, and the unloading
that was to follow it begins (R367, R492). -/
def Dev.stopContext (d : Dev) (c cause failTile status : Nat) (now : Bool) : Dev :=
  let i := d.img c
  if i.state = .empty ∨ i.state = .stopped then d
  else
    let d := (d.breakShared c).dropOps c
    let d := (d.tilesOf c).foldl (fun d t => d.closeQueues t 4 false) d
    let i := d.img c
    let d := d.setImg c { i with
      state := .stopped, cause := cause, locked := false, halted := now, failTile := failTile
      due := none
      busy := match i.due with
        | some x => x.unload.isSome
        | none => i.busy
      wait := match i.due.bind (·.unload) with
        | some how => .zeroing how
        | none => if i.wait = .stopAtBoundary ∨ i.wait = .preemptAtBoundary then .none else i.wait }
    let d := if (i.due.map StopDue.endsForce).getD false then d.setFld Reg.LDR_FORCE 31 1 0 else d
    let d := if now then
        (d.tilesOf c).foldl (fun d t => d.setMill (t / 8) { d.mill (t / 8) with queue := [] }) d
      else d
    let d := d.post c (cplWords 0xFFFF 0xF0 status cause (d.stepLow c) failTile status [])
    let d := d.event 0x8003 c cause (d.stepLow c) failTile
    (d.pendingOf c).foldl Dev.fenceNow d

/-- A stop by the device (R477): a STOP waiting for the boundary completes with OK, a PREEMPT with ERR_PERM (R527;
log 18). -/
def Dev.deviceStop (d : Dev) (c cause failTile status : Nat) : Dev :=
  let w := (d.img c).wait
  if (d.img c).state ≠ .running then d
  else
    let d := d.stopContext c cause failTile status true
    match w with
    | .stopAtBoundary => d.complete c sOk
    | .preemptAtBoundary | .quiesce | .saving => d.complete c sPerm
    | _ => d

/-- An exchange error (R226): event 0x3006, and the context stops. -/
def Dev.exchangeError (d : Dev) (c tile status entry : Nat) : Dev :=
  if (d.img c).state ≠ .running ∨ (d.img c).halted then d
  else (d.event 0x3006 c tile status entry).deviceStop c 0x05 tile status

/-- A free 32-bit value as a number, and the draw of its number. -/
def Dev.freeWord (d : Dev) : Nat × Dev := ((Config.freeWord d.freeIx).toNat, d.draw)

/-- Event 0x1001: its parameters are given nowhere, so they are free (log 16). -/
def Dev.haltEvent (d : Dev) (t : Nat) : Dev :=
  let (a, d) := d.freeWord
  let (b, d) := d.freeWord
  let (c, d) := d.freeWord
  let (e, d) := d.freeWord
  d.eventSrc 0x1001 t a b c e

/-- The tile enters HALTED (R63): all four contexts report it, its queues close with their contents kept, event 0x1001
is recorded, and the image context that holds the tile stops with CAUSE 0x03. -/
def Dev.haltTile (d : Dev) (t : Nat) : Dev :=
  let tl := d.tile t
  let d := d.setTile t { tl with ctx := tl.ctx.map fun c => { c with run := .halted } }
  let d := (d.haltEvent t).closeQueues t 2 true
  match d.tileCtx t with
  | some c => d.deviceStop c 0x03 t sOk
  | none => d

/-! ### Fences that are due (R526 to R528) -/

/-- A pending fence takes effect where its mill is bound to no running context; a LOADED context then stops with it (R526,
R527). -/
def Dev.settleFence (d : Dev) (p : Nat) : Dev :=
  match d.ecc.pending.find? fun f => decide (f.mill = p) with
  | none => d
  | some f =>
    match d.binding p with
    | none => d.fenceNow f
    | some (c, _) =>
      match (d.img c).state with
      | .running => d
      | .loaded => d.stopContext c 0x0C 0xFFFF sOk true
      | .empty | .stopped | .preempted => d.fenceNow f

/-- Pending fences that are due, in ascending physical mill order (R528). -/
def Dev.settleFences (d : Dev) : Dev :=
  ((d.ecc.pending.map (·.mill)).mergeSort fun a b => decide (a ≤ b)).foldl Dev.settleFence d

/-- `f`, after which a fence that it has requested takes effect at once where it can (R526). -/
def Dev.settling (f : Dev → Dev) (d : Dev) : Dev :=
  let d' := f d
  if d'.ecc.pending = d.ecc.pending then d' else d'.settleFences

end Sys2Proof.Machine
end

