-- ==== Sys2Proof/Machine/Operands.lean ====
section
/-!
DEFINITION. Instruction words: fields and forms (R87), the opcode map (R93, R94), which slots and operands an
instruction may have (R86, R89), and the registers a bundle reads and writes (R58, R59, R88).
-/
namespace Sys2Proof.Machine

/-! ### Fields (R87) -/

def opc (w : Word) : Nat := fld w 26 6
def predOf (w : Word) : Nat := fld w 23 3
/-- The field at bits 22:18: rd or rt of the R, I and M forms, ra of the D form. -/
def f1 (w : Word) : Nat := fld w 18 5
/-- The field at bits 17:13: ra of the R, I and M forms, rb of the D form. -/
def f2 (w : Word) : Nat := fld w 13 5
/-- The field at bits 12:8: rb of the R form, rc of the D form. -/
def f3 (w : Word) : Nat := fld w 8 5
def hopA (w : Word) : Bool := bit w 7
def hopB (w : Word) : Bool := bit w 6
def imm13 (w : Word) : Int := signed (fld w 0 13) 13
def off23 (w : Word) : Int := signed (fld w 0 23) 23
/-- FN and MOD of the D form. -/
def fnD (w : Word) : Nat := fld w 4 4
def modD (w : Word) : Nat := fld w 0 4

/-! ### The opcode map -/

/-- The classes of R93. -/
inductive OpClass where
  | scalarR | scalarI | br | call | jr | mem | vec | vld | vst | cvt | sfu | sync | hop | mill | slc | eng | sys
  deriving DecidableEq, Repr

/-- The class of an OPC value; none is reserved (R93). -/
def opClass (o : Nat) : Option OpClass :=
  if o < 0x08 then some .scalarR
  else if o < 0x10 then some .scalarI
  else if o = 0x10 then some .br
  else if o = 0x11 then some .call
  else if o = 0x12 then some .jr
  else if 0x14 ≤ o ∧ o < 0x18 then some .mem
  else if 0x18 ≤ o ∧ o < 0x20 then some .vec
  else if o = 0x20 then some .vld
  else if o = 0x21 then some .vst
  else if o = 0x24 then some .cvt
  else if o = 0x25 then some .sfu
  else if o = 0x28 then some .sync
  else if o = 0x29 then some .hop
  else if o = 0x2A then some .mill
  else if o = 0x2B then some .slc
  else if o = 0x2C then some .eng
  else if o = 0x2D then some .sys
  else none

/-- The class of an instruction; none for `nop`, whose word is 0 (R86). -/
def clsOf : TileOp → Option OpClass
  | .nop => none
  | .alu _ => some .scalarR
  | .aluImm _ => some .scalarI
  | .cmp _ => some .scalarI
  | .br => some .br
  | .call => some .call
  | .jr => some .jr
  | .load _ => some .mem
  | .store _ => some .mem
  | .vld => some .vld
  | .vst => some .vst
  | .varith _ _ => some .vec
  | .vcmp _ _ => some .vec
  | .vmove _ => some .vec
  | .vbcast => some .vec
  | .vred => some .vec
  | .sfu _ => some .sfu
  | .syncSig => some .sync
  | .syncWait => some .sync
  | .syncPoll => some .sync
  | .syncArm => some .sync
  | .hopSend => some .hop
  | .hopStat => some .hop
  | .hopRsend => some .hop
  | .hopRfree => some .hop
  | .hopClose => some .hop
  | .millMma => some .mill
  | .millDrain => some .mill
  | .millSmode => some .mill
  | .millQstat => some .mill
  | .millFence => some .mill
  | .slcIssue => some .slc
  | .slcStat => some .slc
  | .slcWait => some .slc
  | .slcLim => some .slc
  | .memFill => some .eng
  | .memCopy => some .eng
  | .cvtSt => some .cvt
  | .cvtLd => some .cvt
  | .cvtBf => some .cvt
  | .cvtF32 => some .cvt
  | .sysCsrr => some .sys
  | .sysCsrw => some .sys
  | .sysStart => some .sys
  | .sysResume => some .sys
  | .sysStop => some .sys
  | .sysTret => some .sys
  | .sysExit => some .sys
  | .sysHalt => some .sys
  | .sysBrk => some .sys

/-- The D-form instructions of a class, in the order of their FN values (R94). -/
def dForms : OpClass → Option (List TileOp)
  | .cvt => some [.cvtSt, .cvtLd, .cvtBf, .cvtF32]
  | .sync => some [.syncSig, .syncWait, .syncPoll, .syncArm]
  | .hop => some [.hopSend, .hopStat, .hopRsend, .hopRfree, .hopClose]
  | .mill => some [.millMma, .millDrain, .millSmode, .millQstat, .millFence]
  | .slc => some [.slcIssue, .slcStat, .slcWait, .slcLim]
  | .eng => some [.memFill, .memCopy]
  | .sys => some [.sysCsrr, .sysCsrw, .sysStart, .sysResume, .sysStop, .sysTret, .sysExit, .sysHalt, .sysBrk]
  | _ => none

/-- How a word relates to the instruction a command names: it spells it, it is a reserved encoding, or it spells
another instruction, in which case the command cannot occur. -/
inductive Spelling where
  | yes | reserved | other
  deriving DecidableEq, Repr

/-- Whether a word spells an instruction (R86, R93, R94). The manual gives no FN values within the R-form classes and no
finer OPC values within a class, so every word of the class spells each of its instructions (log 10). -/
def spells (op : TileOp) (w : Word) : Spelling :=
  if w = 0 then (if op = .nop then .yes else .other)
  else match opClass (opc w) with
    | none => .reserved
    | some c => match dForms c with
      | some ops => match ops[fnD w]? with
        | none => .reserved
        | some o => if o = op then .yes else .other
      | none => if clsOf op = some c then .yes else .other

/-- The slot an instruction stands in: slot A for scalar integer, branch, `sync` and `sys`; slot B for the rest; `nop`
in either (R86). -/
def slotOk (op : TileOp) (inB : Bool) : Bool :=
  match clsOf op with
  | none => true
  | some .scalarR | some .scalarI | some .br | some .call | some .jr | some .sync | some .sys => !inB
  | _ => inB

/-- MOD values of the D form (R94, R95): a MOD the manual does not state must be 0 (log 10). -/
def modOk (op : TileOp) (w : Word) : Bool :=
  match op with
  | .cvtSt | .cvtBf | .sysResume => decide (modD w ≤ 1)
  | .millMma | .millDrain | .millSmode => true
  | .hopClose => decide (modD w < 12)
  | _ => match clsOf op with
    | some c => (dForms c).isNone || decide (modD w = 0)
    | none => true

/-- R-form fields that name a scalar source operand: ra, rb (R89). -/
def scalarSrc (op : TileOp) : Bool × Bool :=
  match op with
  | .alu _ => (true, true)
  | .jr => (true, false)
  | .vbcast => (true, false)
  | .vmove .ext => (false, true)
  | .vmove .ins => (true, true)
  | _ => (false, false)

/-- The instruction is in R form. -/
def isRForm (op : TileOp) : Bool :=
  match clsOf op with
  | some .scalarR | some .jr | some .vec | some .sfu => true
  | _ => false

/-- HA and HB stand only on scalar sources, and a hopper field is at most 7 (R89). -/
def hopOk (op : TileOp) (w : Word) : Bool :=
  if isRForm op then
    let (sa, sb) := scalarSrc op
    (!hopA w || (sa && decide (f2 w < 8))) && (!hopB w || (sb && decide (f3 w < 8)))
  else true

/-- A destination register: scalar, vector or predicate. -/
inductive Dest where
  | s (n : Nat) | v (n : Nat) | p (n : Nat)
  deriving DecidableEq, Repr

/-- Registers in a block of `cvt.st` and `cvt.ld` (R96), from TILE_CVT_CFG.BLK. -/
def groupSize (cfg : Word) : Nat := 2 ^ fld cfg 4 2

/-- The registers an instruction writes. Writes to s0 and p0 are discarded and write none (R58). -/
def dests (op : TileOp) (w cvtCfg : Word) : List Dest :=
  let s := fun n => if n = 0 then [] else [Dest.s n]
  let p := fun n => if n = 0 then [] else [Dest.p n]
  match op with
  | .alu _ | .aluImm _ | .load _ | .vmove .ext => s (f1 w)
  | .cmp _ | .vcmp _ _ => p (f1 w)
  | .call => s 31
  | .vld | .varith _ _ | .vmove .mov | .vmove .ins | .vbcast | .vred | .sfu _ => [Dest.v (f1 w)]
  | .syncWait | .syncPoll | .syncArm | .hopStat | .millQstat | .millFence | .slcIssue | .slcStat | .slcWait | .slcLim
  | .sysCsrr | .sysStart => s (f3 w)
  | .cvtLd => (List.range (groupSize cvtCfg)).map fun n => Dest.v (f1 w + n)
  | .cvtBf => [Dest.v (f1 w)]
  | .cvtF32 => [Dest.v (f1 w), Dest.v (f1 w + 1)]
  | _ => []

/-- The groups of `cvt.st` and `cvt.ld` are aligned to their size (R96), a pair of registers begins at v30 at most (DESIGN CHOICE,
log 192), and a predicate destination is p0 to p7. -/
def groupOk (op : TileOp) (w cvtCfg : Word) : Bool :=
  match op with
  | .cvtSt | .cvtLd => decide (f1 w % groupSize cvtCfg = 0)
  | .cvtBf => decide (f2 w < 31)
  | .cvtF32 => decide (f1 w < 31)
  | .cmp _ | .vcmp _ _ => decide (f1 w < 8)
  | _ => true

/-- Predication is by bit 0 of pN as a whole (R59); the others are predicated lane by lane. R59 does not name `sfu.*`: it is
predicated lane by lane (DESIGN CHOICE, log 193). -/
def wholePred (op : TileOp) : Bool :=
  match op with
  | .varith _ _ | .vcmp _ _ | .vmove .mov | .vmove .ins | .vbcast | .sfu _ | .cvtBf | .cvtF32 => false
  | _ => true

/-! ### Registers of a context (R58) -/

/-- A scalar register: s0 reads 0. -/
def Ctx.sreg (c : Ctx) (n : Nat) : Word := if n = 0 then 0 else c.s[Fin.ofNat 32 n]

/-- Write a scalar register: writes to s0 are discarded. -/
def Ctx.setS (c : Ctx) (n : Nat) (v : Word) : Ctx := if n = 0 then c else { c with s := c.s.set (Fin.ofNat 32 n) v }

/-- A predicate: p0 reads all ones. -/
def Ctx.preg (c : Ctx) (n : Nat) : DWord := if n = 0 then BitVec.allOnes 64 else c.p[Fin.ofNat 8 n]

/-- Write a predicate: writes to p0 are discarded. -/
def Ctx.setP (c : Ctx) (n : Nat) (v : DWord) : Ctx := if n = 0 then c else { c with p := c.p.set (Fin.ofNat 8 n) v }

def Ctx.vreg (c : Ctx) (n : Nat) : VReg := c.v[Fin.ofNat 32 n]
def Ctx.setV (c : Ctx) (n : Nat) (v : VReg) : Ctx := { c with v := c.v.set (Fin.ofNat 32 n) v }

/-- The context of a tile. -/
def Dev.ctx (d : Dev) (t : Nat) (k : HCtx) : Ctx := (d.tile t).ctx[k]

/-- Store a context of a tile. -/
def Dev.setCtx (d : Dev) (t : Nat) (k : HCtx) (c : Ctx) : Dev :=
  let tl := d.tile t
  d.setTile t { tl with ctx := tl.ctx.set k c }

/-- Write a scalar register of a context. -/
def Dev.putS (d : Dev) (t : Nat) (k : HCtx) (n : Nat) (v : Word) : Dev := d.setCtx t k ((d.ctx t k).setS n v)

/-! ### Hopper operands (R89 to R91) -/

/-- Consume one half of a hopper's oldest entry (R90): the 32 bits, the hopper after it, and the entry freed. -/
def takeHalf (h : Hopper) : Option (Word × Hopper × Option HopEntry) :=
  match h.entries with
  | [] => none
  | e :: rest =>
    if e.half then some (e.data.extractLsb' 32 32, { h with entries := rest }, some e)
    else some (e.data.extractLsb' 0 32, { h with entries := { e with half := true } :: rest }, none)

/-- The hoppers an instruction consumes from, in order: ra, then rb (R90). -/
def hopReads (op : TileOp) (w : Word) : List Nat :=
  if isRForm op then
    let (sa, sb) := scalarSrc op
    (if sa && hopA w then [f2 w] else []) ++ (if sb && hopB w then [f3 w] else [])
  else []

/-- What consuming from a list of hoppers gives: the values in order, the hoppers, the entries freed with their hopper,
and the first hopper found empty. -/
structure HopTake where
  vals : List Word
  hop : Vector Hopper 8
  freed : List (Nat × HopEntry)
  empty : Option Nat

/-- Consume from hoppers in order. -/
def takeHops (hop : Vector Hopper 8) : List Nat → HopTake
  | [] => { vals := [], hop := hop, freed := [], empty := none }
  | n :: ns =>
    let i : Fin 8 := Fin.ofNat 8 n
    match takeHalf hop[i] with
    | none => { vals := [], hop := hop, freed := [], empty := some n }
    | some (v, h, e) =>
      let r := takeHops (hop.set i h) ns
      { r with vals := v :: r.vals, freed := (e.map fun e => (n, e)).toList ++ r.freed }

/-- The values of ra and rb of an R-form instruction: registers, or what its hoppers gave. -/
def rOperands (c : Ctx) (op : TileOp) (w : Word) (hv : List Word) : Word × Word :=
  let (sa, sb) := scalarSrc op
  let useA := sa && hopA w
  let a := if useA then hv.getD 0 0 else c.sreg (f2 w)
  let b := if sb && hopB w then hv.getD (if useA then 1 else 0) 0 else c.sreg (f3 w)
  (a, b)

end Sys2Proof.Machine
end

