-- ==== Sys2Proof/Machine/Flags.lean ====
section
/-!
DEFINITION. Compare conditions, lanes and lane masks (R58, R59, R81), and the lane arithmetic of the TVU and the SFU
(R82 to R85). The sets of operations and conditions are presumed (log 10).
-/
namespace Sys2Proof.Machine

/-- Whether a scalar compare holds (log 10). -/
def cmpHolds (c : CmpCond) (a b : Word) : Bool :=
  match c with
  | .eq => a = b
  | .ne => a ≠ b
  | .lt => decide (a.toInt < b.toInt)
  | .ge => decide (b.toInt ≤ a.toInt)
  | .ltu => decide (a.toNat < b.toNat)
  | .geu => decide (b.toNat ≤ a.toNat)

/-! ### Lanes -/

/-- The lanes of `w` bits of a vector register, lane 0 lowest (R58). -/
def lanesOf (w : Nat) (v : VReg) : List Nat := (List.range (512 / w)).map fun i => fldN v.toNat (w * i) w

/-- The vector register holding lanes of `w` bits. -/
def ofLanes (w : Nat) (ls : List Nat) : VReg := BitVec.ofNat 512 (ls.foldr (fun l acc => l % 2 ^ w + acc * 2 ^ w) 0)

/-- The lanes of `new` where the mask is 1, else those of `old` (R59). -/
def mergeLanes (w : Nat) (mask : DWord) (old new : VReg) : VReg :=
  ofLanes w (((lanesOf w old).zip (lanesOf w new)).zipIdx.map fun x => if mask.toNat.testBit x.2 then x.1.2 else x.1.1)

/-- A lane mask of `n` lanes written under predication: the enabled bits of `new`, the others of `old`, and 0 from bit
`n` up (R59). -/
def mergeMask (n : Nat) (mask old new : DWord) : DWord :=
  BitVec.ofNat 64 ((List.range n).foldl (fun acc i =>
    if (if mask.toNat.testBit i then new else old).toNat.testBit i then acc + 2 ^ i else acc) 0)

/-- The narrow format of a lane format; none for INT8, whose lanes are not narrowed (R83). -/
def laneFmt : LaneFmt → Option Fmt
  | .f32 => some .fp32
  | .bf16 => some .bf16
  | .f16 => some .fp16
  | .e4m3 => some .e4m3
  | .e5m2 => some .e5m2
  | .i8 => none

/-- The width of a lane (R81). -/
def laneWidth : LaneFmt → Nat
  | .f32 => 32
  | .bf16 => 16
  | .f16 => 16
  | .e4m3 => 8
  | .e5m2 => 8
  | .i8 => 8

/-- The lesser of two values; a NaN gives a NaN, and -0 is less than +0 (log 10). -/
def FVal.lesser (a b : FVal) : FVal :=
  match a, b with
  | .nan, _ => .nan
  | _, .nan => .nan
  | .fin s 0 e, .fin t 0 _ => .fin (s || t) 0 e
  | x, y => if x.lt y then x else y

/-- The greater of two values. -/
def FVal.greater (a b : FVal) : FVal := (FVal.lesser a.neg b.neg).neg

/-- A lane operation in exact values; the multiply-add is rounded to FP32 first where `viaF32` (R83). `c` is the old
lane of the destination. -/
def laneVal (f : LaneOp) (viaF32 : Bool) (a b c : FVal) : FVal :=
  match f with
  | .add => a.add b
  | .sub => a.add b.neg
  | .mul => a.mul b
  | .fma => let x := (a.mul b).add c; if viaF32 then f32 (toF32 x) else x
  | .min => a.lesser b
  | .max => a.greater b

/-- A lane operation in INT8, saturating to -128 and 127 (R83). -/
def laneInt (f : LaneOp) (a b c : Int) : Int :=
  let x := match f with
    | .add => a + b
    | .sub => a - b
    | .mul => a * b
    | .fma => a * b + c
    | .min => min a b
    | .max => max a b
  max (-128) (min 127 x)

/-- One lane of vector arithmetic: the result's code and what its narrowing counts (R82, R83). -/
def laneArith (f : LaneOp) (fmt : LaneFmt) (a b c : Nat) : Conv :=
  match laneFmt fmt with
  | none =>
    { code := (laneInt f (signed a 8) (signed b 8) (signed c 8) % 256).toNat, sat := false, ftz := false, nan := false }
  | some .fp32 =>
    { code := (toF32 (laneVal f false (Fmt.fp32.decode false a) (Fmt.fp32.decode false b)
        (Fmt.fp32.decode false c))).toNat, sat := false, ftz := false, nan := false }
  | some n => n.narrow1 .rne (laneVal f true (n.decode false a) (n.decode false b) (n.decode false c))

/-- Whether a lane compare holds. -/
def laneCmp (c : LaneCond) (fmt : LaneFmt) (a b : Nat) : Bool :=
  match laneFmt fmt with
  | none => match c with
    | .eq => decide (signed a 8 = signed b 8)
    | .lt => decide (signed a 8 < signed b 8)
    | .le => decide (signed a 8 ≤ signed b 8)
  | some n =>
    let x := n.decode false a
    let y := n.decode false b
    match c with
    | .eq => x.eq y
    | .lt => x.lt y
    | .le => x.lt y || x.eq y

/-- The results of vector arithmetic in every lane. -/
def varith (f : LaneOp) (fmt : LaneFmt) (a b c : VReg) : List Conv :=
  let w := laneWidth fmt
  (((lanesOf w a).zip (lanesOf w b)).zip (lanesOf w c)).map fun x => laneArith f fmt x.1.1 x.1.2 x.2

/-- The lane mask of a vector compare. -/
def vcompare (c : LaneCond) (fmt : LaneFmt) (a b : VReg) : DWord :=
  let w := laneWidth fmt
  BitVec.ofNat 64 ((((lanesOf w a).zip (lanesOf w b)).map fun x => laneCmp c fmt x.1 x.2).foldr
    (fun h acc => (if h then 1 else 0) + 2 * acc) 0)

/-- Pairwise sums of adjacent FP32 lanes, rounded (R84). -/
def pairSums : List Word → List Word
  | a :: b :: rest => f32Add a b :: pairSums rest
  | _ => []

/-- `vred.add` (R84): the total in lane 0, +0 in lanes 1 to 15. -/
def vredAdd (a : VReg) : VReg :=
  let l := (lanesOf 32 a).map (BitVec.ofNat 32)
  match pairSums (pairSums (pairSums (pairSums l))) with
  | t :: _ => ofLanes 32 [t.toNat]
  | [] => 0

/-- An SFU function of an FP32 word (R85). -/
def sfuWord (f : SfuFn) (w : Word) : Word :=
  match f with
  | .exp => sfuExp w
  | .log => sfuLog w
  | .rsqrt => sfuRsqrt w
  | .recip => sfuRecip w

/-- An SFU function of 16 lanes. -/
def sfuLanes (f : SfuFn) (a : VReg) : VReg :=
  ofLanes 32 ((lanesOf 32 a).map fun l => (sfuWord f (BitVec.ofNat 32 l)).toNat)

end Sys2Proof.Machine
end

