-- ==== Sys2Proof/Machine/TileOps.lean ====
section
/-!
DEFINITION. Operations on a tile core: its register page (R99, R100), the bound and alignment of accesses (R71, R74), and
raising and taking traps (R60 to R65, R633).
-/
namespace Sys2Proof.Machine

/-! ### Fields of registers (R9 to R11) -/

/-- A word written to a register: RW fields store, W1C bits clear, W1S bits set, RWL fields store while unlocked, and RO
and WO fields keep what they hold (R9, R10). -/
def fieldsWrite (fs : List RegField) (locked : Bool) (old v : Word) : Word :=
  fs.foldl (fun w f =>
    let n := fld v f.lo f.len
    let o := fld old f.lo f.len
    match f.type with
    | .rw => putFld w f.lo f.len n
    | .rwl => if locked then w else putFld w f.lo f.len n
    | .w1c => putFld w f.lo f.len (o - (o &&& n))
    | .w1s => putFld w f.lo f.len (o ||| n)
    | _ => w) old

/-- A write sets a reserved bit (R11). -/
def setsReserved (d : RegDesc) (v : Word) : Bool := decide (v &&& ~~~d.listedMask ≠ 0)

/-- The register has an RWL field. -/
def hasLock (d : RegDesc) : Bool := d.fields.any fun f => decide (f.type = .rwl)

/-! ### The tile page (R100) -/

/-- The BAR0 offset of a page offset of a physical tile. -/
def tileOff (t o : Nat) : Nat := 0x01008000 + t / 8 * 0x10000 + t % 8 * 0x1000 + o

/-- The RWL registers of a tile are locked (R100). -/
def Dev.tileLocked (d : Dev) (t : Nat) : Bool :=
  match d.tileCtx t with
  | some c => (d.img c).locked
  | none => false

/-- The code of a run state (R52). -/
def RunState.code : RunState → Nat
  | .idle => 0 | .run => 1 | .wait => 2 | .trapped => 3 | .halted => 4

/-- TILE_STATE.MODE. -/
def Dev.tileMode (d : Dev) (t : Nat) : Nat :=
  if d.isFenced (t / 8) then 3
  else if (d.tileCtx t).isNone then 0
  else if (d.tile t).ctx[(0 : Fin 4)].run = .halted then 2
  else 1

/-- A register of a tile's page: those the tile holds itself, else the register file. -/
def Dev.tileReg (d : Dev) (t o : Nat) : Word :=
  let tl := d.tile t
  if o = 0 then BitVec.ofNat 32 (((d.logical t).getD 0xFFFF) * 2 ^ 16 + t)
  else if o = 4 then
    BitVec.ofNat 32 ((if d.tileLocked t then 256 else 0) + ((d.tileCtx t).getD 0) * 16 + d.tileMode t)
  else if o = 8 then tl.trapVec.setWidth 32
  else if 0x100 ≤ o ∧ o < 0x500 then
    let c := tl.ctx[Fin.ofNat 4 (o / 0x100 - 1)]
    let r := o % 0x100
    if r = 0x00 then c.base.setWidth 32
    else if r = 0x04 then c.bound.setWidth 32
    else if r = 0x08 then c.pc.setWidth 32
    else if r = 0x0C then BitVec.ofNat 32 ((if o / 0x100 = 1 ∧ tl.inh then 256 else 0) + c.run.code)
    else if r = 0x10 then c.cause
    else if r = 0x14 then c.trapPc.setWidth 32
    else if r = 0x18 then c.trapAddr
    else if r = 0x1C then c.trapInfo
    else if r = 0x20 then c.cvtCfg
    else if r = 0x24 then c.cvtTid
    else if r = 0x28 then c.cvtSptr.setWidth 32
    else 0
  else d.reg (tileOff t o)

/-- Store a register of a tile's page. -/
def Dev.putTileReg (d : Dev) (t o : Nat) (w : Word) : Dev :=
  let tl := d.tile t
  if o = 8 then d.setTile t { tl with trapVec := w.setWidth 23 }
  else if 0x100 ≤ o ∧ o < 0x500 then
    let k : HCtx := Fin.ofNat 4 (o / 0x100 - 1)
    let c := tl.ctx[k]
    let r := o % 0x100
    let c' : Ctx :=
      if r = 0x00 then { c with base := w.setWidth 23 }
      else if r = 0x04 then { c with bound := w.setWidth 23 }
      else if r = 0x08 then { c with pc := w.setWidth 23 }
      else if r = 0x20 then { c with cvtCfg := w }
      else if r = 0x24 then { c with cvtTid := w }
      else if r = 0x28 then { c with cvtSptr := w.setWidth 23 }
      else c
    d.setCtx t k c'
  else if o = 0 ∨ o = 4 then d
  else d.setReg (tileOff t o) w

/-- The stated refusals of values of RWL registers of the page (R100). -/
def tileRegBad (o : Nat) (v : Word) : Bool :=
  let r := o % 0x100
  if o = 8 then decide (fld v 0 3 ≠ 0)
  else if 0x100 ≤ o ∧ o < 0x500 then
    if r = 0x00 then decide (fld v 0 12 ≠ 0 ∨ 0x5FF000 < fld v 0 23)
    else if r = 0x04 then decide (fld v 0 12 ≠ 0 ∨ 0x600000 < fld v 0 23)
    else if r = 0x08 then decide (fld v 0 3 ≠ 0)
    else false
  else false

/-- Capture a violation in a tile's error registers (R100, R633). -/
def Dev.tileError (d : Dev) (t source addr status : Nat) : Dev :=
  d.capture (tileOff t 0x10) (addr % 2 ^ 23) 0 (source * 16 + status)

/-- A violation of a tile that is no trap: SOURCE, and event 0x1004 with cause 0 (R633). -/
def Dev.tileViolation (d : Dev) (t : Nat) (k : HCtx) (source status : Nat) : Dev :=
  (d.tileError t source 0 status).event 0x1004 t k.val 0 status

/-! ### Accesses (R71, R74) -/

/-- The access of `n` bytes at context address `a` is legal (R71). -/
def inBound (bound a n : Nat) : Bool := decide (a + n ≤ bound)

/-- The lowest byte of an illegal access that lies outside the bound (R64). -/
def lowestOut (bound a : Nat) : Nat := max a bound

/-- The device address of a context address of a tile (R71). -/
def ctxAddr (t : Nat) (c : Ctx) (a : Nat) : Nat := tileAddr t (c.base.toNat + a)

/-! ### Traps -/

/-- A trap cause met by a slot: its row in the order of R64, its code, its status, TILE_TRAP_ADDR, and whether that is
a context address to be captured (R633). -/
structure Trap where
  row : Nat
  code : Nat
  status : Nat
  addr : Nat
  located : Bool
  deriving DecidableEq, Repr

def Trap.illegal : Trap := { row := 3, code := 0x01, status := sParam, addr := 0, located := false }
def Trap.priv (off : Nat) : Trap := { row := 4, code := 0x02, status := sPerm, addr := off, located := false }
def Trap.fetchBound (pc : Nat) : Trap := { row := 1, code := 0x03, status := sBound, addr := pc, located := true }
def Trap.ueFetch (pc : Nat) : Trap := { row := 2, code := 0x04, status := sUe, addr := pc, located := true }
def Trap.bound (a : Nat) : Trap := { row := 6, code := 0x05, status := sBound, addr := a, located := true }
def Trap.align (a : Nat) : Trap := { row := 5, code := 0x06, status := sParam, addr := a, located := true }
def Trap.ueData (a : Nat) : Trap := { row := 8, code := 0x07, status := sUe, addr := a, located := true }
def Trap.hopEmpty (h : Nat) : Trap := { row := 7, code := 0x08, status := sOk, addr := h, located := false }
def Trap.memOp (status : Nat) (a : Option Nat) : Trap :=
  { row := 9, code := 0x09, status := status, addr := a.getD 0, located := a.isSome }
def Trap.brk : Trap := { row := 10, code := 0x0A, status := sOk, addr := 0, located := false }

/-- TILE_TRAP_CAUSE of a trap: STATUS is given for MEM_OP and PRIV. -/
def Trap.causeWord (tr : Trap) (slotB : Bool) : Word :=
  BitVec.ofNat 32 ((if slotB then 2 ^ 12 else 0) +
    (if tr.code = 0x09 ∨ tr.code = 0x02 then tr.status * 2 ^ 8 else 0) + tr.code)

/-- Capture and record a trap (R633, R65): HOP_EMPTY and BREAK are neither captured nor recorded. The parameters of
0x1002 and 0x1003 beyond the offset are given nowhere (log 16). -/
def Dev.recordTrap (d : Dev) (t : Nat) (k : HCtx) (tr : Trap) : Dev :=
  if tr.code = 0x08 ∨ tr.code = 0x0A then d
  else
    let base := (d.ctx t k).base.toNat
    let d := d.tileError t k.val (if tr.located then base + tr.addr else 0) tr.status
    if tr.code = 0x04 ∨ tr.code = 0x07 then
      let (a, d) := d.freeWord
      let (b, d) := d.freeWord
      let (e, d) := d.freeWord
      d.eventSrc (if tr.code = 0x04 then 0x1002 else 0x1003) t (base + tr.addr) a b e
    else d.event 0x1004 t k.val tr.code tr.status

/-- A bundle raises a trap (R60, R63): `word` is the trapping slot's. A worker enters TRAPPED and its trap is queued
for S; a trap of S halts the tile, and leaves the pc saved on entry to the handler (log 20). -/
def Dev.raiseTrap (d : Dev) (t : Nat) (k : HCtx) (slotB : Bool) (word : Word) (tr : Trap) : Dev :=
  let c := d.ctx t k
  let c' : Ctx := { c with
    cause := tr.causeWord slotB
    trapPc := if k = 0 then c.trapPc else c.pc
    trapAddr := BitVec.ofNat 32 tr.addr
    trapInfo := word
    hold := none }
  let d := (d.setCtx t k c').recordTrap t k tr
  if k = 0 then d.haltTile t
  else
    let tl := d.tile t
    let d := d.setTile t { tl with trapQ := tl.trapQ ++ [k.val] }
    d.setCtx t k { d.ctx t k with run := .trapped }

/-- The cycles of a mill's clock in `n` Race cycles at its present level: 1,600 + 25 k MHz (R540; log 21). -/
def Dev.millCycles (d : Dev) (p n : Nat) : Nat := (n * (64 + (d.clk p).level).toNat) / 64

/-- The tile's channels with the cycles counted that context `c` has waited since `since` with `b` at a send (R259, R263). -/
def Dev.stallCounts (d : Dev) (t : Nat) (c : Ctx) (b : Slot) (since : Nat) : Tab Channel :=
  let chans := (d.tile t).chans
  if b.op = .hopSend ∨ b.op = .hopRsend then
    let ch := (c.sreg (f1 b.word)).toNat
    match Tab.find chans ch with
    | some x => Tab.put chans ch { x with stalls := sat 0xFFFFFFFF (x.stalls + d.millCycles (t / 8) (d.cycle - since)) }
    | none => chans
  else chans

/-- A context leaves a stall: the cycles it has waited count in the channel of a stalled send (R259, R263). -/
def Dev.endStall (d : Dev) (t : Nat) (k : HCtx) : Dev :=
  let tl := d.tile t
  let c := tl.ctx[k]
  match c.hold with
  | some (.stall _ b since) =>
    d.setTile t { tl with chans := d.stallCounts t c b since, ctx := tl.ctx.set k { c with hold := none } }
  | some (.full _ _ _) => d.setTile t { tl with ctx := tl.ctx.set k { c with hold := none } }
  | _ => d

/-- The clock of a context's mill stops while it stalls: the cycles until now count, and none until it goes on (R259, R489). -/
def Dev.pauseStall (d : Dev) (t : Nat) (k : HCtx) : Dev :=
  let tl := d.tile t
  let c := tl.ctx[k]
  match c.hold with
  | some (.stall a b since) =>
    d.setTile t { tl with chans := d.stallCounts t c b since, ctx := tl.ctx.set k { c with hold := some (.stall a b d.cycle) } }
  | _ => d

/-- The context has issued a bundle that holds it. -/
def heldByIssued (h : Option Hold) : Bool :=
  match h with
  | none => false
  | some (.stall _ _ _) | some (.full _ _ _) => false
  | some _ => true

/-- S takes a queued trap (R61, R62): it saves its pc, sets INH and continues at TILE_TRAP_VEC, leaving a wait whose
arrival stands. A bundle of S that has not issued yet is taken up again after the handler. With no handler the tile
halts (R63). -/
def Dev.takeTrap (d : Dev) (t : Nat) : Dev :=
  let d := if (d.tile t).trapQ = [] ∨ (d.tile t).inh then d else d.endStall t 0
  let tl := d.tile t
  let s := tl.ctx[(0 : Fin 4)]
  match tl.trapQ with
  | [] => d
  | _ :: rest =>
    if tl.inh ∨ (s.run ≠ .run ∧ s.run ≠ .wait) ∨ heldByIssued s.hold then d
    else if tl.trapVec = 0 then (d.setTile t { tl with trapQ := rest }).haltTile t
    else
      let s' : Ctx := { s with trapPc := s.pc, pc := tl.trapVec, run := .run, wait := none }
      d.setTile t { tl with trapQ := rest, inh := true, pre := s.wait, ctx := tl.ctx.set (0 : Fin 4) s' }

/-- `sys.tret` (R61, R62): S returns to the saved pc. Where it had left a wait it takes it up again; a release recorded
meanwhile has it resume after the `sync.wait` with the release's status. -/
def Dev.trapReturn (d : Dev) (t : Nat) : Dev :=
  let tl := d.tile t
  let s := tl.ctx[(0 : Fin 4)]
  let s0 : Ctx := { s with pc := s.trapPc }
  let s' : Ctx := match tl.pre with
    | none => s0
    | some w => match w.fired with
      | some st => (s0.setS w.rc (BitVec.ofNat 32 st))
      | none => { s0 with run := .wait, wait := some w }
  d.setTile t { tl with inh := false, pre := none, ctx := tl.ctx.set (0 : Fin 4) s' }

/-- `sys.stop` on a worker (R98): it enters IDLE, its queued trap is withdrawn, and it leaves the waiters of its object,
where its arrival stands. -/
def Dev.stopWorker (d : Dev) (t : Nat) (k : HCtx) : Dev :=
  let d := d.endStall t k
  let tl := d.tile t
  let c := tl.ctx[k]
  let drop := fun (w : Option (Nat × Nat)) => match w with
    | some (j, n) => if j = k.val then none else some (j, n)
    | none => none
  let d := d.setTile t { tl with
    ctx := tl.ctx.set k { c with run := .idle, wait := none }
    trapQ := tl.trapQ.filter (· ≠ k.val)
    heldArr := tl.heldArr.map fun e => { e with waiter := drop e.waiter } }
  match c.wait with
  | none => d
  | some w =>
    let o := d.obj w.phys
    let mine := fun (x : Waiter) => decide (x.tile = t ∧ x.ctx = k.val)
    let d := d.setObj w.phys { o with waiters := o.waiters.filter fun x => !mine x
                                      held := o.held.map fun e => if e.tile = some t then { e with waiter := drop e.waiter } else e }
    { d with syncFly := d.syncFly.map fun e => if e.tile = some t then { e with waiter := drop e.waiter } else e }

end Sys2Proof.Machine
end

