-- ==== Sys2Proof/Machine/SyncOps.lean ====
section
/-!
DEFINITION. Sync objects as a tile or the host reaches them: translation (R230), refusals (R271), and the events of
`sync.sig`, `sync.wait`, `sync.poll`, `sync.arm` and of byte bindings (R240 to R245, R253, R302).
-/
namespace Sys2Proof.Machine

/-- The translation entry of a virtual ID of a context (R230, R273). -/
def Dev.xlatWord (d : Dev) (c vid : Nat) : Word := d.reg (Reg.SYNC_XLATc_v + 0x4000 * c + 4 * vid)

/-- The status of a translation, and the physical counter it names (R230, R251). -/
def Dev.translate (d : Dev) (c vid : Nat) : Nat × Nat :=
  if 4095 < vid then (sParam, 0)
  else
    let w := d.xlatWord c vid
    let phys := fld w 0 14
    let o := d.obj phys
    if !bit w 31 then (sParam, 0)
    else if o.state = .free then (sParam, phys)
    else if o.ictx = c ∨ (o.shared ∧ bit w 30) then (sOk, phys)
    else (sPerm, phys)

/-- The tile may arrive at and signal the object: its logical mill lies in the mill range, which holds for the owner's
tiles only (R241, R251). -/
def Dev.inMillRange (d : Dev) (c t : Nat) (o : SyncObj) : Bool :=
  if o.ictx = c then
    match d.logical t with
    | some l => decide (o.millLo ≤ l / 8 ∧ l / 8 ≤ o.millHi)
    | none => false
  else true

/-- Refuse a sync operation (R271): logged, counted unless it is a poll, and recorded as event 0x4001. A tile is
none for the host. -/
def Dev.syncRefuse (d : Dev) (vid phys : Nat) (tile : Option Nat) (c source status : Nat) (counted : Bool) : Dev :=
  let d := d.syncError vid phys (tile.getD 0x7FF) c source status
  let d := if counted then d.count Reg.SYNC_REFUSED 1 else d
  match tile with
  | some t => d.event 0x4001 t vid status c
  | none => d.eventSrc 0x4001 (srcFunc (d.owner c)) 0xFFFF vid status c

/-- A sync instruction of the tile finds credit: what the part can hold of its mill's events on their way is not exhausted; how much
that is, is given nowhere (R234; log 19). -/
def Dev.syncCredit (d : Dev) (t : Nat) : Bool :=
  decide ((d.syncFly.filter fun e => decide (e.tile.map (· / 8) = some (t / 8))).length ≤ Config.syncQueue)

/-- A sync event begins its way to the object's home (R234). -/
def Dev.postSync (d : Dev) (e : SyncEvt) : Dev := { d with syncFly := d.syncFly ++ [e] }

/-- The status with which a signal is refused where it is made, or OK (R230, R241, R242, R252). -/
def Dev.signalStatus (d : Dev) (c t vid : Nat) : Nat × Nat :=
  let (st, phys) := d.translate c vid
  let o := d.obj phys
  if st ≠ sOk then (st, phys)
  else if !d.inMillRange c t o then (sPerm, phys)
  else if o.state = .broken then (sBroken, phys)
  else if o.sigs = 0 then (sParam, phys)
  else (sOk, phys)

/-- `sync.sig` (R242). -/
def Dev.syncSig (d : Dev) (c t vid bytes : Nat) : Dev :=
  let (st, phys) := d.signalStatus c t vid
  if st ≠ sOk then d.syncRefuse vid phys (some t) c 0 st true
  else d.postSync { kind := .signal, phys := phys, bytes := bytes, tile := some t, waiter := none, ictx := c, vid := vid }

/-- The status of a `sync.wait` or `sync.poll` at its tile (R230, R240, R241, R252). -/
def Dev.arriveStatus (d : Dev) (c t vid : Nat) : Nat × Nat :=
  let (st, phys) := d.translate c vid
  let o := d.obj phys
  if st ≠ sOk then (st, phys)
  else if !d.inMillRange c t o then (sPerm, phys)
  else (sOk, phys)

/-- A Sluice queue is EMPTY or in HALT (R285, R287). -/
def queueQuiet (q : SQueue) : Bool := q.descs.isEmpty || q.halt.isSome

/-- Every Sluice queue of the tile is EMPTY or in HALT (R302), with no lead-in still to enter one. -/
def Dev.queuesQuiet (d : Dev) (t : Nat) : Bool :=
  !(d.seq t).leadWaits && (List.range 4).all fun q => queueQuiet (d.queue (t / 8 * 32 + t % 8 * 4 + q))

/-- `sync.wait` (R240): the context arrives and enters WAIT, or is refused with the code in rc. An arrival at the
superstep barrier is held until the tile's queues are quiet (R302). -/
def Dev.syncWait (d : Dev) (c t : Nat) (k : HCtx) (vid rc : Nat) : Dev :=
  let (st, phys) := d.arriveStatus c t vid
  let st := if st = sOk ∧ (d.obj phys).state = .broken then sBroken else st
  if st ≠ sOk then (d.syncRefuse vid phys (some t) c 0 st true).putS t k rc (BitVec.ofNat 32 st)
  else
    let tl := d.tile t
    let n := tl.waitNum
    let e : SyncEvt :=
      { kind := .arrival, phys := phys, bytes := 0, tile := some t, waiter := some (k.val, n), ictx := c, vid := vid }
    let w : Wait := { id := n, phys := phys, vid := vid, rc := rc, since := d.cycle, reported := false, fired := none }
    let quiet := decide (vid ≠ 0) || d.queuesQuiet t
    let d := d.setTile t { tl with
      waitNum := n + 1
      heldArr := if quiet then tl.heldArr else tl.heldArr ++ [e]
      ctx := tl.ctx.set k { tl.ctx[k] with run := .wait, wait := some w } }
    if quiet then d.postSync e else d

/-- The code of an object's state (R246). -/
def ObjState.code : ObjState → Nat
  | .free => 0 | .idle => 1 | .opened => 2 | .broken => 3

/-- `sync.poll` (R240): state and phase, or 0xFFFF_FFFF where it is refused. -/
def Dev.syncPoll (d : Dev) (c t : Nat) (k : HCtx) (vid rc : Nat) : Dev :=
  let (st, phys) := d.arriveStatus c t vid
  let o := d.obj phys
  if st ≠ sOk then (d.syncRefuse vid phys (some t) c 0 st false).putS t k rc 0xFFFFFFFF
  else d.putS t k rc (BitVec.ofNat 32 (o.phase % 2 ^ 16 * 2 ^ 16 + o.state.code))

/-- An arm of the object finds it BROKEN: an arm that is on its way reaches the home first (DEDUCED, log 202). -/
def Dev.armable (d : Dev) (phys : Nat) : Bool :=
  decide ((d.obj phys).state = .broken) && !d.syncFly.any fun e => decide (e.kind = .arm ∧ e.phys = phys)

/-- The status of an arm (R230, R253). -/
def Dev.armStatus (d : Dev) (c vid : Nat) : Nat × Nat :=
  let (st, phys) := d.translate c vid
  let o := d.obj phys
  if st ≠ sOk then (st, phys)
  else if !o.shared then (sPerm, phys)
  else if !d.armable phys then (sParam, phys)
  else (sOk, phys)

/-- `sync.arm` (R253). -/
def Dev.syncArm (d : Dev) (c t : Nat) (k : HCtx) (vid rc : Nat) : Dev :=
  let (st, phys) := d.armStatus c vid
  let d := d.putS t k rc (BitVec.ofNat 32 st)
  if st ≠ sOk then d.syncRefuse vid phys (some t) c 6 st true
  else d.postSync { kind := .arm, phys := phys, bytes := 0, tile := some t, waiter := none, ictx := c, vid := vid }

/-- A bound source has written `n` bytes into a tile's memory: the credit of R244, where a binding names the source
(kind 0 region, 1 Sluice queue, 2 receive ring). -/
def Dev.creditBytes (d : Dev) (t kind num n : Nat) : Dev :=
  match d.tileCtx t with
  | none => d
  | some c =>
    if n = 0 then d
    else ((d.tile t).bindings.filter fun b => decide (b.kind = kind ∧ b.num = num)).foldl (fun d b =>
      let (st, phys) := d.translate c b.vid
      let st := if st = sOk ∧ (d.obj phys).state = .broken then sBroken else st
      if st ≠ sOk then d.syncRefuse b.vid phys (some t) c 0 st true
      else d.postSync
        { kind := .credit, phys := phys, bytes := n, tile := some t, waiter := none, ictx := c, vid := b.vid }) d

end Sys2Proof.Machine
end

