-- ==== Sys2Proof/Machine/HopOps.lean ====
section
/-!
DEFINITION. Hoppers, channels and rings as a tile's instructions reach them (R256 to R272).
-/
namespace Sys2Proof.Machine

/-- What an ANSWER to a hopper or ring names (log 15): the hopper, or the ring with the bytes it returns in units of
8. -/
def hopRef (num : Nat) : Nat := num
def ringRef (num bytes : Nat) : Nat := num + 4 * (bytes / 8)

/-- Answer the sender of a queue from tile `t`: a logical tile of context `c` on this device or on another (R259, R266,
R268). -/
def Dev.answerSender (d : Dev) (c t : Nat) (remote : Option Nat) (src : Nat) (kind : PktKind) (status ref : Nat) : Dev :=
  match remote with
  | none => match d.mapTile c src with
    | some s => d.inject { packet .answer c t s with id := status, ref := ref, answers := kind }
    | none => d
  | some fa =>
    let f : Frame :=
      { cls := 0, kind := 3, ttl := 64, keyId := false, dfa := fa, sfa := d.fa, job := (d.coll c).job, lseq := 0,
        flow := 0, arg0 := BitVec.ofNat 32 (headerH0 0 1 c 1 src ((d.logical t).getD 0)),
        arg1 := BitVec.ofNat 32 (answerH1 status kind.code ref), arg2 := BitVec.ofNat 32 (2 ^ 22), payload := [] }
    d.sendPlain f

/-- Return the credits of the hopper entries that consumption has freed (R259). -/
def Dev.returnCredits (d : Dev) (c t : Nat) (freed : List (Nat × HopEntry)) : Dev :=
  freed.foldl (fun d e => d.answerSender c t e.2.remote e.2.src .hop sOk (hopRef e.1)) d

/-- `hstat` (R92). -/
def hstat (hop : Vector Hopper 8) : Word :=
  BitVec.ofNat 32 (((List.finRange 8).map fun h => min hop[h].entries.length 15 * 2 ^ (4 * h.val)).foldl (· + ·) 0)

/-- A send refused at its source (R271): `ring` for `hop.rsend`. -/
def Dev.sendRefuse (d : Dev) (c t chan : Nat) (ring : Bool) (status len : Nat) : Dev :=
  (((d.count Reg.HOP_REFUSED 1).syncError chan 0 t c (if ring then 3 else 2) status)).event 0x4006 t chan status len

/-- The channel of a tile that a send may use: one that exists (VALID, R257), of the instruction's kind, and with a mapped destination (R271,
R630). -/
def Dev.channel (d : Dev) (c t chan : Nat) (ring : Bool) : Option Channel :=
  if 64 ≤ chan then none
  else match Tab.find (d.tile t).chans chan with
    | none => none
    | some x => if decide (x.state ≠ .invalid) && x.ring = ring && (x.remote || (d.mapTile c x.dtile).isSome) then some x else none

/-- Store a channel of a tile. -/
def Dev.putChan (d : Dev) (t chan : Nat) (x : Channel) : Dev :=
  let tl := d.tile t
  d.setTile t { tl with chans := Tab.put tl.chans chan x }

/-- Send a packet on a channel: into the Race, or over Flume (R257, R402). `flm` is the frame kind. -/
def Dev.sendChan (d : Dev) (t : Nat) (x : Channel) (p : Packet) (flm : Nat) : Dev :=
  if x.remote then
    let q := { p with remote := true, dst := x.dtile, src := (d.logical t).getD 0, dfa := x.dfa, sfa := d.fa }
    d.sendFrame 32 (d.packetFrame q flm)
  else match d.mapTile p.ictx x.dtile with
    | some s => d.inject { p with dst := s }
    | none => d

/-- `hop.send` stalls: an open channel without a credit (R259). -/
def Dev.hopSendStalls (d : Dev) (c t chan : Nat) : Bool :=
  match d.channel c t chan false with
  | some x => decide (x.state = .opened) && decide (x.credit = 0)
  | none => false

/-- `hop.send` (R259, R269, R271). -/
def Dev.hopSend (d : Dev) (c t chan : Nat) (lo hi : Word) : Dev :=
  match d.channel c t chan false with
  | none => d.sendRefuse c t chan false sParam 8
  | some x =>
    if x.state ≠ .opened then d.putChan t chan { x with drop := sat 0xFFFFFFFF (x.drop + 1) }
    else if x.credit = 0 then d
    else
      let d := d.putChan t chan { x with credit := x.credit - 1, msgs := sat 0xFFFFFFFF (x.msgs + 1) }
      d.sendChan t x { packet .hop c t 0 with id := x.num, ref := x.num, chunk := chan, payload := bytesOf 4 lo.toNat ++ bytesOf 4 hi.toNat }
        4

/-- A record's header (R262). -/
def ringHeader (seq src : Nat) (wrap : Bool) (len : Nat) : List Byte :=
  bytesOf 8 (seq % 2 ^ 32 * 2 ^ 32 + src * 2 ^ 16 + (if wrap then 2 ^ 15 else 0) + len)

/-- Bytes of a record (R262). -/
def recordSize (len : Nat) : Nat := 8 + 8 * ceilDiv len 8

/-- Bytes free in the ring that a channel writes (R263). -/
def chanFree (x : Channel) : Nat := x.size - (x.wr - x.freed)

/-- The RING packets of at most 256 B that carry bytes to a ring offset (R264). LAST marks the last packet of a send (R207), so none of
a wrap marker's. -/
def Dev.sendRing (d : Dev) (c t chan : Nat) (x : Channel) (mark : Bool) : (fuel : Nat) → (off : Nat) → List Byte → Dev
  | 0, _, _ => d
  | _, _, [] => d
  | n + 1, off, bs =>
    let p := { packet .ring c t 0 with
      id := x.num, offset := off, ref := x.num, chunk := chan, payload := bs.take 256, last := decide (bs.length ≤ 256) && !mark }
    (d.sendChan t x p 5).sendRing c t chan x mark n (off + 256) (bs.drop 256)

/-- `n` bytes the manual leaves open (log 3). -/
def freeTail (ix n : Nat) : List Byte := (Config.freeBytes ix ++ List.replicate n 0).take n

/-- The sender's own number of bytes up to the ring's end (R263). -/
def chanTail (x : Channel) : Nat := x.size - x.wr % x.size

/-- The length of a `hop.rsend` is legal (R264). -/
def ringLenOk (x : Channel) (len : Nat) : Bool := decide (1 ≤ len ∧ len ≤ 4096 ∧ len + 64 ≤ x.size)

/-- A `hop.rsend` reads its source: its channel is valid and open and its length legal. -/
def Dev.ringSends (d : Dev) (c t chan len : Nat) : Bool :=
  match d.channel c t chan true with
  | some x => decide (x.state = .opened) && ringLenOk x len
  | none => false

/-- The wrap marker of R263 goes out where the record does not fit before the ring's end and the tail is free. The bytes
of a marker after its header are given nowhere (log 28). -/
def Dev.ringWrap (d : Dev) (c t chan len : Nat) : Dev :=
  match d.channel c t chan true with
  | none => d
  | some x =>
    let tail := chanTail x
    if x.state = .opened ∧ ringLenOk x len ∧ tail < recordSize len ∧ tail ≤ chanFree x then
      let src := (d.logical t).getD 0
      let bs := ringHeader x.seq src true 0 ++ freeTail d.freeIx (tail - 8)
      let d := d.draw.putChan t chan { x with wr := x.wr + tail }
      d.sendRing c t chan x true (tail / 256 + 1) (x.wr % x.size) bs
    else d

/-- `hop.rsend` stalls: the record has no room yet, once a marker has gone out where one was due (R263). -/
def Dev.ringStalls (d : Dev) (c t chan len : Nat) : Bool :=
  match d.channel c t chan true with
  | some x => decide (x.state = .opened) && ringLenOk x len &&
      (decide (chanTail x < recordSize len) || decide (chanFree x < recordSize len))
  | none => false

/-- `hop.rsend` (R262 to R264, R269, R271): `data` is what the issuing context's memory holds at the address. -/
def Dev.ringSend (d : Dev) (c t chan len : Nat) (data : List Byte) : Dev :=
  match d.channel c t chan true with
  | none => d.sendRefuse c t chan true sParam len
  | some x =>
    if x.state ≠ .opened then d.putChan t chan { x with drop := sat 0xFFFFFFFF (x.drop + 1) }
    else if !ringLenOk x len then d.sendRefuse c t chan true sLen len
    else
      let n := recordSize len
      let src := (d.logical t).getD 0
      let bs := ringHeader x.seq src false len ++ data ++ List.replicate (n - 8 - len) 0
      let d := d.putChan t chan { x with
        wr := x.wr + n, seq := (x.seq + 1) % 2 ^ 32, msgs := sat 0xFFFFFFFF (x.msgs + 1) }
      d.sendRing c t chan x false (n / 256 + 1) (x.wr % x.size) bs

/-- A HOP or RING packet meets a closed or fenced reader (R268): it is logged with the channel that sent it (free for a
sender on another device, log 49), recorded as event 0x4003, and answered. -/
def Dev.readerGone (d : Dev) (p : Packet) (status : Nat) : Dev :=
  let (chan, d) := if p.remote then d.freeWord else (p.chunk, d)
  (((d.syncError chan 0 p.src p.ictx 5 status).event 0x4003 p.dst p.src chan status)).answer p status

/-- Write a ring's control word (R261): WR and FREED modulo 2^32. -/
def Dev.putRingCtrl (d : Dev) (t : Nat) (r : Ring) : Dev :=
  let a := ctxAddr t (d.ctx t 0) r.ctrl
  d.writeWords 6 a (bytesOf 4 (r.wr % 2 ^ 32) ++ bytesOf 4 (r.freed % 2 ^ 32))

/-- Drop `n` bytes of records from a ring's front. -/
def dropRecords : List (Nat × Bool) → Nat → List (Nat × Bool)
  | [], _ => []
  | r :: rs, n => if r.1 ≤ n then dropRecords rs (n - r.1) else (r.1 - n, r.2) :: rs

/-- `hop.rfree` (R266, R271). -/
def Dev.ringFree (d : Dev) (c t ring bytes : Nat) : Dev :=
  let tl := d.tile t
  let refuse := fun (d : Dev) (st : Nat) => (d.syncError ring 0 t c 4 st).event 0x4007 t ring bytes st
  match (if ring < 4 then Tab.find tl.rings ring else none) with
  | none => refuse d sParam
  | some r =>
    if bytes % 8 ≠ 0 then refuse d sParam
    else
      let occ := r.wr - r.freed
      let n := min bytes occ
      let r' : Ring := { r with freed := r.freed + n, records := dropRecords r.records n }
      let d := (d.setTile t { tl with rings := Tab.put tl.rings ring r' }).putRingCtrl t r'
      let d := if n = 0 then d else d.answerSender c t r.remote r.src .ring sOk (ringRef ring n)
      if occ < bytes then refuse d sLen else d

/-- `hop.close` (R94, R267): MOD 3 selects a ring, MOD 2:0 its number. -/
def Dev.hopClose (d : Dev) (t mod : Nat) : Dev :=
  if mod < 8 then d.closeHopper t (Fin.ofNat 8 mod) 0 false else d.closeRing t (mod - 8) 0 false

end Sys2Proof.Machine
end

