-- ==== Sys2Proof/Machine/Counts.lean ====
section
/-!
DEFINITION. Counting (R176, R177, R180, R181, R390): unit counters of tiles and mills, the guard's counts of a step, and
the trace counts of a superstep; and the random bits in force (R171).
-/
namespace Sys2Proof.Machine

/-- `mix` of R382. -/
def mix (x k : DWord) : DWord :=
  let x := x ^^^ k
  let x := (x ^^^ (x >>> 31)) * 0x9E3779B97F4A7C15
  let x := (x ^^^ (x >>> 29)) * 0xE7C35A910B6DF253
  x ^^^ (x >>> 32)

/-- What some conversions count: saturations, flushes, NaN inputs and format errors. -/
structure Tally where
  sat : Nat
  ftz : Nat
  nan : Nat
  fmt : Nat
  deriving DecidableEq, Repr

/-- The tally of narrowed elements (R176). -/
def tally (cs : List Conv) : Tally :=
  { sat := (cs.filter (·.sat)).length, ftz := (cs.filter (·.ftz)).length, nan := (cs.filter (·.nan)).length, fmt := 0 }

/-- The step seed in force in a context (R170, R371). -/
def Dev.stepSeed (d : Dev) (c : Nat) : Nat := (d.stepOf c).seed.toNat * 2 ^ 32 + d.stepLow c

/-- Add to the trace counts of a logical tile in this superstep (R390). -/
def Dev.traceAdd (d : Dev) (c lt : Nat) (f : TraceAcc → TraceAcc) : Dev :=
  let s := d.stepOf c
  let z : TraceAcc := { xstat := 0, rxd := 0, csat := 0, cftz := 0, cnan := 0, mcmd := 0 }
  d.setStep c { s with trace := Tab.set (fun _ => z) s.trace lt (f (Tab.get (fun _ => z) s.trace lt)) }

/-- Count in a tile's conversion counters (R176) and its trace counts. -/
def Dev.tileTally (d : Dev) (t : Nat) (y : Tally) : Dev :=
  let d := d.count (tileOff t 0x20) y.sat
  let d := d.count (tileOff t 0x24) y.ftz
  let d := d.count (tileOff t 0x28) y.nan
  let d := d.count (tileOff t 0x2C) y.fmt
  match d.tileCtx t, d.logical t with
  | some c, some l =>
    d.traceAdd c l fun a => { a with csat := a.csat + y.sat, cftz := a.cftz + y.ftz, cnan := a.cnan + y.nan }
  | _, _ => d

/-- A register of a mill's block (R151). -/
def millReg (base p : Nat) : Nat := at1 base 0x10000 p

/-- Count a drain's tally (R146) and the trace counts of the mill's tile 0. -/
def Dev.drainTally (d : Dev) (p : Nat) (y : Tally) : Dev :=
  let d := d.count (millReg Reg.MILL_DRN_SAT p) y.sat
  let d := d.count (millReg Reg.MILL_DRN_FTZ p) y.ftz
  let d := d.count (millReg Reg.MILL_DRN_NAN p) y.nan
  match d.binding p with
  | some (c, l) =>
    d.traceAdd c (l * 8) fun a => { a with csat := a.csat + y.sat, cftz := a.cftz + y.ftz, cnan := a.cnan + y.nan }
  | none => d

/-- Count a pass's slot saturations and NaN outputs (R132), and the saturations in the trace of the mill's tile 0. -/
def Dev.slotTally (d : Dev) (p sat nan : Nat) : Dev :=
  let d := d.count (millReg Reg.MILL_SLOT_SAT p) sat
  let d := d.count (millReg Reg.MILL_SLOT_NAN p) nan
  match d.binding p with
  | some (c, l) => d.traceAdd c (l * 8) fun a => { a with csat := a.csat + sat }
  | none => d

/-- Count elements against the guard entry of a tensor ID (R179 to R181). A GIDX that the context lacks records event
0x6104, once a step; its third and fourth parameters are given nowhere (log 25). `unit` is the tile or mill. -/
def Dev.guardTally (d : Dev) (c : Nat) (tid : Word) (unit elems : Nat) (y : Tally) : Dev :=
  let g := d.guard c
  let i := fld tid 0 8
  let top := 2 ^ 64 - 1
  if !bit tid 8 then d
  else match g.entries[i]? with
    | some e =>
      let e' : GuardEntry := { e with
        elems := sat top (e.elems + elems), sat := sat top (e.sat + y.sat), ftz := sat top (e.ftz + y.ftz)
        nan := sat top (e.nan + y.nan) }
      d.setGuard c { g with entries := g.entries.set i e' }
    | none =>
      if g.noted.contains i then d
      else
        let d := d.setGuard c { g with noted := g.noted ++ [i] }
        let (a, d) := d.freeWord
        let (b, d) := d.freeWord
        d.event 0x6104 i unit a b

end Sys2Proof.Machine
end

