-- ==== Sys2Proof/Machine/MillOps.lean ====
section
/-!
DEFINITION. Mill commands (R104 to R127, R140 to R144): their fields, the checks of R108 at the queue's entry, refusal
(R109), and `mill.fence` (R110).
-/
namespace Sys2Proof.Machine

/-! ### Fields of a pass (R114, R115) -/

def passWaddr (w0 : Word) : Nat := fld w0 15 17 * 64
def passFmtW (w0 : Word) : Nat := fld w0 11 4
def passFmtA (w0 : Word) : Nat := fld w0 7 4
def passMx (w0 : Word) : Bool := bit w0 6
def passBlk (w0 : Word) : Nat := fld w0 4 2
def passRnd (w0 : Word) : Nat := fld w0 2 2
def passWld (w0 : Word) : Bool := bit w0 1
def passColh (w0 : Word) : Nat := fld w0 0 1
def passAaddr (w1 : Word) : Nat := fld w1 15 17 * 64
def passM (w1 : Word) : Nat := fld w1 7 8
def passKidx (w1 : Word) : Nat := fld w1 0 7

/-- What a pair of operand formats allows (R117): columns, band depth, MX, and the BLK values. -/
structure Pair2 where
  w : Fmt
  a : Fmt
  cols : Nat
  depth : Nat
  mx : Bool
  blks : List Nat
  scaled : Bool
  deriving DecidableEq, Repr

/-- The format is FP6 or FP8, either variant. -/
def isFp68 (f : Fmt) : Bool := f == .e4m3 || f == .e5m2 || f == .e2m3 || f == .e3m2

/-- The pair of two format codes (R117); none for any other pair. -/
def passPair (fw fa : Nat) : Option Pair2 :=
  match fmtOf fw, fmtOf fa with
  | some .t2, some .e2m1 => some ⟨.t2, .e2m1, 256, 64, false, [0, 1, 2], true⟩
  | some .e2m1, some .e2m1 => some ⟨.e2m1, .e2m1, 256, 32, true, [0, 1], true⟩
  | some .int4, some .int4 => some ⟨.int4, .int4, 256, 32, false, [0, 1], true⟩
  | some .int8, some .int8 => some ⟨.int8, .int8, 128, 32, true, [0, 1], true⟩
  | some .bf16, some .bf16 => some ⟨.bf16, .bf16, 128, 16, false, [0], false⟩
  | some .fp16, some .fp16 => some ⟨.fp16, .fp16, 128, 16, false, [0], false⟩
  | some w, some a => if isFp68 w && isFp68 a then some ⟨w, a, 128, 32, true, [0, 1], true⟩ else none
  | _, _ => none

/-- Values in a block along K (R114). -/
def passBlock (w0 : Word) : Nat := 16 * 2 ^ passBlk w0

/-- Bytes of a weight band (R121). -/
def weightBytes (pr : Pair2) (block : Nat) : Nat :=
  pr.depth * pr.cols * pr.w.width / 8 + (if pr.scaled then pr.cols * (pr.depth / block) else 0)

/-- Bytes of an activation block of `m` rows (R122). -/
def actBytes (pr : Pair2) (block m : Nat) : Nat :=
  m * (pr.depth * pr.a.width / 8) + (if pr.scaled then m * (pr.depth / block) else 0)

/-! ### Fields of a drain (R126, R127) -/

def drainDst (w0 : Word) : Nat := fld w0 15 17 * 64
def drainRows (w0 : Word) : Nat := fld w0 7 8
def drainRow0 (w0 : Word) : Nat := fld w0 0 7
def drainFmt (w1 : Word) : Nat := fld w1 28 4
def drainMx (w1 : Word) : Bool := bit w1 27
def drainBlk (w1 : Word) : Nat := fld w1 26 1
def drainRnd (w1 : Word) : Nat := fld w1 24 2
def drainOut (w1 : Word) : Nat := fld w1 22 2
def drainDidx (w1 : Word) : Nat := fld w1 0 16

/-- The target is block-scaled along the row (R145). -/
def drainScaled (f : Fmt) : Bool :=
  match f with
  | .fp32 => false
  | .bf16 => false
  | .fp16 => false
  | _ => true

/-- Bytes of a drain's output row in each tile (R143). -/
def drainPitch (f : Fmt) : Nat := 32 * f.width / 8

/-- Values in a block along a drained row (R127). -/
def drainBlock (w1 : Word) : Nat := if drainBlk w1 = 1 then 32 else 16

/-- Bytes of a drain's padded scale region (R144). -/
def drainScaleBytes (f : Fmt) (w1 : Word) (rows : Nat) : Nat :=
  if drainScaled f then alignUp 8 (rows * (32 / drainBlock w1)) else 0

/-- Bytes a drain writes in each tile (R144). -/
def drainBytes (f : Fmt) (w1 : Word) (rows : Nat) : Nat := rows * drainPitch f + drainScaleBytes f w1 rows

/-! ### Extents (R104, R123, R144) -/

/-- The base and bound of hardware context `k` of tile `i` of a mill (R104). -/
def Dev.bandCtx (d : Dev) (p i k : Nat) : Ctx := d.ctx (p * 8 + i) (Fin.ofNat 4 k)

/-- The first tile of a mill whose bound an extent leaves, with the physical offset of the extent's lowest byte. -/
def Dev.extentFails (d : Dev) (p k a n : Nat) : Option (Nat × Nat) :=
  (List.range 8).findSome? fun i =>
    let c := d.bandCtx p i k
    if inBound c.bound.toNat a n then none else some (i, (c.base.toNat + a) % 2 ^ 23)

/-- The context extents a command reads: (address, length). -/
def passReads (q : MillCmd) (weights : Bool) : List (Nat × Nat) :=
  match passPair (passFmtW q.w0) (passFmtA q.w0) with
  | none => []
  | some pr =>
    (if weights then [(passWaddr q.w0, weightBytes pr (passBlock q.w0))]
     else [(passAaddr q.w1, actBytes pr (passBlock q.w0) (passM q.w1))])

/-- The context extent a drain writes. -/
def drainWrites (q : MillCmd) : List (Nat × Nat) :=
  match fmtOf (drainFmt q.w1) with
  | none => []
  | some f => [(drainDst q.w0, drainBytes f q.w1 (drainRows q.w0))]

/-- Two lists of context extents, of hardware contexts `k` and `l`, meet in some tile of the mill (R111). -/
def Dev.extentsMeet (d : Dev) (p k : Nat) (xs : List (Nat × Nat)) (l : Nat) (ys : List (Nat × Nat)) : Bool :=
  (List.range 8).any fun i =>
    let b := (d.bandCtx p i k).base.toNat
    let c := (d.bandCtx p i l).base.toNat
    xs.any fun x => ys.any fun y => decide (b + x.1 < c + y.1 + y.2) && decide (c + y.1 < b + x.1 + x.2)

/-! ### Entry checks (R108) -/

def Mill.slot (m : Mill) (s : Nat) : SlotState := Tab.get (fun _ => SlotState.reset) m.slotState s
def Mill.setSlot (m : Mill) (s : Nat) (v : SlotState) : Mill :=
  { m with slotState := Tab.set (fun _ => SlotState.reset) m.slotState s v }

/-- A status, and for ERR_BOUND the tile and physical offset that MILL_ERR_ADDR_LO reports. -/
structure Refused where
  status : Nat
  at_ : Nat × Nat
  deriving DecidableEq, Repr

/-- The result of checks: LEN before PARAM before BOUND (R26). A refusal that no extent fails has tile 0 and address 0
(DESIGN CHOICE, log 182). -/
def firstOf (len param : Bool) (bound : Option (Nat × Nat)) : Option Refused :=
  if len then some ⟨sLen, (0, 0)⟩
  else if param then some ⟨sParam, (0, 0)⟩
  else bound.map fun x => ⟨sBound, x⟩

/-- The other field values of a pass that are refused with ERR_PARAM (R114, R117 to R120). -/
def passParamBad (m : Mill) (q : MillCmd) (pr : Pair2) : Bool :=
  let w0 := q.w0
  let s := m.slot q.slot
  let same := match m.accepted with
    | none => false
    | some a => passFmtW a = passFmtW w0 && passFmtA a = passFmtA w0 && passMx a = passMx w0 && passBlk a = passBlk w0
  let k := passKidx q.w1
  !pr.blks.contains (passBlk w0) || (passMx w0 && (!pr.mx || decide (passBlk w0 ≠ 1))) || decide (1 < passRnd w0) ||
  (decide (pr.cols = 256) && decide (passColh w0 ≠ 0)) || (!passWld w0 && !same) ||
  (if pr.cols = 256 then decide (k ≠ s.k0) || decide (k ≠ s.k1)
   else if passColh w0 = 0 then decide (k ≠ s.k0) else decide (k ≠ s.k1))

/-- The largest sample count that STATS allows (R140). -/
abbrev statsMax : Nat := 16777216

/-- A pass would take a STATS column above its largest count (R140). -/
def passOverflows (m : Mill) (q : MillCmd) (pr : Pair2) : Bool :=
  let s := m.slot q.slot
  let n := if pr.cols = 256 then max s.n0 s.n1 else if passColh q.w0 = 0 then s.n0 else s.n1
  decide (s.mode = 2) && decide (statsMax < n + passM q.w1)

/-- The entry check of a pass. -/
def Dev.checkPass (d : Dev) (p : Nat) (q : MillCmd) : Option Refused :=
  let m := d.mill p
  let rows := passM q.w1
  let len := decide (rows = 0 ∨ 128 < rows)
  match passPair (passFmtW q.w0) (passFmtA q.w0) with
  | none => firstOf len true none
  | some pr =>
    let b := passBlock q.w0
    let wx := if passWld q.w0 then d.extentFails p q.ctx (passWaddr q.w0) (weightBytes pr b) else none
    let ax := d.extentFails p q.ctx (passAaddr q.w1) (actBytes pr b rows)
    let bound := match wx, ax with
      | some x, _ => some x
      | none, some x => some x
      | none, none => if passOverflows m q pr then some (0, 0) else none
    firstOf len (passParamBad m q pr) bound

/-- The format of a drain's target, where it is allowed (R127). -/
def drainTarget (w1 : Word) : Option Fmt :=
  match fmtOf (drainFmt w1) with
  | some .t2 => none
  | f => f

/-- MX targets: FP4, FP6, FP8 and INT8 (R127). -/
def drainMxOk (f : Fmt) : Bool := isFp68 f || f == .e2m1 || f == .int8

/-- The entry check of a drain (R126, R127, R141, R142, R144). -/
def Dev.checkDrain (d : Dev) (p : Nat) (q : MillCmd) : Option Refused :=
  let mode := ((d.mill p).slot q.slot).mode
  let rows := drainRows q.w0
  let len := decide (rows = 0 ∨ 128 < rows)
  match drainTarget q.w1 with
  | none => firstOf len true none
  | some f =>
    let out := drainOut q.w1
    let param := (drainMx q.w1 && (!drainMxOk f || decide (drainBlk q.w1 ≠ 1))) || decide (1 < drainRnd q.w1) ||
      decide (fld q.w1 16 6 ≠ 0) || decide (out = 3) || (decide (mode ≠ 2) && decide (out ≠ 0)) ||
      (decide (mode = 2) && (decide (rows ≠ 1) || decide (drainRow0 q.w0 ≠ 0)))
    let bound := if 128 < drainRow0 q.w0 + rows then some (0, 0)
      else d.extentFails p q.ctx (drainDst q.w0) (drainBytes f q.w1 rows)
    firstOf len param bound

/-- The entry check of `mill.smode` (R125). -/
def checkSmode (q : MillCmd) : Option Refused :=
  firstOf false (decide (fld q.w0 2 30 ≠ 0) || decide (fld q.w0 0 2 = 3)) none

/-- The code of a command kind (MILL_ERR_INFO.KIND). -/
def MillKind.code : MillKind → Nat
  | .pass => 0 | .drain => 1 | .smode => 2

/-- Note the failure of the command numbered `num` of a tile (R110). -/
def Mill.fail (m : Mill) (tile num status : Nat) : Mill :=
  { m with failed := m.failed ++ [{ tile := tile, num := num, status := status }] }

/-- A failure is one that the fence of a tile returns, behind the commands numbered below `n` (R110). -/
def MillFail.before (f : MillFail) (tile n : Nat) : Bool := decide (f.tile = tile ∧ f.num < n)

/-- Capture a violation of a mill (R151). -/
def Dev.millError (d : Dev) (p : Nat) (at_ : Nat × Nat) (tile kind status : Nat) : Dev :=
  d.capture (millReg Reg.MILL_ERR_ADDR_LO p) (at_.1 * 2 ^ 24 + at_.2) 0 (tile * 2 ^ 8 + kind * 2 ^ 4 + status)

/-- The queue enters FAULT (R109); the first fault stands. -/
def Mill.enterFault (m : Mill) (tile status : Nat) : Mill :=
  match m.fault with
  | some _ => m
  | none => { m with fault := some (tile, status) }

/-- The slot state that the next command is checked against, after a command has been accepted (R120, R125, R140). -/
def Mill.advance (m : Mill) (q : MillCmd) : Mill :=
  let s := m.slot q.slot
  match q.kind with
  | .drain => m
  | .smode => m.setSlot q.slot { s with mode := fld q.w0 0 2, k0 := 0, k1 := 0, n0 := 0, n1 := 0 }
  | .pass =>
    let wide := match passPair (passFmtW q.w0) (passFmtA q.w0) with
      | some pr => decide (pr.cols = 256)
      | none => false
    let lo := wide || decide (passColh q.w0 = 0)
    let hi := wide || decide (passColh q.w0 = 1)
    let n := if s.mode = 2 then passM q.w1 else 0
    let m := m.setSlot q.slot { s with
      k0 := if lo then (s.k0 + 1) % 128 else s.k0, k1 := if hi then (s.k1 + 1) % 128 else s.k1
      n0 := if lo then s.n0 + n else s.n0, n1 := if hi then s.n1 + n else s.n1 }
    if passWld q.w0 then { m with accepted := some q.w0, lastW := q.num } else m

/-- Word `w` of a mill's slot memory has been written by an agent: an armed flip mask that waits for it is applied (R511). The
address of event 0xB009 in slot memory is given nowhere (log 39). -/
def Dev.flipSlot (d : Dev) (p agent w : Nat) : Dev :=
  let s := d.reg Reg.ECC_FLIP_SEL
  if bit s 31 ∧ fld s 24 2 = 1 ∧ fld s 0 11 = p then
    let m := d.mill p
    let d := (d.setMill p { m with flips := Tab.set (fun _ => (0 : BitVec 80)) m.flips w d.flipMask }).setReg
      Reg.ECC_FLIP_SEL (putBit s 31 false)
    let (a, d) := d.freeWord
    d.event 0xB009 1 p a agent
  else d

/-- The mill queue is full (R105). -/
def Dev.millFull (d : Dev) (p : Nat) : Bool := decide (32 ≤ (d.mill p).queue.length)

/-- A tile's mill command enters the queue (R106, R108, R109): discarded in FAULT, refused, or accepted. -/
def Dev.millIssue (d : Dev) (t : Nat) (k : HCtx) (kind : MillKind) (slot : Nat) (w0 w1 w2 tid : Word) : Dev :=
  let p := t / 8
  let i := t % 8
  let m := d.mill p
  let d := match d.tileCtx t, d.logical t with
    | some c, some l => d.traceAdd c l fun a => { a with mcmd := a.mcmd + 1 }
    | _, _ => d
  match m.fault with
  | some _ => (d.setMill p { m.fail i m.next sParam with next := m.next + 1 }).count (millReg Reg.MILL_DISCARD p) 1
  | none =>
    let q0 : MillCmd :=
      { num := m.next, kind := kind, tile := i, ctx := k.val, slot := slot, w0 := w0, w1 := w1, w2 := w2, tid := tid,
        wnum := m.lastW }
    let q : MillCmd := { q0 with wnum := if kind = .pass ∧ passWld w0 then m.next else m.lastW }
    let bad := match kind with
      | .pass => d.checkPass p q
      | .drain => d.checkDrain p q
      | .smode => checkSmode q
    match bad with
    | some r =>
      let d := d.setMill p { (m.enterFault i r.status).fail i m.next r.status with next := m.next + 1 }
      (d.millError p r.at_ i kind.code r.status).eventSrc 0x2001 (srcMill p) i w0.toNat r.status slot
    | none => d.setMill p ({ m with queue := m.queue ++ [q], next := m.next + 1 }.advance q)

/-- Free entries of the mill queue (R105). -/
def Dev.millFree (d : Dev) (p : Nat) : Nat := 32 - (d.mill p).queue.length

/-- Every command of a tile with a number below `n` has completed (R110). -/
def Dev.millQuiet (d : Dev) (t n : Nat) : Bool :=
  let m := d.mill (t / 8)
  let mine := fun (q : MillCmd) => decide (q.tile = t % 8 ∧ q.num < n)
  !(m.queue.any mine) && !(m.running.any fun r => mine r.cmd)

/-- `mill.fence` returns (R110): the earliest failure among the tile's commands queued before it and behind its previous
fence, or OK. -/
def Dev.fenceReturn (d : Dev) (t : Nat) (k : HCtx) : Dev :=
  match (d.ctx t k).hold with
  | some (.fence rc n) =>
    if (d.ctx t k).run ≠ .halted ∧ d.millQuiet t n then
      let p := t / 8
      let m := d.mill p
      let st := ((m.failed.find? (·.before (t % 8) n)).map (·.status)).getD sOk
      let d := d.setMill p { m with failed := m.failed.filter fun f => !f.before (t % 8) n }
      let c := d.ctx t k
      d.setCtx t k { c.setS rc (BitVec.ofNat 32 st) with hold := none }
    else d
  | _ => d

end Sys2Proof.Machine
end

