-- ==== Sys2Proof/Machine/TimeOps.lean ====
section
/-!
DEFINITION. Global time (R426 to R428), in 1/1,024 ns: a Race cycle is exactly 640 of them (R70).
-/
namespace Sys2Proof.Machine

/-- What the clock has been slewed since its base was set: at 250 ppm until the offset is gone (R427; log 29). -/
def GTime.slewed (g : GTime) (elapsed : Nat) : Int :=
  let most := (elapsed * 640 / 4000 : Nat)
  if g.slew < 0 then - (min (g.slew.natAbs * 1024) most : Nat) else (min (g.slew.natAbs * 1024) most : Nat)

/-- Global time in 1/1,024 ns (R426). -/
def Dev.global1024 (d : Dev) : Nat :=
  let g := d.flume.time
  let e := d.cycle - g.at_
  ((g.base + e * 640 : Nat) + g.slewed e).toNat

/-- Global time in nanoseconds. -/
def Dev.globalNs (d : Dev) : Nat := d.global1024 / 1024

end Sys2Proof.Machine
end

