-- ==== Sys2Proof/Machine/SlcOps.lean ====
section
/-!
DEFINITION. Stream descriptors (R288 to R290), the Sluice queues as `slc.*` reaches them (R282 to R287, R294, R634),
and the translation of context virtual addresses (R277 to R281).
-/
namespace Sys2Proof.Machine

/-! ### Fields of a descriptor (R288) -/

def sDir (w : List Word) : Nat := fld (wordAt w 0) 20 2
def sNdim (w : List Word) : Nat := fld (wordAt w 0) 16 3
def sEsize (w : List Word) : Nat := fld (wordAt w 0) 0 13
def sTaddr (w : List Word) : Nat := fld (wordAt w 1) 0 23
def sHaddr (w : List Word) : Nat := (wordAt w 2).toNat + fld (wordAt w 3) 0 16 * 2 ^ 32
def sRate (w : List Word) : Nat := (wordAt w 4).toNat
def sPattern (w : List Word) : Word := wordAt w 5
def sCount (w : List Word) (i : Nat) : Nat := fld (wordAt w (6 + i / 2)) (16 * (i % 2)) 16
def sStride (w : List Word) (i : Nat) : Int := (wordAt w (9 + i)).toInt
def sLead (w : List Word) : Nat := (wordAt w 14).toNat

/-- The dimensions a descriptor uses. -/
def sDims (w : List Word) : List Nat := List.range (sNdim w)

/-- Elements and bytes of the stream (R289). -/
def sElems (w : List Word) : Nat := ((sDims w).map (sCount w)).foldl (· * ·) 1
def sBytes (w : List Word) : Nat := sElems w * sEsize w

/-- The virtual extent (R25): its lowest byte, and the first byte past it. -/
def sExtent (w : List Word) : Int × Int :=
  let span := fun i => ((sCount w i : Int) - 1) * sStride w i
  (((sDims w).map fun i => min 0 (span i)).foldl (· + ·) (sHaddr w : Int),
   ((sDims w).map fun i => max 0 (span i)).foldl (· + ·) ((sHaddr w + sEsize w : Nat) : Int))

/-- A reserved bit of a descriptor is set (R288). -/
def sReserved (w : List Word) : Bool :=
  decide (fld (wordAt w 0) 22 10 ≠ 0) || bit (wordAt w 0) 19 || decide (fld (wordAt w 0) 13 3 ≠ 0) ||
  decide (fld (wordAt w 1) 23 9 ≠ 0) || decide (fld (wordAt w 3) 16 16 ≠ 0) || decide (fld (wordAt w 8) 16 16 ≠ 0) ||
  decide (wordAt w 15 ≠ 0)

/-- The field checks of a descriptor (R290): `ERR_LEN`, `ERR_PARAM`, `ERR_BOUND`, or OK. -/
def descStatus (w : List Word) (vlim bound : Nat) : Nat :=
  let n := sNdim w
  let e := sEsize w
  let dir := sDir w
  let x := sExtent w
  if n = 0 ∨ 5 < n ∨ (sDims w).any (fun i => sCount w i = 0) ∨ e = 0 ∨ 4096 < e ∨ (dir = 2 ∧ 2 ^ 48 ≤ sBytes w) then sLen
  else if e % 8 ≠ 0 ∨ sHaddr w % 8 ≠ 0 ∨ (sDims w).any (fun i => sStride w i % 8 ≠ 0) ∨ (dir ≠ 2 ∧ sTaddr w % 8 ≠ 0) ∨
      dir = 3 ∨ sReserved w ∨ ((List.range 5).drop n).any (fun i => sCount w i ≠ 0 ∨ sStride w i ≠ 0) ∨ 102400 < sRate w
    then sParam
  else if x.1 < 0 ∨ (vlim : Int) < x.2 then sBound
  else if dir ≠ 2 ∧ bound < sTaddr w + sBytes w then sBound
  else sOk

/-- The number of an element's index in dimension `i` (R289). -/
def sIndex (w : List Word) (n : Nat) (i : Nat) : Nat :=
  if i < sNdim w then n / ((List.range i).map (sCount w)).foldl (· * ·) 1 % sCount w i else 0

/-- The context virtual address of element `n` (R289). -/
def sElemVa (w : List Word) (n : Nat) : Nat :=
  (((sDims w).map fun i => (sIndex w n i : Int) * sStride w i).foldl (· + ·) (sHaddr w : Int)).toNat

/-! ### Registers of a context -/

/-- `SLC_VLIMc`. -/
def Dev.vlim (d : Dev) (c : Nat) : Nat :=
  (d.reg (at1 Reg.SLC_VLIMc_LO 8 c)).toNat + (d.reg (at1 Reg.SLC_VLIMc_HI 8 c)).toNat * 2 ^ 32

/-- `SLC_PTBc`. -/
def Dev.ptb (d : Dev) (c : Nat) : Nat :=
  (d.reg (at1 Reg.SLC_PTBc_LO 8 c)).toNat + (d.reg (at1 Reg.SLC_PTBc_HI 8 c)).toNat * 2 ^ 32

/-- Capture a violation of the store block (R310); `tile` marks a tile-memory offset. -/
def Dev.slcError (d : Dev) (tile : Bool) (addr c source status : Nat) : Dev :=
  d.capture Reg.SLC_ERR_ADDR_LO (addr % 2 ^ 32) (if tile then 2 ^ 31 else addr / 2 ^ 32 % 2 ^ 16)
    (c * 2 ^ 12 + source * 2 ^ 8 + status)

/-! ### Translation (R277 to R281) -/

/-- The outcome of a walk. -/
inductive Xlat where
  | ok (host : Bool) (addr : Nat)
  | fault (reason level : Nat)
  | refused (status : Nat)
  deriving DecidableEq, Repr

/-- The bytes from device address `a` up lie in usable HBM (R37, R39). -/
def Dev.inHbm (d : Dev) (a n : Nat) : Bool := decide (a + n ≤ d.hbmSize)

/-- An entry that is no leaf or pointer its level allows (R279, R280). -/
def Dev.entryBad (d : Dev) (level e : Nat) : Bool :=
  let type := fldN e 1 2
  let host := fldN e 4 1
  let addr := fldN e 12 36 * 4096
  let size := if type = 1 then 0x200000 else 0x10000
  let next := if level = 3 then 256 else 4096
  decide (fldN e 5 1 ≠ 0) || decide (type = 3) ||
  (if type = 0 then decide (level = 4) || decide (host ≠ 0) || decide (fldN e 3 1 ≠ 0) || decide (fldN e 48 16 ≠ 0) ||
      !d.inHbm addr next
   else decide (type = 1 ∧ level ≠ 3) || decide (type = 2 ∧ level ≠ 4) || decide (addr % size ≠ 0) ||
      decide (host = 0 ∧ fldN e 48 16 ≠ 0) || (decide (host = 0) && !d.inHbm addr size))

/-- The index of a virtual address at a level (R278). -/
def levelIndex (level va : Nat) : Nat := if level = 4 then fldN va 16 5 else fldN va (48 - 9 * level) 9

/-- Walk from a table at a level (R278 to R280). Answers the leaf found: the page's size and the entry. -/
def Dev.walkFrom (d : Dev) (va : Nat) : (fuel : Nat) → (table : Nat) → Dev × (Xlat ⊕ Nat × Nat)
  | 0, _ => (d, .inl (.fault 1 4))
  | n + 1, table =>
    let level := 4 - n
    let r := d.read 7 (table + 8 * levelIndex level va) 8
    match r.bytes with
    | none => (r.dev, .inl (.refused sUe))
    | some bs =>
      let e := leNat bs
      if e % 2 = 0 then (r.dev, .inl (.fault 0 level))
      else if r.dev.entryBad level e then (r.dev, .inl (.fault 1 level))
      else if fldN e 1 2 = 0 then r.dev.walkFrom va n (fldN e 12 36 * 4096)
      else (r.dev, .inr (if fldN e 1 2 = 1 then 0x200000 else 0x10000, e))

/-- The outcome of an access through a page (R280). -/
def throughPage (va page : Nat) (host : Bool) (addr : Nat) (w write : Bool) : Xlat :=
  if write && !w then .refused sPerm else .ok host (addr + (va - page))

/-- Translate an access of a mill for a context (R277 to R281). A cached translation may be used or not. -/
def Dev.walk (d : Dev) (mill c va : Nat) (write : Bool) : Dev × Xlat :=
  let hit := d.xcache.find? fun x => decide (x.mill = mill ∧ x.ictx = c ∧ x.page ≤ va ∧ va < x.page + x.size)
  match (if Config.freeBool d.freeIx then hit else none) with
  | some x => (d.draw, throughPage va x.page x.host x.addr x.w write)
  | none =>
    let root := d.ptb c
    if !d.inHbm root 4096 then (d.draw, .fault 1 1)
    else match d.draw.walkFrom va 4 root with
      | (d, .inl x) => (d, x)
      | (d, .inr (size, e)) =>
        let page := alignDown size va
        let host := decide (fldN e 4 1 = 1)
        let addr := fldN e 12 36 * 4096 + (if host then fldN e 48 16 * 2 ^ 48 else 0)
        let w := decide (fldN e 3 1 = 1)
        let x : XlatEntry := { mill := mill, ictx := c, page := page, size := size, host := host, addr := addr, w := w }
        let keep := d.xcache.filter fun y =>
          !decide (y.mill = mill ∧ y.ictx = c ∧ y.page < page + size ∧ page < y.page + y.size)
        ({ d with xcache := keep ++ [x] }, throughPage va page host addr w write)

/-! ### Queues -/

/-- The key of queue `q` of a tile: mill * 32 + 4 * (tile in its mill) + q (R282). -/
def queueKey (t q : Nat) : Nat := 4 * t + q

/-- STATE of a queue (R285). -/
def SQueue.state (q : SQueue) : Nat :=
  if q.halt.isSome then 3 else if q.descs.isEmpty then 0 else if q.faultSince.isSome then 2 else 1

/-- The queue status word (R285). -/
def SQueue.word (q : SQueue) : Word :=
  BitVec.ofNat 32 (q.state * 2 ^ 29 + q.code * 2 ^ 24 + q.descs.length * 2 ^ 20 + q.limit * 2 ^ 8 + q.reqs.length)

/-- The next descriptor reaches the head of its queue (R297). -/
def SQueue.head (q : SQueue) (now cycle : Nat) : SQueue :=
  { q with t0 := now, pos := 0, since := cycle, done := 0, credited := [], failed := none, failPos := none
           faultSince := none, faultDue := none, reqs := [] }

/-- A descriptor enters a queue (R282, R283). -/
def Dev.pushDesc (d : Dev) (key : Nat) (w : List Word) (base bound : Nat) (entry : Option Nat) : Dev :=
  let q := d.queue key
  let x : SDesc := { num := q.next, w := w, base := base, bound := bound, entry := entry }
  let q' := if q.descs.isEmpty then q.head d.global1024 d.cycle else q
  d.setQueue key { q' with descs := q.descs ++ [x], next := q.next + 1 }

/-- The checks of an issue (R287, R290): the status and the descriptor read. -/
def Dev.checkDesc (d : Dev) (t : Nat) (k : HCtx) (key addr : Nat) : Dev × Nat × List Word :=
  let c := d.ctx t k
  match (d.queue key).halt with
  | some h => (d, h, [])
  | none =>
    if addr % 64 ≠ 0 then (d, sParam, [])
    else if !inBound c.bound.toNat addr 64 then (d, sBound, [])
    else
      let r := d.read 7 (ctxAddr t c addr) 64
      match r.bytes with
      | none => (r.dev, sUe, [])
      | some bs =>
        let w := wordsOf 16 bs
        (r.dev, descStatus w (d.vlim ((d.tileCtx t).getD 0)) c.bound.toNat, w)

/-- Log and count a refused descriptor (R283): SOURCE 0 `slc.issue`, 1 exchange setup (log 32). -/
def Dev.refuseDesc (d : Dev) (t : Nat) (k : HCtx) (q addr source status : Nat) : Dev :=
  let d := d.slcError true ((d.ctx t k).base.toNat + addr) ((d.tileCtx t).getD 0) source status
  (d.count Reg.SLC_REFUSED 1).event 0x5001 t q status addr

/-- A refused queue operand or limit (R294, R634; log 31). -/
def Dev.refuseQueue (d : Dev) (t ra status : Nat) : Dev :=
  (d.slcError false 0 ((d.tileCtx t).getD 0) 0 status).event 0x5001 t ra status 0

/-- The checks of an `slc.issue`: of one that has stalled, its descriptor has passed them, and only HALT is left (R283). -/
def Dev.issueCheck (d : Dev) (t : Nat) (k : HCtx) (key addr : Nat) (kept : Option (List Word)) : Dev × Nat × List Word :=
  match kept with
  | none => d.checkDesc t k key addr
  | some w => (d, ((d.queue key).halt).getD sOk, w)

/-- `slc.issue` once its checks are made and an entry is free (R283). -/
def Dev.slcIssue (d : Dev) (t : Nat) (k : HCtx) (ra addr rc : Nat) (kept : Option (List Word) := none) : Dev :=
  if 3 < ra then (d.refuseQueue t ra sParam).putS t k rc (BitVec.ofNat 32 sParam)
  else
    let key := queueKey t ra
    let (d, st, w) := d.issueCheck t k key addr kept
    if st ≠ sOk then (d.refuseDesc t k ra addr 0 st).putS t k rc (BitVec.ofNat 32 st)
    else
      let c := d.ctx t k
      (d.pushDesc key w c.base.toNat c.bound.toNat none).putS t k rc (BitVec.ofNat 32 sOk)

/-- `slc.issue` stalls: its descriptor is acceptable and the queue holds eight (R283). -/
def Dev.slcStalls (d : Dev) (t : Nat) (k : HCtx) (ra addr : Nat) (kept : Option (List Word)) : Bool :=
  decide (ra ≤ 3) && decide (8 ≤ (d.queue (queueKey t ra)).descs.length) &&
    decide ((d.issueCheck t k (queueKey t ra) addr kept).2.1 = sOk)

/-- The descriptor that a stalling `slc.issue` keeps, read once (R283). -/
def Dev.descOf (d : Dev) (t : Nat) (k : HCtx) (ra addr : Nat) (kept : Option (List Word)) : Dev × List Word :=
  let x := d.issueCheck t k (queueKey t ra) addr kept
  (x.1, x.2.2)

/-- `slc.stat` (R285, R634). -/
def Dev.slcStat (d : Dev) (t : Nat) (k : HCtx) (ra rc : Nat) : Dev :=
  if 3 < ra then (d.refuseQueue t ra sParam).putS t k rc 0xFFFFFFFF
  else d.putS t k rc (d.queue (queueKey t ra)).word

/-- `slc.lim` (R294, R634). -/
def Dev.slcLim (d : Dev) (t : Nat) (k : HCtx) (ra rb rc : Nat) : Dev :=
  if 3 < ra then (d.refuseQueue t ra sParam).putS t k rc (BitVec.ofNat 32 sParam)
  else if rb = 0 ∨ 64 < rb then (d.refuseQueue t ra sLen).putS t k rc (BitVec.ofNat 32 sLen)
  else
    let key := queueKey t ra
    (d.setQueue key { d.queue key with limit := rb }).putS t k rc (BitVec.ofNat 32 sOk)

/-- `slc.wait` returns where it waits and its queue is quiet: CODE, which becomes OK (R286). -/
def Dev.slcReturn (d : Dev) (t : Nat) (k : HCtx) : Dev :=
  match (d.ctx t k).hold with
  | some (.slc qn rc) =>
    let key := queueKey t qn
    let q := d.queue key
    if (d.ctx t k).run ≠ .halted ∧ queueQuiet q then
      let c := d.ctx t k
      (d.setQueue key { q with code := sOk }).setCtx t k { c.setS rc (BitVec.ofNat 32 q.code) with hold := none }
    else d
  | _ => d

/-- `slc.wait` (R286, R634): the context waits until the queue is quiet. -/
def Dev.slcWait (d : Dev) (t : Nat) (k : HCtx) (ra rc : Nat) : Dev :=
  if 3 < ra then (d.refuseQueue t ra sParam).putS t k rc (BitVec.ofNat 32 sParam)
  else (d.setCtx t k { d.ctx t k with hold := some (.slc ra rc) }).slcReturn t k

end Sys2Proof.Machine
end

