-- ==== Sys2Proof/Machine/XchSetup.lean ====
section
/-!
DEFINITION. The exchange control block, exchange entries and the setup pass (R198 to R204).
-/
namespace Sys2Proof.Machine

/-! ### Fields of an entry (R201) -/

def xKind (w : List Word) : Nat := fld (wordAt w 0) 28 4
def xRemote (w : List Word) : Bool := bit (wordAt w 0) 24
/-- DID, RID or CHAIN. -/
def xId (w : List Word) : Nat := fld (wordAt w 0) 16 8
def xTag (w : List Word) : Nat := fld (wordAt w 0) 12 12
def sendPass (w : List Word) : Bool := bit (wordAt w 0) 25
def sendDtile (w : List Word) : Nat := fld (wordAt w 0) 0 11
def sendSrc (w : List Word) : Nat := fld (wordAt w 1) 0 23
def sendDoff (w : List Word) : Nat := fld (wordAt w 2) 0 23
def sendLen (w : List Word) : Nat := fld (wordAt w 3) 0 23
def sendDfa (w : List Word) : Nat := fld (wordAt w 4) 0 16
def recvBase (w : List Word) : Nat := fld (wordAt w 1) 0 23
def recvSize (w : List Word) : Nat := fld (wordAt w 2) 0 23
def recvExpect (w : List Word) : Nat := fld (wordAt w 3) 0 23
/-- DL of a RECV or STREAM entry. -/
def xDeadline (w : List Word) : Nat := (wordAt w 4).toNat
def redSrc (w : List Word) : Nat := fld (wordAt w 1) 0 23
def redLen (w : List Word) : Nat := fld (wordAt w 2) 0 23
def rnIn (w : List Word) : Nat := fld (wordAt w 0) 9 3
def rnBf16 (w : List Word) : Bool := bit (wordAt w 0) 8
def rnBuf (w : List Word) : Nat := fld (wordAt w 0) 4 4
def rnLocal (w : List Word) : Bool := bit (wordAt w 0) 3
def rnRoot (w : List Word) : Bool := bit (wordAt w 0) 2
def rnDrid (w : List Word) : Nat := fld (wordAt w 1) 24 8
def rnLen (w : List Word) : Nat := fld (wordAt w 1) 0 23
def rnPtile (w : List Word) : Nat := fld (wordAt w 2) 0 11
def rnDoff (w : List Word) : Nat := fld (wordAt w 3) 0 23
def rnChild (w : List Word) (j : Nat) : Nat := fld (wordAt w (4 + j / 2)) (16 * (j % 2)) 11
def rnDfa (w : List Word) : Nat := fld (wordAt w 7) 16 16
def passEnd (w : List Word) : Bool := bit (wordAt w 0) 27
def passRid (w : List Word) : Nat := fld (wordAt w 0) 8 8
def passNext (w : List Word) : Nat := fld (wordAt w 1) 0 11
def strLead (w : List Word) : Bool := bit (wordAt w 0) 26
def strQueue (w : List Word) : Nat := fld (wordAt w 0) 0 2
def strDesc (w : List Word) : Nat := fld (wordAt w 1) 0 23

/-- The bits that the kinds list, word by word (R201); every other bit must be 0. -/
def xListed (kind : Nat) : List Word :=
  match kind with
  | 1 => [0xF3FF07FF, 0x7FFFFF, 0x7FFFFF, 0x7FFFFF, 0xFFFF, 0, 0, 0]
  | 2 => [0xF0FF0000, 0x7FFFFF, 0x7FFFFF, 0x7FFFFF, 0xFFFFFFFF, 0, 0, 0]
  | 3 => [0xF0FFF000, 0x7FFFFF, 0x7FFFFF, 0, 0, 0, 0, 0]
  | 4 => [0xF1FFFFFC, 0xFF7FFFFF, 0x7FF, 0x7FFFFF, 0x07FF07FF, 0x07FF07FF, 0x07FF07FF, 0xFFFF07FF]
  | 5 => [0xF8FFFF00, 0x7FF, 0, 0, 0, 0, 0, 0]
  | 6 => [0xF4000003, 0x7FFFFF, 0, 0, 0xFFFFFFFF, 0, 0, 0]
  | _ => [0, 0, 0, 0, 0, 0, 0, 0]

/-- An entry sets a bit that its kind does not list. -/
def xReserved (w : List Word) : Bool :=
  (List.range 8).any fun i => decide (wordAt w i &&& ~~~(wordAt (xListed (xKind w)) i) ≠ 0)

/-- Chunks of a reduction (R220). -/
def rnChunks (w : List Word) : Nat := ceilDiv (rnLen w) 256

/-- An entry in execution before anything of it has happened. -/
def XEntry.fresh (w : List Word) : XEntry :=
  { w := w, next := 0, count := 0, issued := false, done := false, late := false, credit := 0, inputs := [], kidFa := [], sw := [] }

/-! ### Checks of one entry (R202), against the whole program `ws` -/

/-- The earlier entries of the entry's kind. -/
def xEarlier (ws : List (List Word)) (i : Nat) (w : List Word) : List (List Word) :=
  (ws.take i).filter fun v => decide (xKind v = xKind w)

/-- The running total of NIN × BUF up to and with entry `i`. -/
def xBufs (ws : List (List Word)) (i : Nat) : Nat :=
  (((ws.take (i + 1)).filter fun v => decide (xKind v = 4)).map fun v => rnIn v * rnBuf v).foldl (· + ·) 0

/-- `ERR_LEN`. -/
def xLenBad (ws : List (List Word)) (i : Nat) (w : List Word) : Bool :=
  match xKind w with
  | 1 => decide (sendLen w < 8 ∨ 0x600000 < sendLen w)
  | 2 => decide (64 ≤ (xEarlier ws i w).length ∨ recvExpect w < 8 ∨ recvSize w < recvExpect w)
  | 3 => decide (redLen w = 0)
  | 4 => decide (64 ≤ (xEarlier ws i w).length ∨ rnBuf w = 0 ∨ 8 < rnBuf w ∨ rnLen w = 0 ∨ 32 < xBufs ws i) ||
      (decide (rnIn w = 0) && !rnLocal w)
  | 5 => decide (16 ≤ (xEarlier ws i w).length)
  | _ => false

/-- The logical tiles that an entry names on this device. -/
def xTargets (w : List Word) : List Nat :=
  match xKind w with
  | 1 => if xRemote w then [] else [sendDtile w]
  | 4 => (if xRemote w then [] else [rnPtile w]) ++ (List.range (rnIn w)).map (rnChild w)
  | 5 => if passEnd w then [] else [passNext w]
  | _ => []

/-- `ERR_PARAM`. -/
def Dev.xParamBad (d : Dev) (c : Nat) (ws : List (List Word)) (i : Nat) (w : List Word) : Bool :=
  decide (xKind w = 0 ∨ 6 < xKind w) || xReserved w || (xTargets w).any (fun l => (d.mapTile c l).isNone) ||
  (match xKind w with
  | 1 => decide (sendSrc w % 8 ≠ 0 ∨ sendDoff w % 8 ≠ 0 ∨ sendLen w % 8 ≠ 0)
  | 2 => decide (recvBase w % 8 ≠ 0 ∨ recvSize w % 8 ≠ 0) || (xEarlier ws i w).any fun v => decide (xId v = xId w)
  | 3 => !ws.any fun v => decide (xKind v = 4 ∧ xTag v = xTag w ∧ rnLen v = redLen w)
  | 4 => decide (rnLen w % 8 ≠ 0 ∨ rnDoff w % 8 ≠ 0) || (xEarlier ws i w).any (fun v => decide (xTag v = xTag w)) ||
      (rnLocal w && !ws.any fun v => decide (xKind v = 3 ∧ xTag v = xTag w))
  | 5 => (xEarlier ws i w).any fun v => decide (xId v = xId w)
  | _ => false)

/-- The extent of an entry in context S (R24): its first byte and its length. -/
def xExtent (w : List Word) : Nat × Nat :=
  match xKind w with
  | 1 => (sendSrc w, sendLen w)
  | 2 => (recvBase w, recvSize w)
  | 3 => (redSrc w, redLen w)
  | _ => (0, 0)

/-- The field checks of an entry in the order of R26. -/
def Dev.entryStatus (d : Dev) (c bound : Nat) (ws : List (List Word)) (i : Nat) (w : List Word) : Nat :=
  if 1 ≤ xKind w ∧ xKind w ≤ 6 ∧ xLenBad ws i w then sLen
  else if d.xParamBad c ws i w then sParam
  else if !inBound bound (xExtent w).1 (xExtent w).2 then sBound
  else sOk

/-! ### The setup pass -/

/-- A refusal at setup (R203): the index reported, the status, KIND where an entry is at fault, and the offset captured. -/
structure SetupFail where
  index : Nat
  status : Nat
  kind : Option Nat
  offset : Nat
  deriving DecidableEq, Repr

/-- The program as read: an entry that holds an uncorrectable word is none. -/
def Dev.readProgram (d : Dev) : (n a : Nat) → Dev × List (Option (List Word))
  | 0, _ => (d, [])
  | n + 1, a =>
    let r := d.read 6 a 32
    let rest := r.dev.readProgram n (a + 32)
    (rest.1, r.bytes.map (wordsOf 8) :: rest.2)

/-- Check the entries `todo` in ascending order (R202): the entries accepted, or the first failure. A STREAM entry's
descriptor is checked as `slc.issue` would (R202, R290). -/
def Dev.checkEntries (d : Dev) (t c bound : Nat) (ws : List (Option (List Word))) :
    (todo : List Nat) → Dev × List XEntry × Option SetupFail
  | [] => (d, [], none)
  | i :: rest =>
    match ws.getD i none with
    | none => (d, [], some { index := i, status := sUe, kind := none, offset := 0 })
    | some w =>
      let st := d.entryStatus c bound (ws.map fun x => x.getD []) i w
      if st ≠ sOk then
        let off := if st = sBound then (d.ctx t 0).base.toNat + (xExtent w).1 else 0
        (d, [], some { index := i, status := st, kind := some (xKind w), offset := off })
      else if xKind w = 6 then
        let (d, st, sw) := d.checkDesc t 0 (queueKey t (strQueue w)) (strDesc w)
        if st ≠ sOk then
          (d.refuseDesc t 0 (strQueue w) (strDesc w) 1 st, [],
            some { index := i, status := st, kind := some 6, offset := (d.ctx t 0).base.toNat + strDesc w })
        else
          let (d, es, f) := d.checkEntries t c bound ws rest
          (d, { XEntry.fresh w with sw := sw } :: es, f)
      else
        let (d, es, f) := d.checkEntries t c bound ws rest
        (d, XEntry.fresh w :: es, f)

/-- The device address of a tile's exchange control block (R198). -/
def Dev.xcbAddr (d : Dev) (t : Nat) : Nat := ctxAddr t (d.ctx t 0) ((d.ctx t 0).bound.toNat - 64)

/-- Write XSTAT and XCYC as one word (R198, R203), and note the status in the trace (R390). -/
def Dev.writeXstat (d : Dev) (c t status index : Nat) : Dev :=
  let cyc := sat 0xFFFFFFFF (d.cycle - (d.seq t).start)
  let d := d.writeWords 6 (d.xcbAddr t + 8) (bytesOf 4 (index * 2 ^ 16 + status) ++ bytesOf 4 cyc)
  match d.logical t with
  | some l => d.traceAdd c l fun a => { a with xstat := status }
  | none => d

/-- An exchange error met in a tile's own program (R226): XSTAT and XCYC, and the stop. -/
def Dev.xchFail (d : Dev) (c t status index : Nat) : Dev :=
  (d.writeXstat c t status index).exchangeError c t status index

/-- A refusal at setup (R203): the capture, event 0x3001 (KIND free where there is no entry), and the exchange error. -/
def Dev.setupRefused (d : Dev) (c t : Nat) (f : SetupFail) : Dev :=
  let d := d.raceError f.offset t c 0 f.status
  let d := d.writeXstat c t f.status f.index
  let (k, d) := match f.kind with
    | some k => (k, d)
    | none => d.freeWord
  (d.event 0x3001 t f.index f.status k).exchangeError c t f.status f.index

/-- Skip the entries that issue nothing: RECV, RNODE and PASS, and RED, whose read begins as it issues (R205). -/
def XSeq.skip (q : XSeq) : (fuel : Nat) → XSeq
  | 0 => q
  | n + 1 =>
    match q.entries[q.pos]? with
    | none => q
    | some e =>
      if xKind e.w = 1 ∨ xKind e.w = 6 then q
      else XSeq.skip { q with pos := q.pos + 1, entries := q.entries.set q.pos { e with issued := true } } n

/-- A combining credit for a child on another device (R222, R245; log 61): OP 3 and the tag, with the credits in ARG2. -/
def Dev.creditFrame (d : Dev) (c t tag child fa n : Nat) : Frame :=
  { cls := 0, kind := 6, ttl := 64, keyId := false, dfa := fa, sfa := d.fa, job := (d.coll c).job, lseq := 0, flow := 0
    arg0 := BitVec.ofNat 32 (headerH0 0 4 c 1 child ((d.logical t).getD 0)), arg1 := BitVec.ofNat 32 (sigWord 3 tag)
    arg2 := BitVec.ofNat 32 n, payload := [] }

/-- A node grants each of its children `n` combining credits (R222): SIG packets to the children's sequencers, and SIG frames to those
that it knows to be on another device (log 65). -/
def Dev.sendCredits (d : Dev) (c t : Nat) (e : XEntry) (n : Nat) : Dev :=
  (List.range (rnIn e.w)).foldl (fun d j =>
    let l := rnChild e.w j
    match Tab.find e.kidFa j with
    | some fa => d.sendFrame 32 (d.creditFrame c t (xTag e.w) l fa n)
    | none => match d.mapTile c l with
      | some s => d.inject { packet .sig c t s with tag := xTag e.w, chunk := n }
      | none => d) d

/-- A node holds back a credit: the buffers of one of its children are full (R221, R222). -/
def XEntry.holdsCredit (e : XEntry) : Bool :=
  decide (xKind e.w = 4) && (List.range (rnIn e.w)).any fun j =>
    decide (rnBuf e.w ≤ (e.inputs.filter fun x => decide (x.1 = j)).length)

/-- The setup pass succeeds: the port opens, and credits go to the children (R204, R222). -/
def Dev.openPort (d : Dev) (c t : Nat) (es : List XEntry) : Dev :=
  let q := d.seq t
  let q' : XSeq := { q with stage := .opened, entries := es, pos := 0 }
  let d := d.setSeq t (q'.skip es.length)
  es.foldl (fun d e =>
    if xKind e.w = 4 then d.sendCredits c t e (rnBuf e.w) else d) d

/-- The setup pass of a tile (R202 to R204). The whole of the XCB is read: a word of it that is uncorrectable refuses the program, be it
one that the device ignores (DEDUCED, log 197). -/
def Dev.setupPass (d : Dev) (c t : Nat) : Dev :=
  let k := d.ctx t 0
  let bound := k.bound.toNat
  let none' := fun (st off : Nat) => ({ index := 0x1FFF, status := st, kind := none, offset := off } : SetupFail)
  let r := d.read 6 (d.xcbAddr t) 64
  let d := r.dev
  match r.bytes with
  | none => d.setupRefused c t (none' sUe 0)
  | some bs =>
    let prog := leAt bs 0 4
    let n := leAt bs 4 2
    if 4096 < n then d.setupRefused c t (none' sLen 0)
    else if prog % 32 ≠ 0 then d.setupRefused c t (none' sParam 0)
    else if n ≠ 0 ∧ !inBound bound prog (32 * n) then
      d.setupRefused c t (none' sBound ((k.base.toNat + prog) % 2 ^ 23))
    else
      let (d, ws) := d.readProgram n (ctxAddr t k prog)
      let (d, es, f) := d.checkEntries t c bound ws (List.range n)
      match f with
      | some f => d.setupRefused c t f
      | none => d.openPort c t es

end Sys2Proof.Machine
end

