-- ==== Sys2Proof/Machine/Exchange.lean ====
section
/-!
DEFINITION. The exchange phase after setup: SEND packets, stream entries, arrivals, answers, combining, and the end of the
phase (R195, R196, R204 to R206, R213 to R228).
-/
namespace Sys2Proof.Machine

/-! ### Routing (R213 to R217) -/

/-- The mesh coordinates of a physical tile (R213). -/
def meshOf (t : Nat) : Nat × Nat :=
  let p := t / 8
  let k := t % 8
  let m := p % 9
  let c := p / 9
  let b := c / 3
  (18 * (b % 4) + 6 * (c % 3) + 2 * (m % 3) + k % 2, 12 * (b / 4) + 4 * (m / 3) + k / 2)

/-- The physical tile at mesh coordinates. -/
def tileAt (x y : Nat) : Nat :=
  let b := x / 18 + 4 * (y / 12)
  let u := x % 18
  let v := y % 12
  let p := 9 * (3 * b + u / 6) + (u % 6 / 2 + 3 * (v / 4))
  8 * p + (u % 2 + 2 * (v % 4))

/-- One step from `x` toward `y`. -/
def toward (x y : Nat) : Nat := if x < y then x + 1 else if y < x then x - 1 else x

/-- The next router on the way: X then Y, or on an escape lane Y then X (R214, R216). -/
def nextHop (escape : Bool) (at_ dst : Nat) : Nat :=
  let (x, y) := meshOf at_
  let (u, v) := meshOf dst
  if escape then (if y ≠ v then tileAt x (toward y v) else tileAt (toward x u) y)
  else if x ≠ u then tileAt (toward x u) y else tileAt x (toward y v)

/-- The exception table blocks a router (R216). -/
def Dev.blocked (d : Dev) (t : Nat) : Bool :=
  (List.range 16).any fun n =>
    let w := d.reg (at1 Reg.RACE_EXCn 4 n)
    bit w 31 && decide (fld w 0 11 = t)

/-- A move may meet a single-bit link error, which the receiving router corrects and counts: chance decides (R212; log 200). -/
def Dev.linkCe (d : Dev) : Dev := if Config.freeBool d.freeIx then d.draw.count Reg.RACE_LINK_CE 1 else d.draw

/-- A packet that has not arrived moves one step: over the crossbar where its leg began in the destination's mill, or to the next
router, taking the escape lane before a blocked one (R214, R216). -/
def Dev.hopPacket (d : Dev) (n : Nat) : Dev :=
  match d.race[n]? with
  | none => d
  | some p =>
    if p.at_ = p.dst then d
    else
    let d := d.linkCe
    if p.leg / 8 = p.dst / 8 then { d with race := d.race.set n { p with at_ := p.dst } }
    else
      let turn := !p.escape && d.blocked (nextHop false p.at_ p.dst)
      let esc := p.escape || turn
      let d := if turn then d.count Reg.RACE_DETOUR 1 else d
      { d with race := d.race.set n { p with at_ := nextHop esc p.at_ p.dst, escape := esc } }

/-! ### Sequencers -/

/-- The image context whose exchange a tile runs, while it may issue (R226). -/
def Dev.xchOf (d : Dev) (t : Nat) : Option Nat :=
  match d.tileCtx t with
  | some c => if (d.img c).state = .running ∧ !(d.img c).halted then some c else none
  | none => none

/-- Change one entry of a tile's program. -/
def Dev.putEntry (d : Dev) (t i : Nat) (e : XEntry) : Dev :=
  let q := d.seq t
  d.setSeq t { q with entries := q.entries.set i e }

/-- The release reaches the sequencer (R195). -/
def Dev.xchRelease (d : Dev) (t : Nat) : Dev :=
  match d.xchOf t with
  | none => d
  | some _ =>
    let q := d.seq t
    if q.stage = .due then d.setSeq t { q with stage := .setup, start := d.cycle, entries := [], pos := 0 } else d

/-- The setup pass ends (R202). -/
def Dev.xchSetup (d : Dev) (t : Nat) : Dev :=
  match d.xchOf t with
  | none => d
  | some c => if (d.seq t).stage = .setup then d.setupPass c t else d

/-- A packet of a SEND or a reduction goes to another device (R402, R422). -/
def Dev.sendRemote (d : Dev) (t : Nat) (p : Packet) (lt dfa flm : Nat) : Dev :=
  let q := { p with remote := true, dst := lt, src := (d.logical t).getD 0, dfa := dfa, sfa := d.fa }
  d.sendFrame 32 (d.packetFrame q flm)

/-- The next packet of the SEND entry at the front issues (R205). An uncorrectable source word is an exchange error
(R226). -/
def Dev.sendNext (d : Dev) (t : Nat) : Dev :=
  match d.xchOf t with
  | none => d
  | some c =>
    let q := d.seq t
    match q.stage, q.entries[q.pos]? with
    | .opened, some e =>
      if xKind e.w ≠ 1 then d
      else
        let w := e.w
        let off := 256 * e.next
        let n := min 256 (sendLen w - off)
        let src := (d.ctx t 0).base.toNat + sendSrc w + off
        let r := d.read 6 (tileAddr t src) n
        match r.bytes with
        | none => (r.dev.raceError src t c 1 sUe).xchFail c t sUe q.pos
        | some bs =>
          let last := decide (sendLen w ≤ off + 256)
          let q' : XSeq := { q with entries := q.entries.set q.pos { e with next := e.next + 1, issued := last }
                                    pos := if last then q.pos + 1 else q.pos }
          let d := r.dev.setSeq t (q'.skip q.entries.length)
          let p := { packet (if sendPass w then .pass else .data) c t 0 with
            id := xId w, offset := (sendDoff w + off) % 2 ^ 23, last := last, payload := bs, ref := q.pos }
          if xRemote w then d.sendRemote t p (sendDtile w) (sendDfa w) 2
          else match d.mapTile c (sendDtile w) with
            | some s => d.inject { p with dst := s }
            | none => d
    | _, _ => d

/-- The STREAM entry at the front enters its Sluice queue once an entry there is free (R201, R205, R287). A lead-in may do so after the
phase has ended (R196). -/
def Dev.streamNext (d : Dev) (t : Nat) : Dev :=
  match d.xchOf t with
  | none => d
  | some c =>
    let q := d.seq t
    match q.entries[q.pos]? with
    | some e =>
      if xKind e.w ≠ 6 ∨ (q.stage ≠ .opened ∧ q.stage ≠ .ended) then d
      else
        let key := queueKey t (strQueue e.w)
        match (d.queue key).halt with
        | some st => d.xchFail c t st q.pos
        | none =>
          if 8 ≤ (d.queue key).descs.length then d
          else
            let k := d.ctx t 0
            let q' : XSeq := { q with entries := q.entries.set q.pos { e with issued := true }, pos := q.pos + 1 }
            let d := d.setSeq t (q'.skip q.entries.length)
            d.pushDesc key e.sw k.base.toNat k.bound.toNat (some q.pos)
    | none => d

/-! ### Padding (R228) -/

/-- An entry of a tile completes: it is done, and late where it has passed its DL. -/
def Dev.entryDone (d : Dev) (c t i : Nat) : Dev :=
  let q := d.seq t
  match q.entries[i]? with
  | none => d
  | some e =>
    let dl := if xKind e.w = 2 ∨ xKind e.w = 6 then xDeadline e.w else 0
    let took := d.cycle - q.start
    let late := decide (dl ≠ 0 ∧ dl < took)
    let d := d.putEntry t i { e with done := true, late := late }
    if late then
      let m := d.measure c
      ((d.setMeasure c { m with pad := m.pad + 1 }).count Reg.RACE_PAD_OVR 1).event 0x3004 t i dl (took - dl)
    else d

/-! ### Arrivals (R204, R224, R227) -/

/-- What a tile port does with an arriving packet of BULK or RED. -/
inductive PortAct where
  /-- the image context that takes it -/
  | accept (c : Nat)
  | refuse (c : Nat)
  | wait
  | discard
  | fenced
  deriving DecidableEq, Repr

/-- R204, R219, R226, R227. A packet for a tile that its context does not hold is discarded (log 45). Once open, the port accepts until
the next release: when it closes again is given nowhere (DESIGN CHOICE, log 198). -/
def Dev.portAct (d : Dev) (p : Packet) : PortAct :=
  if d.isFenced (p.dst / 8) then .fenced
  else match d.tileCtx p.dst with
    | none => .discard
    | some c =>
      let i := d.img c
      if c ≠ p.ictx ∨ i.halted ∨ i.state ≠ .running then .discard
      else if i.exited.contains p.dst then .refuse c
      else match (d.seq p.dst).stage with
        | .opened | .ended => .accept c
        | _ => .wait

/-- Refuse an arriving packet (R227): capture, event 0x3002, the answer, and the exchange error. -/
def Dev.refuseArrival (d : Dev) (c : Nat) (p : Packet) (name offset source status : Nat) : Dev :=
  ((((d.raceError offset p.dst c source status).event 0x3002 p.dst p.src name status).answer p status)).exchangeError c
    p.dst status 0x1FFF

/-- The entry of a kind with an identifier (R201). -/
def XSeq.findId (q : XSeq) (kind id : Nat) : Option Nat :=
  q.entries.findIdx? fun e => decide (xKind e.w = kind ∧ xId e.w = id)

/-- The RNODE entry of a tag. -/
def XSeq.findTag (q : XSeq) (tag : Nat) : Option Nat :=
  q.entries.findIdx? fun e => decide (xKind e.w = 4 ∧ xTag e.w = tag)

/-- RXD of a payload (R390). -/
def rxd (rid offset : Nat) (bs : List Byte) : Nat :=
  ((List.range (bs.length / 8)).map fun k =>
    (mix (BitVec.ofNat 64 (leAt bs (8 * k) 8)) (BitVec.ofNat 64 (rid * 2 ^ 24 ||| (offset + 8 * k) / 8))).toNat).foldl (· + ·) 0

/-- Write a payload into a RECV region (R67, R506) and count it: the entry's number, or the refusal's status and offset (R227). -/
def Dev.deliver (d : Dev) (c t rid offset : Nat) (bs : List Byte) : Dev × Option (Nat × Nat) :=
  let q := d.seq t
  match q.findId 2 rid with
  | none => (d, some (sParam, 0))
  | some i =>
    match q.entries[i]? with
    | none => (d, some (sParam, 0))
    | some e =>
      let at_ := (d.ctx t 0).base.toNat + recvBase e.w + offset
      if recvSize e.w < offset + bs.length then (d, some (sBound, at_ % 2 ^ 23))
      else if recvExpect e.w < e.count + bs.length then (d, some (sLen, at_ % 2 ^ 23))
      else
        let d := d.writeWords 6 (tileAddr t at_) bs
        let d := d.putEntry t i { e with count := e.count + bs.length }
        let d := match d.logical t with
          | some l => d.traceAdd c l fun a => { a with rxd := (a.rxd + rxd rid offset bs) % 2 ^ 64 }
          | none => d
        let d := d.creditBytes t 0 rid bs.length
        (if e.count + bs.length = recvExpect e.w then d.entryDone c t i else d, none)

/-- A DATA packet reaches its tile (R206, R227). Where it carries a root's delivery on this device, its last packet
completes the root's RNODE entry (R196) and no answer is sent (log 46). -/
def Dev.dataArrive (d : Dev) (c : Nat) (p : Packet) : Dev :=
  match d.deliver c p.dst p.id p.offset p.payload with
  | (d, some (st, off)) => d.refuseArrival c p p.id off 2 st
  | (d, none) =>
    if !p.last then d
    else if p.tag = 1 then d.entryDone c p.src p.ref
    else d.answer p sOk

/-- A PASS packet reaches a tile of its chain (R224): it is written, and forwarded or answered. -/
def Dev.passArrive (d : Dev) (c : Nat) (p : Packet) : Dev :=
  let q := d.seq p.dst
  match (q.findId 5 p.id).bind fun i => q.entries[i]? with
  | none => d.refuseArrival c p p.id 0 4 sParam
  | some e =>
    match d.deliver c p.dst (passRid e.w) p.offset p.payload with
    | (d, some (st, off)) => d.refuseArrival c p p.id off 4 st
    | (d, none) =>
      if passEnd e.w then (if p.last then d.answer p sOk else d)
      else match d.mapTile c (passNext e.w) with
        | some s => d.inject { p with at_ := p.dst, leg := p.dst, dst := s, escape := false }
        | none => d

/-- The child number of a sender at a node: a tile of this device by its logical number (R201). -/
def Dev.childNo (d : Dev) (w : List Word) (p : Packet) : Option Nat :=
  let l := if p.remote then some p.src else d.logical p.src
  (List.range (rnIn w)).find? fun j => decide (some (rnChild w j) = l)

/-- A PART packet reaches a node (R222, R227). A sender on another device is a child by its logical number (log 47), and its device is
noted for the credits it is due. A refused PART is captured with SOURCE 3, as a refused PASS is with 4 and DATA with 2: which of them
R229 means for a refusal at the port is not said (DESIGN CHOICE, log 199). -/
def Dev.partArrive (d : Dev) (c : Nat) (p : Packet) : Dev :=
  let q := d.seq p.dst
  match q.findTag p.tag with
  | none => d.refuseArrival c p p.tag 0 3 sParam
  | some i =>
    match q.entries[i]? with
    | none => d.refuseArrival c p p.tag 0 3 sParam
    | some e =>
      match d.childNo e.w p with
      | none => d.refuseArrival c p p.tag 0 3 sParam
      | some j =>
        if rnLen e.w ≤ 256 * p.chunk then d.refuseArrival c p p.tag 0 3 sLen
        else d.putEntry p.dst i { e with
          inputs := e.inputs ++ [(j, p.chunk, p.payload)], kidFa := if p.remote then Tab.put e.kidFa j p.sfa else e.kidFa }

/-- A combining credit reaches a child's sequencer (R222). CTL is always accepted (R204). -/
def Dev.creditArrive (d : Dev) (p : Packet) : Dev :=
  match d.tileCtx p.dst with
  | none => d
  | some c =>
    let q := d.seq p.dst
    if c ≠ p.ictx ∨ (d.img c).halted then d
    else match q.findTag p.tag with
      | some i => match q.entries[i]? with
        | some e => d.putEntry p.dst i { e with credit := e.credit + p.chunk }
        | none => d
      | none => d

/-- A packet whose destination is a fenced tile (R219, R268): counted, logged and recorded; answered by its kind. -/
def Dev.fencedArrive (d : Dev) (p : Packet) : Dev :=
  let d := ((d.count Reg.RACE_FENCED 1).raceError 0 p.dst p.ictx 2 sFenced).event 0x3003 p.dst p.src p.kind.code p.ictx
  match p.kind with
  | .data | .pass | .part => d.answer p sFenced
  | .hop | .ring => d.readerGone p sFenced
  | .answer | .sig => d

/-! ### Answers (R206, R226, R259, R269) -/

/-- The channels of a tile that write a queue: its kind, number, and destination. -/
def Dev.chansTo (d : Dev) (t : Nat) (ring : Bool) (num : Nat) (here : Channel → Bool) : List Nat :=
  ((d.tile t).chans.filter fun e => decide (e.2.ring = ring ∧ e.2.num = num) && here e.2).map (·.1)

/-- What an answer does to a channel (R259, R266, R269). -/
def Channel.answered (x : Channel) (status bytes : Nat) : Channel :=
  if status = sOk then (if x.ring then { x with freed := x.freed + bytes } else { x with credit := x.credit + 1 })
  else if status = sClosed then { x with state := .closed }
  else if status = sFenced then { x with state := .fenced }
  else x

/-- An ANSWER for a hopper or ring channel reaches the sender's tile. A send that is refused counts once, at the answer to its last
packet (R273). -/
def Dev.chanAnswer (d : Dev) (t : Nat) (ring last : Bool) (status ref : Nat) (here : Channel → Bool) : Dev :=
  let num := if ring then ref % 4 else ref % 8
  let bytes := if ring then ref / 4 * 8 else 0
  let d := if status = sOk ∨ (ring ∧ !last) then d else d.count Reg.HOP_REFUSED 1
  (d.chansTo t ring num here).foldl (fun d n =>
    match Tab.find (d.tile t).chans n with
    | some x => d.putChan t n (x.answered status bytes)
    | none => d) d

/-- An ANSWER completes the SEND entry `i`, or is an exchange error (R196, R206, R226). -/
def Dev.entryAnswer (d : Dev) (c t i status : Nat) : Dev :=
  if (d.img c).halted ∨ (d.img c).state ≠ .running then d
  else if status ≠ sOk then d.xchFail c t status i
  else match (d.seq t).entries[i]? with
    | some e => d.putEntry t i { e with done := true }
    | none => d

/-- The entry that an ANSWER from another device answers (log 15): a SEND whose destination and extent match, or an
RNODE with that parent. -/
def XSeq.answeredBy (q : XSeq) (kind : PktKind) (fa lt ref : Nat) : Option Nat :=
  q.entries.findIdx? fun e =>
    xRemote e.w && (match kind with
      | .part => decide (xKind e.w = 4 ∧ rnDfa e.w = fa ∧ rnPtile e.w = lt)
      | _ => decide (xKind e.w = 1 ∧ !e.done ∧ sendDfa e.w = fa ∧ sendDtile e.w = lt ∧ sendDoff e.w ≤ ref ∧
          ref < sendDoff e.w + sendLen e.w) ||
        (decide (xKind e.w = 4 ∧ rnDfa e.w = fa ∧ rnPtile e.w = lt) && rnRoot e.w))

/-- An ANSWER reaches its tile. -/
def Dev.answerArrive (d : Dev) (p : Packet) : Dev :=
  match d.tileCtx p.dst with
  | none => d
  | some c =>
    if c ≠ p.ictx then d
    else
      let here := fun (x : Channel) =>
        if p.remote then x.remote && decide (x.dfa = p.sfa ∧ x.dtile = p.src)
        else !x.remote && decide (d.mapTile c x.dtile = some p.src)
      match p.answers with
      | .hop => d.chanAnswer p.dst false p.last p.id p.ref here
      | .ring => d.chanAnswer p.dst true p.last p.id p.ref here
      | .data | .pass | .part =>
        let i := if p.remote then (d.seq p.dst).answeredBy p.answers p.sfa p.src p.ref else some p.ref
        match i with
        | some i =>
          if p.id = sOk ∧ (((d.seq p.dst).entries[i]?).map fun e => xKind e.w) ≠ some 1 then d
          else d.entryAnswer c p.dst i p.id
        | none => if p.id = sOk then d else d.exchangeError c p.dst p.id 0x1FFF
      | .answer | .sig => d

/-! ### Combining (R220 to R223) -/

/-- One FP32 addition chain over the inputs' words; a NaN it gives is the canonical one, be there one input only (R156). -/
def sumF32 (xs : List Word) : Word :=
  match xs with
  | [] => 0
  | x :: rest => rest.foldl f32Add (canon32 x)

/-- The combined bytes of a chunk (R220) and its saturations: `n` bytes from the inputs in order. -/
def combine (bf16 : Bool) (n : Nat) (inputs : List (List Byte)) : List Byte × Nat :=
  if bf16 then
    let cs := (List.range (n / 2)).map fun k =>
      Fmt.bf16.narrow1 .rne (f32 (sumF32 (inputs.map fun bs => toF32 (Fmt.bf16.decode false (leAt bs (2 * k) 2)))))
    (cs.flatMap fun c => bytesOf 2 c.code, (cs.filter (·.sat)).length)
  else
    ((List.range (n / 4)).flatMap fun k =>
      bytesOf 4 (sumF32 (inputs.map fun bs => BitVec.ofNat 32 (leAt bs (4 * k) 4))).toNat, 0)

/-- The chunk an input holds; one that is shorter than the node's is padded with free bytes (log 48). -/
def XEntry.chunkOf (e : XEntry) (ix j k n : Nat) : Option (List Byte) :=
  (e.inputs.find? fun x => decide (x.1 = j ∧ x.2.1 = k)).map fun x => (x.2.2 ++ freeTail ix n).take n

/-- The RED entry of a tag, with its index, once it has issued. -/
def XSeq.localRed (q : XSeq) (tag : Nat) : Option (Nat × XEntry) :=
  (q.entries.findIdx? fun e => decide (xKind e.w = 3 ∧ xTag e.w = tag)).bind fun i =>
    match q.entries[i]? with
    | some e => if e.issued then some (i, e) else none
    | none => none

/-- A node has combined its next chunk: it delivers or forwards the sum (R220, R222), and completes with its last. -/
def Dev.sendSum (d : Dev) (c t i : Nat) (e : XEntry) (bs : List Byte) : Dev :=
  let w := e.w
  let k := e.next
  let last := decide (rnChunks w ≤ k + 1)
  let fwd := fun (d : Dev) (lastDone : Bool) =>
    let d := d.putEntry t i { e with
      next := k + 1, credit := if rnRoot w then e.credit else e.credit - 1
      inputs := e.inputs.filter fun x => decide (x.2.1 ≠ k) }
    if lastDone then d.entryDone c t i else d
  if rnRoot w then
    let p := { packet .data c t 0 with
      id := rnDrid w, offset := (rnDoff w + 256 * k) % 2 ^ 23, last := last, payload := bs, ref := i, tag := 1 }
    if xRemote w then (fwd d last).sendRemote t p (rnPtile w) (rnDfa w) 2
    else match d.mapTile c (rnPtile w) with
      | some s => (fwd d false).inject { p with dst := s }
      | none => fwd d false
  else
    let p := { packet .part c t 0 with tag := xTag w, chunk := k, last := last, payload := bs, ref := i }
    if xRemote w then (fwd d last).sendRemote t p (rnPtile w) (rnDfa w) 7
    else match d.mapTile c (rnPtile w) with
      | some s => (fwd d last).inject { p with dst := s }
      | none => fwd d last

/-- A node combines its next chunk (R220 to R223): every input holds it, and a node that is no root holds a credit. One
credit returns to each child. -/
def Dev.redCombine (d : Dev) (t i : Nat) : Dev :=
  match d.xchOf t with
  | none => d
  | some c =>
    let q := d.seq t
    match q.entries[i]? with
    | none => d
    | some e =>
      let w := e.w
      let k := e.next
      let n := min 256 (rnLen w - 256 * k)
      let kids := (List.range (rnIn w)).map fun j => e.chunkOf d.freeIx j k n
      let red := q.localRed (xTag w)
      if q.stage ≠ .opened ∨ xKind w ≠ 4 ∨ rnChunks w ≤ k ∨ kids.any (·.isNone) ∨ (!rnRoot w ∧ e.credit = 0) ∨
          (rnLocal w ∧ red.isNone) then d
      else
        let d := d.draw
        let (d, own, bad) := match rnLocal w, red with
          | true, some (ri, re) =>
            let src := (d.ctx t 0).base.toNat + redSrc re.w + 256 * k
            let r := d.read 6 (tileAddr t src) n
            match r.bytes with
            | some bs => (r.dev, [bs], none)
            | none => (r.dev, [], some (ri, src))
          | _, _ => (d, [], none)
        match bad with
        | some (ri, src) => (d.raceError (src % 2 ^ 23) t c 3 sUe).xchFail c t sUe ri
        | none =>
          let (bs, sat) := combine (rnBf16 w) n (own ++ kids.filterMap id)
          let d := d.count Reg.RACE_RED_SAT sat
          (d.sendSum c t i e bs).sendCredits c t e 1

/-! ### The end of a phase (R196) -/

/-- An entry has completed as far as R196 asks. -/
def XSeq.entryOver (q : XSeq) (e : XEntry) : Bool :=
  match xKind e.w with
  | 1 => e.done
  | 2 => decide (e.count = recvExpect e.w)
  | 3 => match (q.findTag (xTag e.w)).bind fun i => q.entries[i]? with
    | some r => decide (rnChunks r.w ≤ r.next)
    | none => true
  | 4 => e.done
  | 6 => strLead e.w || e.done
  | _ => true

/-- The tile's exchange phase ends (R195, R196): XSTAT and XCYC are written, and the contexts that wait at the superstep
barrier are released with the exchange status. A lead-in that has not issued yet does not hold it. -/
def Dev.phaseEnd (d : Dev) (t : Nat) : Dev :=
  match d.xchOf t with
  | none => d
  | some c =>
    let q := d.seq t
    if q.stage = .opened ∧ q.entries.all q.entryOver then
      let d := d.writeXstat c t sOk 0x1FFF
      let d := d.setSeq t { q with stage := .ended, waiters := [] }
      let m := d.measure c
      let d := match d.logical t with
        | some l => d.setMeasure c { m with xEnd := Tab.set (fun _ => 0) m.xEnd (l / 8) d.globalNs }
        | none => d
      q.waiters.foldl (fun d w => d.fireWaiter w sOk) d
    else d

/-- An uncorrectable link error discards a packet (R212, R226): event 0x3005 with the router, a free port, and the
channel. -/
def Dev.linkUe (d : Dev) (n : Nat) : Dev :=
  match d.race[n]? with
  | none => d
  | some p =>
    let (port, d) := (d.takePacket n).freeWord
    let d := ((d.raceError 0 p.at_ p.ictx 5 sUe).event 0x3005 p.at_ port p.vc p.ictx)
    d.exchangeError p.ictx p.at_ sUe 0x1FFF

/-- Take an arrived packet of a kind from the Race and let the port act on it. -/
def Dev.bulkArrive (d : Dev) (n : Nat) (kind : PktKind) (act : Dev → Nat → Packet → Dev) : Dev :=
  match d.arrived n with
  | none => d
  | some p =>
    if p.kind ≠ kind then d
    else match d.portAct p with
      | .accept c => act (d.takePacket n) c p
      | .refuse c => (d.takePacket n).refuseArrival c p (if kind = .part then p.tag else p.id) 0 2 sParam
      | .discard => d.takePacket n
      | .wait => d
      | .fenced => d

/-- Take an arrived packet of CTL, which a port always accepts (R204) unless its tile is fenced. -/
def Dev.ctlArrive (d : Dev) (n : Nat) (kind : PktKind) (act : Dev → Packet → Dev) : Dev :=
  match d.arrived n with
  | none => d
  | some p => if p.kind ≠ kind ∨ d.isFenced (p.dst / 8) then d else act (d.takePacket n) p

end Sys2Proof.Machine
end

