-- ==== Sys2Proof/Machine/WindowOps.lean ====
section
/-!
DEFINITION. Input windows (R374) and the input digest that every write into them folds (R383, R384), and writes of a
context to HBM.
-/
namespace Sys2Proof.Machine

/-- The 64-bit table entry at a device address as memory holds it, without the effects of a read. -/
def Dev.peekEntry (d : Dev) (a : Nat) : Nat := ((Memory.bytes d.mem 8 a).map leNat).getD 0

/-- Where a context virtual address leads in HBM, without the effects of a walk (R277 to R280). -/
def Dev.peekWalk (d : Dev) (va : Nat) : (fuel : Nat) → (table : Nat) → Option Nat
  | 0, _ => none
  | n + 1, table =>
    let level := 4 - n
    let e := d.peekEntry (table + 8 * levelIndex level va)
    if e % 2 = 0 ∨ d.entryBad level e then none
    else if fldN e 1 2 = 0 then d.peekWalk va n (fldN e 12 36 * 4096)
    else if fldN e 4 1 = 1 then none
    else
      let size := if fldN e 1 2 = 1 then 0x200000 else 0x10000
      some (fldN e 12 36 * 4096 + (va - alignDown size va))

/-- The HBM device address of a context virtual address. -/
def Dev.hbmOfVa (d : Dev) (c va : Nat) : Option Nat := d.peekWalk va 4 (d.ptb c)

/-- The offset in a window (VA, bytes) of a device address, page by page of 64 KiB (R278). -/
def Dev.windowOffset (d : Dev) (c : Nat) (w : Nat × Nat × Nat) (a : Nat) : Option Nat :=
  let first := alignDown 0x10000 w.1
  (List.range (ceilDiv (w.1 + w.2.1 - first) 0x10000)).findSome? fun k =>
    match d.hbmOfVa c (first + 0x10000 * k) with
    | some p =>
      let va := first + 0x10000 * k + (a - p)
      if p ≤ a ∧ a < p + 0x10000 ∧ w.1 ≤ va ∧ va < w.1 + w.2.1 then some (va - w.1) else none
    | none => none

/-- The key that tells the two halves of a digest apart (R382, R383). -/
def highKey : DWord := 0x71F04C2A8D39B6E5

/-- Fold one word of window `i` at offset `o` into a digest (R383). -/
def foldWord (acc i o : Nat) (v : DWord) : Nat :=
  let k := BitVec.ofNat 64 (i * 2 ^ 40 ||| o / 8)
  let lo := (acc % 2 ^ 64 + (mix v k).toNat) % 2 ^ 64
  let hi := (acc / 2 ^ 64 + (mix v (k ^^^ highKey)).toNat) % 2 ^ 64
  hi * 2 ^ 64 + lo

/-- Fold one word of window `i` into the accumulator of the window's parity; one written in part is counted (R383, R384). -/
def Dev.foldInto (d : Dev) (c i par o : Nat) (v : DWord) (part : Bool) : Dev :=
  let s := d.stepOf c
  let s' : Step := if par = 0 then { s with acc0 := foldWord s.acc0 i o v } else { s with acc1 := foldWord s.acc1 i o v }
  let d := d.setStep c s'
  if part then d.count Reg.UPD_IN_PART 1 else d

/-- The word at device address `a` has been written, in part where `part` says so: every window it lies in folds it
(R383, R384). -/
def Dev.foldInput (d : Dev) (a : Nat) (part : Bool) : Dev :=
  (List.range 16).foldl (fun d c =>
    match (d.stepOf c).section_ with
    | none => d
    | some sec =>
      sec.windows.zipIdx.foldl (fun d x =>
        match d.windowOffset c x.1 a, Memory.bytes d.mem 8 a with
        | some o, some bs => d.foldInto c x.2 x.1.2.2 o (BitVec.ofNat 64 (leNat bs)) part
        | _, _ => d) d) d

/-- The words from `a` up that `n` written bytes touch, each with whether it was written in part. -/
def touched (a n : Nat) : List (Nat × Bool) :=
  let w0 := alignDown 8 a
  (List.range ((alignUp 8 (a + n) - w0) / 8)).map fun k =>
    let w := w0 + 8 * k
    (w, decide (w < a ∨ a + n < w + 8))

/-- Fold what a write of `n` bytes at device address `a` has left (R383). -/
def Dev.foldWrite (d : Dev) (a n : Nat) : Dev :=
  if (List.range 16).all (fun c => (d.stepOf c).section_.isNone) then d
  else (touched a n).foldl (fun d x => d.foldInput x.1 x.2) d

/-- The word at `wa` as it stands after `bs` have been written from `va` up to host memory, whose other bytes are free (log 54). -/
def hostWord (ix wa va : Nat) (bs : List Byte) : DWord :=
  let old := freeTail ix 8
  BitVec.ofNat 64 (leNat ((List.range 8).map fun k =>
    if va ≤ wa + k ∧ wa + k < va + bs.length then bs.getD (wa + k - va) 0 else old.getD k 0))

/-- Fold what a write through a HOST leaf of a context has left in its windows (R383): `va` is the context virtual address. -/
def Dev.foldHost (d : Dev) (c va : Nat) (bs : List Byte) : Dev :=
  match (d.stepOf c).section_ with
  | none => d
  | some sec =>
    (touched va bs.length).foldl (fun d x =>
      sec.windows.zipIdx.foldl (fun d w =>
        if w.1.1 ≤ x.1 ∧ x.1 < w.1.1 + w.1.2.1 then
          d.draw.foldInto c w.2 w.1.2.2 (x.1 - w.1.1) (hostWord d.freeIx x.1 va bs) x.2
        else d) d) d

/-- Write whole words to HBM for an agent, folding those that lie in input windows. -/
def Dev.hbmWrite (d : Dev) (agent a : Nat) (bs : List Byte) : Dev := (d.writeWords agent a bs).foldWrite a bs.length

end Sys2Proof.Machine
end

