-- ==== Sys2Proof/Machine/CxOps.lean ====
section
/-!
DEFINITION. The collective engine (chapter 8): ranks and trees (R321, R420), the engine's accesses (R311, R316), status
entries (R325), collective errors (R360), triggers and DONE signals (R312 to R314), generations (R326 to R330).
-/
namespace Sys2Proof.Machine

/-! ### Fields of an operation (R323, R331, R338, R341, R350) -/

def oKind (w : List Word) : Nat := fld (wordAt w 0) 28 4
def oTrig (w : List Word) : Nat := fld (wordAt w 0) 12 12
def oDone (w : List Word) : Nat := fld (wordAt w 0) 0 12
/-- A 48-bit address in words `i` and `i + 1`. -/
def oAddr (w : List Word) (i : Nat) : Nat := (wordAt w i).toNat + fld (wordAt w (i + 1)) 0 16 * 2 ^ 32
def gDsp (w : List Word) : Bool := bit (wordAt w 0) 25
def gSel (w : List Word) : Bool := bit (wordAt w 0) 24
def gTile (w : List Word) : Nat := fld (wordAt w 1) 16 11
def oTensor (w : List Word) : Nat := fld (wordAt w 1) 0 10
def gFirst (w : List Word) : Nat := fld (wordAt w 2) 0 13
def gNsh (w : List Word) : Nat := fld (wordAt w 3) 0 14
/-- RT or NRT. -/
def oRt (w : List Word) : Nat := fld (wordAt w 1) 12 2
def rBf16 (w : List Word) : Bool := bit (wordAt w 0) 24
def oSegn (w : List Word) : Nat := (wordAt w 2).toNat
def xCdb (w : List Word) : Bool := bit (wordAt w 0) 26
def xDt (w : List Word) : Bool := bit (wordAt w 0) 25
def xSt (w : List Word) : Bool := bit (wordAt w 0) 24
def xShift (w : List Word) : Int := signed (fld (wordAt w 1) 24 8) 8
def xCfmt (w : List Word) : Nat := fld (wordAt w 1) 16 2
def pShb (w : List Word) : Nat := (wordAt w 2).toNat
def pCount (w : List Word) : Nat := fld (wordAt w 3) 0 17

/-- The bucket of an operation (R336): the BUCKET field, or for a PERMUTE 0xF00 and its index modulo 256. -/
def oBucket (w : List Word) (ix : Nat) : Option Nat :=
  if oKind w = 2 ∨ oKind w = 3 then some (fld (wordAt w 1) 0 12)
  else if oKind w = 4 then some (0xF00 + ix % 256)
  else none

/-! ### Ranks and trees (R321, R420) -/

/-- A rank table of a context: Flume addresses in rank order. -/
def Dev.rankTable (d : Dev) (c rt : Nat) : List Nat := (d.coll c).ranks.getD rt []

/-- The rank of a device in a table. -/
def rankOf (rt : List Nat) (fa : Nat) : Option Nat := rt.findIdx? (· = fa)

/-- The device's own rank in a table; it appears there exactly once (R321). -/
def Dev.ownRank (d : Dev) (c rt : Nat) : Nat := (rankOf (d.rankTable c rt) d.fa).getD 0

/-- A rank relative to the root (R420). -/
def relRank (n root r : Nat) : Nat := (r + n - root % n) % n

/-- The rank at relative place `q`. -/
def absRank (n root q : Nat) : Nat := (q + root) % n

/-- The children of node `q`, ascending (R420). -/
def treeKids (n q : Nat) : List Nat := ((List.range 8).map (8 * q + 1 + ·)).filter (· < n)

/-- The parent of a node that is not the root. -/
def treeParent (q : Nat) : Nat := (q - 1) / 8

/-- The loaded context whose collective section holds a job key (R419). -/
def Dev.jobCtx (d : Dev) (job : Word) : Option Nat :=
  (List.range 16).find? fun c => decide ((d.coll c).job = job ∧ (d.coll c).ranks ≠ [] ∧ (d.img c).state ≠ .empty)

/-- A frame for a tile: delivered to the context that holds its JOB, its tile numbers translated through that context's
map (R419, R491, R630). A refused one is logged and answered. -/
def Dev.toTile (d : Dev) (port : Nat) (f : Frame) (act : Dev → Nat → Nat → Dev) : Dev :=
  match d.jobCtx f.job with
  | none => (d.flmError f port 0 3 sPerm).answerTo f sPerm (frameRef f)
  | some c =>
    if (d.img c).state = .preempted then (d.flmError f port c 3 sPerm).answerTo f sPerm (frameRef f)
    else match d.mapTile c (fld f.arg0 11 11) with
      | none => (d.flmError f port c 3 sParam).answerTo f sParam (frameRef f)
      | some t => act d c t

/-! ### The engine's accesses (R311, R316) -/

/-- Translate an access of an engine in a context's virtual space, without the mills' caches (R316). -/
def Dev.engineXlat (d : Dev) (c va : Nat) (write : Bool) : Dev × Xlat :=
  let root := d.ptb c
  if d.vlim c ≤ va then (d, .fault 0 1)
  else if !d.inHbm root 4096 then (d, .fault 1 1)
  else match d.walkFrom va 4 root with
    | (d, .inl x) => (d, x)
    | (d, .inr (size, e)) =>
      let host := decide (fldN e 4 1 = 1)
      let addr := fldN e 12 36 * 4096 + (if host then fldN e 48 16 * 2 ^ 48 else 0)
      (d, throughPage va (alignDown size va) host addr (decide (fldN e 3 1 = 1)) write)

/-- The pieces of an extent within 4 KiB blocks: address and length. -/
def pieces : (fuel : Nat) → (va n : Nat) → List (Nat × Nat)
  | 0, _, _ => []
  | k + 1, va, n =>
    if n = 0 then []
    else
      let m := min n (4096 - va % 4096)
      (va, m) :: pieces k (va + m) (n - m)

/-- The pieces of `n` bytes from `va` up. -/
def piecesOf (va n : Nat) : List (Nat × Nat) := pieces (n / 4096 + 2) va n

/-- The status that an outcome of a walk ends an operation with (R316). -/
def xlatStatus : Xlat → Nat
  | .ok _ _ => sOk
  | .fault _ _ => sFault
  | .refused st => st

/-- Read by an engine: the bytes, or the status and the address that ended it. Bytes of a HOST page are free (log 54). -/
def Dev.engineRead (d : Dev) (agent c va n : Nat) : Dev × List Byte × Option (Nat × Nat) :=
  (piecesOf va n).foldl (fun (d, bs, bad) (a, m) =>
    if bad.isSome then (d, bs, bad)
    else match d.engineXlat c a false with
      | (d, .ok true _) => (d.draw, bs ++ freeTail d.freeIx m, none)
      | (d, .ok false addr) =>
        let r := d.read agent addr m
        match r.bytes with
        | some x => (r.dev, bs ++ x, none)
        | none => (r.dev, bs, some (sUe, a))
      | (d, x) => (d, bs, some (xlatStatus x, a))) (d, [], none)

/-- Write by an engine: the status and the address that ended it. -/
def Dev.engineWrite (d : Dev) (agent c va : Nat) (bs : List Byte) : Dev × Option (Nat × Nat) :=
  (piecesOf va bs.length).foldl (fun (d, bad) (a, m) =>
    let part := (bs.drop (a - va)).take m
    if bad.isSome then (d, bad)
    else match d.engineXlat c a true with
      | (d, .ok true addr) => ((d.emit (.hostWrite (d.owner c) addr part)).foldHost c a part, none)
      | (d, .ok false addr) =>
        match d.write agent addr part with
        | (d, none) => (d.foldWrite addr m, none)
        | (d, some _) => (d, some (sUe, a))
      | (d, x) => (d, some (xlatStatus x, a))) (d, none)

/-! ### Operations -/

def Dev.cxOp (d : Dev) (c i : Nat) : Option CxOp := (d.coll c).ops[i]?

/-- Change an operation. -/
def Dev.putOp (d : Dev) (c i : Nat) (o : CxOp) : Dev :=
  let k := d.coll c
  d.setColl c { k with ops := k.ops.set i o }

/-- Capture a violation of the collective block (R363). -/
def Dev.cxError (d : Dev) (c peer addr source status : Nat) : Dev :=
  d.capture Reg.FLM_CX_ERR_ADDR_LO (addr % 2 ^ 32) (peer % 2 ^ 16 * 2 ^ 16 + addr / 2 ^ 32 % 2 ^ 16)
    (c % 16 * 2 ^ 12 + source * 2 ^ 8 + status)

/-- Write an operation's status entry (R325): the status and the address that ended the write, as of any access of the engine
(R316). -/
def Dev.cxStatus (d : Dev) (c i status bytes : Nat) : Dev × Option (Nat × Nat) :=
  d.engineWrite 11 c ((d.coll c).cstat + 8 * i)
    (bytesOf 4 (d.stepLow c % 2 ^ 16 * 2 ^ 16 + status) ++ bytesOf 4 (sat 0xFFFFFFFF bytes))

/-- The context stops on a collective error (R360); a pre-empted one, which holds no mills, too (DEDUCED, log 203). -/
def Dev.cxStop (d : Dev) (c i status peer : Nat) : Dev :=
  let d := d.event 0x6004 c i status peer
  if (d.img c).state = .preempted then d.stopContext c 0x07 0xFFFF status true else d.deviceStop c 0x07 0xFFFF status

/-- An operation ends with a failure: the engine runs it no more, and its status entry says so, where that can be written (R325,
R360). -/
def Dev.cxEnd (d : Dev) (c i status : Nat) : Dev :=
  match d.cxOp c i with
  | none => d
  | some o =>
    let d := d.putOp c i { o with stage := .failed, pend := [] }
    let d := { d with cxRun := d.cxRun.filter (· ≠ (c, i)), cxWait := d.cxWait.filter (· ≠ (c, i)) }
    (d.cxStatus c i status o.bytes).1

/-- An operation fails (R360): the capture, its status entry, and the stop. A refusal at its start records event 0x6001
first. -/
def Dev.cxFail (d : Dev) (c i status peer addr source : Nat) (atStart : Bool) : Dev :=
  match d.cxOp c i with
  | none => d
  | some _ =>
    let d := (d.cxError c peer addr source status).cxEnd c i status
    let d := if atStart then d.event 0x6001 c i status (d.stepLow c) else d
    d.cxStop c i status peer

/-- A signal of the engine to an object of a context, announcing 0 bytes (R314). -/
def Dev.engineSignal (d : Dev) (c vid : Nat) : Dev :=
  let (st, phys) := d.translate c vid
  let o := d.obj phys
  let st := if st ≠ sOk then st else if o.state = .broken then sBroken else if o.sigs = 0 then sParam else sOk
  if st ≠ sOk then d.syncRefuse vid phys none c 0 st true
  else d.postSync { kind := .signal, phys := phys, bytes := 0, tile := none, waiter := none, ictx := c, vid := vid }

/-- An operation's DONE signal, held while the context is pre-empted (R314, R358). -/
def Dev.signalDone (d : Dev) (c vid : Nat) : Dev :=
  let k := d.coll c
  if (d.img c).state = .preempted then d.setColl c { k with heldDone := k.heldDone ++ [vid] } else d.engineSignal c vid

/-- A trigger object fires (R312, R313): each operation it starts waits for its start; one that has started in this step,
or waits, is a collective error. In a context that has stopped it starts nothing (R226, R360). -/
def Dev.cxTrigger (d : Dev) (c vid : Nat) : Dev :=
  if (d.img c).state ≠ .running ∧ (d.img c).state ≠ .preempted then d
  else (List.range (d.coll c).ops.length).foldl (fun d i =>
    match d.cxOp c i with
    | none => d
    | some o =>
      if oTrig o.w ≠ vid then d
      else if o.started ∨ o.stage = .waiting then d.cxFail c i sParam 0xFFFF 0 0 true
      else { d.putOp c i { o with stage := .waiting } with cxWait := d.cxWait ++ [(c, i)] }) d

/-- An RSC operation of a section in overlap mode waits for those listed before it (R357). -/
def Dev.overlapHeld (d : Dev) (c i : Nat) : Bool :=
  (d.coll c).ovl && (d.cxOp c i).any (fun o => decide (oKind o.w = 2)) && ((d.coll c).ops.take i).any fun o => decide (oKind o.w = 2) && !o.started

/-- Operations of the context may start: it runs. -/
def Dev.cxAwake (d : Dev) (c : Nat) : Bool := decide ((d.img c).state = .running) && !(d.img c).halted

/-- An operation may start now: it waits, no operation that waits before it may start instead, and fewer than 32 run
(R313, R357). An operation of a context that does not run holds up none of another's. -/
def Dev.mayStart (d : Dev) (c i : Nat) : Bool :=
  match (d.cxWait.filter fun e => d.cxAwake e.1 && !d.overlapHeld e.1 e.2).head? with
  | some e => decide (e = (c, i)) && decide (d.cxRun.length < 32)
  | none => false

/-! ### Tensors (R326 to R330) -/

/-- The buffer of a generation (R322). -/
def Tensor.buf (x : Tensor) (g : Nat) : Nat := if g % 2 = 0 then x.buf0 else x.buf1

/-- The owner holds a generation (R330). -/
def Tensor.holds (x : Tensor) (g : Nat) : Bool :=
  decide (g = x.cur) || (decide (g = (x.cur + 2 ^ 32 - 1) % 2 ^ 32) && x.prevValid)

/-- A frame of the engine (R402). -/
def Dev.cxFrame (d : Dev) (c kind dfa flow a0 a1 a2 : Nat) (payload : List Byte) : Frame :=
  { cls := frameClass kind, kind := kind, ttl := 64, keyId := false, dfa := dfa, sfa := d.fa, job := (d.coll c).job, lseq := 0,
    flow := flow, arg0 := BitVec.ofNat 32 a0, arg1 := BitVec.ofNat 32 a1, arg2 := BitVec.ofNat 32 a2, payload := payload }

/-- The bucket tag of a frame that a context sends now (R336). -/
def Dev.bucketTag (d : Dev) (c bucket : Nat) : Nat := d.stepLow c % 16 * 2 ^ 12 + bucket

end Sys2Proof.Machine
end

