-- ==== Sys2Proof/Machine/Collective.lean ====
section
/-!
DEFINITION. The operations of the collective engine: gathers (R331 to R335), combining reduce-scatter (R338 to R340, R421),
compressed reduce-scatter (R341 to R349) and the permute (R350 to R354); their frames, their end and their timeouts.
-/
namespace Sys2Proof.Machine

/-- A failure met in an operation: status, peer (0xFFFF for none), address, SOURCE (R363). -/
structure CxBad where
  status : Nat
  peer : Nat
  addr : Nat
  source : Nat
  deriving DecidableEq, Repr

/-- A failed access at HBM or tile memory. -/
def cxBadAt (x : Nat × Nat) : CxBad := { status := x.1, peer := 0xFFFF, addr := x.2, source := 7 }

/-- Add to an operation's awaited answers. -/
def Dev.addPend (d : Dev) (c i peer segment key : Nat) : Dev :=
  match d.cxOp c i with
  | some o => d.putOp c i { o with pend := o.pend ++ [{ peer := peer, segment := segment, key := key, sent := d.cycle }] }
  | none => d

/-- Count bytes delivered for an operation on this device (R325). -/
def Dev.addBytes (d : Dev) (c i n : Nat) : Dev :=
  match d.cxOp c i with
  | some o => d.putOp c i { o with bytes := o.bytes + n }
  | none => d

/-! ### Gathers -/

/-- The device address that a gather's parison byte has in tile memory (R331). -/
def Dev.parisonTile (d : Dev) (c : Nat) (w : List Word) (off : Nat) : Option (Nat × Nat) :=
  (d.physical c (gTile w)).map fun t => (t, tileAddr t ((d.ctx t 0).base.toNat + oAddr w 4 % 2 ^ 23 + off))

/-- Write bytes of a parison (R331, R332). -/
def Dev.parisonWrite (d : Dev) (c : Nat) (w : List Word) (off : Nat) (bs : List Byte) : Dev × Option (Nat × Nat) :=
  if gDsp w then
    match d.parisonTile c w off with
    | some (_, a) => (d.writeWords 11 a bs, none)
    | none => (d, some (sParam, 0))
  else d.engineWrite 11 c (oAddr w 4 + off) bs

/-- The start checks of a gather (R332). -/
def Dev.gatherCheck (d : Dev) (c : Nat) (w : List Word) (x : Tensor) : Nat :=
  let total := gNsh w * x.shb
  if (d.rankTable c x.rt).length < gFirst w + gNsh w then sBound
  else if gDsp w then
    match d.mapTile c (gTile w) with
    | none => sParam
    | some t => if (d.ctx t 0).bound.toNat < oAddr w 4 % 2 ^ 23 + total then sBound else sOk
  else if d.vlim c < oAddr w 4 + total then sBound
  else sOk

/-- A gather starts (R329, R332, R333): its requests go out, and its own shard is copied. -/
def Dev.gatherStart (d : Dev) (c i : Nat) (o : CxOp) : Dev :=
  let w := o.w
  match (d.coll c).tensors[oTensor w]? with
  | none => d.cxFail c i sParam 0xFFFF 0 0 true
  | some x =>
    let st := d.gatherCheck c w x
    if st ≠ sOk then d.cxFail c i st 0xFFFF (oAddr w 4) 0 true
    else
      let g := if gSel w then (x.cur + 2 ^ 32 - 1) % 2 ^ 32 else x.cur
      let rt := d.rankTable c x.rt
      let d := d.putOp c i { o with gen := g }
      let r := (List.range (gNsh w)).foldl (fun (a : Dev × Option CxBad) j =>
        let (d, bad) := a
        let fa := rt.getD (gFirst w + j) 0
        if bad.isSome then (d, bad)
        else if fa ≠ d.fa then
          ((d.addPend c i fa 0 j).sendFrame 32 (d.cxFrame c 8 fa (oTensor w) g (gFirst w) 0 []), none)
        else if !x.holds g then
          ((d.count Reg.FLM_CX_STALE 1).event 0x6002 (oTensor w) g x.cur d.fa,
            some { status := sStale, peer := d.fa, addr := x.buf g, source := 1 })
        else match d.engineRead 11 c (x.buf g) x.shb with
          | (d, _, some b) => (d, some (cxBadAt b))
          | (d, bs, none) => match d.parisonWrite c w (j * x.shb) bs with
            | (d, some b) => (d, some (cxBadAt b))
            | (d, none) => (d.addBytes c i bs.length, none)) (d, none)
      match r with
      | (d, some b) => d.cxFail c i b.status b.peer b.addr b.source false
      | (d, none) => d

/-- Cut bytes into parts of at most 8,192, with their offsets (R400). -/
def parts8k (bs : List Byte) : List (Nat × List Byte) :=
  (List.range (ceilDiv bs.length 8192)).map fun k => (8192 * k, (bs.drop (8192 * k)).take 8192)

/-- A gather request reaches the owner (R330, R333 to R335). -/
def Dev.gatherServe (d : Dev) (f : Frame) : Dev :=
  match d.jobCtx f.job with
  | none => (d.cxError 0xF f.sfa 0 1 sPerm).answerTo f sPerm 0
  | some c =>
    let g := f.arg0.toNat
    match (d.coll c).tensors[f.flow]? with
    | none => (d.cxError c f.sfa 0 1 sParam).answerTo f sParam 0
    | some x =>
      if !x.holds g then
        (((d.cxError c f.sfa (x.buf g) 1 sStale).count Reg.FLM_CX_STALE 1).event 0x6002 f.flow g x.cur f.sfa).answerTo f
          sStale 0
      else match d.engineRead 11 c (x.buf g) x.shb with
        | (d, _, some (st, a)) => (d.cxError c f.sfa a 1 st).answerTo f st 0
        | (d, bs, none) =>
          let at_ := (d.ownRank c x.rt - f.arg1.toNat) * x.shb
          (parts8k bs).foldl (fun d p => d.sendFrame 32 (d.cxFrame c 9 f.sfa f.flow g (at_ + p.1) 0 p.2)) d

/-- The gather that a frame of shard data belongs to: its operation and shard. -/
def Dev.gatherOf (d : Dev) (c : Nat) (f : Frame) : Option (Nat × Nat) :=
  let off := f.arg1.toNat
  (List.range (d.coll c).ops.length).findSome? fun i =>
    match d.cxOp c i, (d.coll c).tensors[f.flow]? with
    | some o, some x =>
      let j := off / x.shb
      if oKind o.w = 1 ∧ o.stage = .running ∧ oTensor o.w = f.flow ∧ o.gen = f.arg0.toNat ∧
          o.pend.any (fun p => decide (p.peer = f.sfa ∧ p.key = j)) ∧ off % x.shb + f.payload.length ≤ x.shb
        then some (i, j) else none
    | _, _ => none

/-- Shard data reaches the requester (R332, R333). Data that no gather awaits is discarded (log 55). -/
def Dev.gatherData (d : Dev) (f : Frame) : Dev :=
  match d.jobCtx f.job with
  | none => (d.cxError 0xF f.sfa 0 4 sPerm).answerTo f sPerm 0
  | some c =>
    match d.gatherOf c f with
    | none => d
    | some (i, j) =>
      match d.cxOp c i, (d.coll c).tensors[f.flow]? with
      | some o, some x =>
        match d.parisonWrite c o.w f.arg1.toNat f.payload with
        | (d, some (st, a)) => d.cxFail c i st f.sfa a 7 false
        | (d, none) =>
          let n := f.payload.length
          let up := fun (p : CxPend) => if p.peer = f.sfa ∧ p.key = j then { p with segment := p.segment + n } else p
          let pend := (o.pend.map up).filter fun p => decide (p.key ≠ j ∨ p.segment < x.shb)
          d.putOp c i { o with pend := pend, bytes := o.bytes + n }
      | _, _ => d

/-! ### Frames under a bucket tag (R336, R337) -/

/-- The operation of a bucket in a context, with its index. -/
def Dev.bucketOp (d : Dev) (c bucket : Nat) : Option (Nat × CxOp) :=
  (List.range (d.coll c).ops.length).findSome? fun i =>
    (d.cxOp c i).bind fun o => if oBucket o.w i = some bucket then some (i, o) else none

/-- Refuse a frame on arrival (R337): answered, counted, event 0x6006, and a collective error of the context, running or pre-empted,
with which the operation of its bucket fails (R358, R360). -/
def Dev.frameRefuse (d : Dev) (c : Option Nat) (f : Frame) (status : Nat) : Dev :=
  let d := d.cxError (c.getD 0xF) f.sfa 0 4 status
  let d := ((d.count Reg.FLM_CX_ARR_REF 1).event 0x6006 (c.getD 0xF) f.flow f.sfa status).answerTo f status 0
  match c with
  | some c =>
    let i := ((d.bucketOp c (f.flow % 4096)).map (·.1)).getD 0xFFFF
    if (d.img c).state = .running ∨ (d.img c).state = .preempted then (d.cxEnd c i status).cxStop c i status f.sfa else d
  | none => d

/-- Take a frame under a bucket tag: the context, and the operation of its bucket, which must be of the frame's kind. -/
def Dev.taggedFrame (d : Dev) (f : Frame) (kind : Nat) (act : Dev → Nat → Nat → CxOp → Dev) : Dev :=
  match d.jobCtx f.job with
  | none => d.frameRefuse none f sPerm
  | some c =>
    match d.bucketOp c (f.flow % 4096) with
    | none => d.frameRefuse (some c) f sParam
    | some (i, o) =>
      if f.flow / 4096 ≠ d.stepLow c % 16 ∨ oKind o.w ≠ kind then d.frameRefuse (some c) f sParam else act d c i o

/-! ### Combining reduce-scatter -/

/-- Element width of an RSC operation. -/
def rscWidth (w : List Word) : Nat := if rBf16 w then 2 else 4

/-- Chunks of a segment (R339). -/
def rscChunks (w : List Word) : Nat := oSegn w * rscWidth w / 256

/-- The start checks of an RSC operation (R340). -/
def Dev.rscCheck (d : Dev) (c : Nat) (w : List Word) : Nat :=
  let seg := oSegn w * rscWidth w
  if d.vlim c < oAddr w 4 + (d.rankTable c (oRt w)).length * seg ∨ d.vlim c < oAddr w 6 + seg then sBound else sOk

/-- A partial-sum frame reaches a tree node (R421). A sender that is no child of the node, or a frame beyond the segment,
is refused (log 56). -/
def Dev.rscpTake (d : Dev) (c i : Nat) (o : CxOp) (f : Frame) : Dev :=
  let rt := d.rankTable c (oRt o.w)
  let n := rt.length
  let root := f.arg0.toNat
  let first := f.arg1.toNat / 256
  let k := ceilDiv f.payload.length 256
  match rankOf rt f.sfa with
  | none => d.frameRefuse (some c) f sParam
  | some r =>
    let q := relRank n root (d.ownRank c (oRt o.w))
    let qs := relRank n root r
    if root ≥ n ∨ f.arg1.toNat % 256 ≠ 0 ∨ !(treeKids n q).contains qs ∨ f.arg2.toNat ≠ (if rBf16 o.w then 1 else 0) then
      d.frameRefuse (some c) f sParam
    else if rscChunks o.w < first + k then d.frameRefuse (some c) f sLen
    else
      let got := (List.range k).map fun m => (root, first + m, qs, (f.payload.drop (256 * m)).take 256)
      d.putOp c i { o with held := o.held ++ got, frames := o.frames ++ [(root, r, first, k)] }

/-- Answer the frames of children whose chunks have all been added, which returns their credits (R421). -/
def Dev.rscAnswer (d : Dev) (c i : Nat) : Dev :=
  match d.cxOp c i with
  | none => d
  | some o =>
    let isOver := fun (x : Nat × Nat × Nat × Nat) =>
      (List.range x.2.2.2).all fun m => o.combined.contains (x.1, x.2.2.1 + m)
    let tag := d.bucketTag c ((oBucket o.w i).getD 0)
    let rt := d.rankTable c (oRt o.w)
    (o.frames.filter isOver).foldl (fun d x =>
      let f : Frame := { d.cxFrame c 10 d.fa tag x.1 (256 * x.2.2.1) 0 [] with sfa := rt.getD x.2.1 0 }
      d.answerTo f sOk 0) (d.putOp c i { o with frames := o.frames.filter fun x => !isOver x })

/-- A node adds a chunk of one tree (R339, R420, R421): its own contribution and every child's are at hand, and toward a
parent fewer than four frames are unanswered. -/
def Dev.rscCombine (d : Dev) (c i root k : Nat) : Dev :=
  match d.cxOp c i with
  | none => d
  | some o =>
    let w := o.w
    let rt := d.rankTable c (oRt w)
    let n := rt.length
    let q := relRank n root (d.ownRank c (oRt w))
    let kids := (treeKids n q).map fun j => (o.held.find? fun x => decide (x.1 = root ∧ x.2.1 = k ∧ x.2.2.1 = j)).map (·.2.2.2)
    let parent := rt.getD (absRank n root (treeParent q)) 0
    let open_ := (o.pend.filter fun p => decide (p.segment = root)).length
    if oKind w ≠ 2 ∨ o.stage ≠ .running ∨ n ≤ root ∨ rscChunks w ≤ k ∨ o.combined.contains (root, k) ∨
        kids.any (·.isNone) ∨ (q ≠ 0 ∧ 4 ≤ open_) then d
    else match d.engineRead 11 c (oAddr w 4 + root * (oSegn w * rscWidth w) + 256 * k) 256 with
      | (d, _, some (st, a)) => d.cxFail c i st 0xFFFF a 7 false
      | (d, own, none) =>
        let pad := fun (bs : List Byte) => (bs ++ freeTail d.freeIx 256).take 256
        let (sum, sat) := combine (rBf16 w) 256 (own :: (kids.filterMap id).map pad)
        let d := d.draw.count Reg.RACE_RED_SAT sat
        let o' : CxOp := { o with combined := o.combined ++ [(root, k)]
                                  held := o.held.filter fun x => !decide (x.1 = root ∧ x.2.1 = k) }
        let d := d.putOp c i o'
        let r := if q = 0 then
            match d.engineWrite 11 c (oAddr w 6 + 256 * k) sum with
            | (d, none) => (d.addBytes c i 256, none)
            | x => x
          else
            ((d.addPend c i parent root k).sendFrame 32
              (d.cxFrame c 10 parent (d.bucketTag c ((oBucket w i).getD 0)) root (256 * k) (if rBf16 w then 1 else 0) sum), none)
        match r with
        | (d, some (st, a)) => d.cxFail c i st 0xFFFF a 7 false
        | (d, none) => d.rscAnswer c i

/-! ### Compressed reduce-scatter -/

/-- Frames of a segment (R346). -/
def rsxFrames (w : List Word) : Nat := oSegn w / 2048

/-- The start checks of an RSX operation (R348, R349). -/
def Dev.rsxCheck (d : Dev) (c : Nat) (w : List Word) : Nat :=
  let n := (d.rankTable c (oRt w)).length
  let lim := d.vlim c
  let cul := n * rsxFrames w * culletSize (xCfmt w)
  if !xCdb w ∧ bit (d.reg (at1 Reg.FLM_CX_CTLc 4 c)) 0 then sStale
  else if lim < oAddr w 4 + n * oSegn w * (if xSt w then 2 else 4) ∨ lim < oAddr w 6 + oSegn w * (if xDt w then 2 else 4) ∨
      lim < oAddr w 8 + (if xCdb w then 2 * cul else cul) ∨ lim < oAddr w 10 + n * rsxFrames w * 272 then sBound
  else sOk

/-- A frame lands in the landing zone (R346): `r` the sender's rank, `k` the frame. -/
def Dev.rsxLand (d : Dev) (c i r k : Nat) (bs : List Byte) : Dev × Option (Nat × Nat) :=
  match d.cxOp c i with
  | none => (d, none)
  | some o =>
    match d.engineWrite 11 c (oAddr o.w 10 + (r * rsxFrames o.w + k) * 272) bs with
    | (d, some b) => (d, some b)
    | (d, none) =>
      match d.cxOp c i with
      | some o => (d.putOp c i { o with landed := o.landed ++ [(r, k)] }, none)
      | none => (d, none)

/-- Encode and send one frame of the bucket (R342 to R346): `r` the rank it is for, `k` the frame in its segment. -/
def Dev.rsxFrame (d : Dev) (c i : Nat) (w : List Word) (r k : Nat) : Dev × Option CxBad :=
  let rt := d.rankTable c (oRt w)
  let own := d.ownRank c (oRt w)
  let f := r * rsxFrames w + k
  let sw := if xSt w then 2 else 4
  let size := culletSize (xCfmt w)
  let copy := rt.length * rsxFrames w * size
  let t := d.stepLow c % 2
  let cin := oAddr w 8 + (if xCdb w then t * copy else 0) + f * size
  let cout := oAddr w 8 + (if xCdb w then (1 - t) * copy else 0) + f * size
  match d.engineRead 11 c (oAddr w 4 + f * 2048 * sw) (2048 * sw) with
  | (d, _, some b) => (d, some (cxBadAt b))
  | (d, src, none) =>
    match d.engineRead 11 c cin size with
    | (d, _, some b) => (d, some (cxBadAt b))
    | (d, old, none) =>
      let xs := (List.range 2048).map fun j =>
        if xSt w then toF32 (Fmt.bf16.decode false (leAt src (2 * j) 2)) else BitVec.ofNat 32 (leAt src (4 * j) 4)
      let e := encodeFrame xs (culletRead (xCfmt w) (xShift w) old)
      let (bytes, cs) := culletWrite (xCfmt w) (xShift w) e.cout
      let d := d.count Reg.FLM_CX_CMP_SAT (e.sat + (cs.filter (·.sat)).length)
      let d := d.count Reg.FLM_CX_CMP_NAN (e.nan + (cs.filter (·.nan)).length)
      let d := d.count Reg.FLM_CX_CUL_FTZ (cs.filter (·.ftz)).length
      let d := match d.cxOp c i with
        | some o => d.putOp c i { o with cout := true }
        | none => d
      match d.engineWrite 11 c cout bytes with
      | (d, some b) => (d, some (cxBadAt b))
      | (d, none) =>
        if r = own then
          match d.rsxLand c i own k (frameBytes e) with
          | (d, some b) => (d, some (cxBadAt b))
          | (d, none) => (d, none)
        else
          let fa := rt.getD r 0
          let at_ := (own * rsxFrames w + k) * 272
          ((d.addPend c i fa r at_).sendFrame 32
            (d.cxFrame c 11 fa (d.bucketTag c ((oBucket w i).getD 0)) r at_ 0 (frameBytes e)), none)

/-- An RSX operation starts (R342 to R346): every frame of the bucket is encoded, in order, and sent. -/
def Dev.rsxStart (d : Dev) (c i : Nat) (o : CxOp) : Dev :=
  let st := d.rsxCheck c o.w
  if st ≠ sOk then d.cxFail c i st 0xFFFF (oAddr o.w 4) 0 true
  else
    let n := (d.rankTable c (oRt o.w)).length
    let r := (List.range (n * rsxFrames o.w)).foldl (fun (a : Dev × Option CxBad) f =>
      if a.2.isSome then a else a.1.rsxFrame c i o.w (f / rsxFrames o.w) (f % rsxFrames o.w)) (d, none)
    match r with
    | (d, some b) => d.cxFail c i b.status b.peer b.addr b.source false
    | (d, none) => d

/-- A compressed frame reaches its owner (R346). One that is for another rank or lies outside the landing zone is refused
(log 56). -/
def Dev.rsxTake (d : Dev) (c i : Nat) (o : CxOp) (f : Frame) : Dev :=
  let n := (d.rankTable c (oRt o.w)).length
  let k := f.arg1.toNat / 272
  if f.arg0.toNat ≠ d.ownRank c (oRt o.w) ∨ f.arg1.toNat % 272 ≠ 0 ∨ f.payload.length ≠ 272 ∨ n * rsxFrames o.w ≤ k then
    d.frameRefuse (some c) f sParam
  else match d.rsxLand c i (k / rsxFrames o.w) (k % rsxFrames o.w) f.payload with
    | (d, some (st, a)) => (d.answerTo f st 0).cxFail c i st f.sfa a 7 false
    | (d, none) => d.answerTo f sOk 0

/-- Read the frames of all ranks for frame `k` of the own segment. -/
def Dev.rsxRead (d : Dev) (c : Nat) (w : List Word) (k : Nat) : Dev × List (List Byte) × Option (Nat × Nat) :=
  (List.range (d.rankTable c (oRt w)).length).foldl (fun (a : Dev × List (List Byte) × Option (Nat × Nat)) r =>
    let (d, fs, bad) := a
    if bad.isSome then a
    else match d.engineRead 11 c (oAddr w 10 + (r * rsxFrames w + k) * 272) 272 with
      | (d, bs, none) => (d, fs ++ [bs], none)
      | (d, _, b) => (d, fs, b)) (d, [], none)

/-- The owner decodes and adds frame `k` once the frames of all ranks have landed (R347). -/
def Dev.rsxDecode (d : Dev) (c i k : Nat) : Dev :=
  match d.cxOp c i with
  | none => d
  | some o =>
    let w := o.w
    let n := (d.rankTable c (oRt w)).length
    if oKind w ≠ 3 ∨ o.stage ≠ .running ∨ rsxFrames w ≤ k ∨ o.summed.contains k ∨
        !(List.range n).all (fun r => o.landed.contains (r, k)) then d
    else match d.rsxRead c w k with
      | (d, _, some (st, a)) => d.cxFail c i st 0xFFFF a 5 false
      | (d, fs, none) =>
        let (sums, sat) := decodeSum fs
        let cs := sums.map fun x => Fmt.bf16.narrow1 .rne (f32 x)
        let bytes := if xDt w then cs.flatMap (fun x => bytesOf 2 x.code) else sums.flatMap fun x => bytesOf 4 x.toNat
        let sat := sat + (if xDt w then (cs.filter (·.sat)).length else 0)
        let d := d.count Reg.FLM_CX_CMP_SAT sat
        match d.engineWrite 11 c (oAddr w 6 + k * 2048 * (if xDt w then 2 else 4)) bytes with
        | (d, some (st, a)) => d.cxFail c i st 0xFFFF a 5 false
        | (d, none) =>
          match d.cxOp c i with
          | some o => d.putOp c i { o with summed := o.summed ++ [k], bytes := o.bytes + bytes.length }
          | none => d

/-! ### Permute -/

/-- An entry of a permutation table (R351): DRANK, SRANK, SOFF, DOFF, LEN, and whether a reserved bit is set. -/
structure PermEntry where
  drank : Nat
  srank : Nat
  soff : Nat
  doff : Nat
  len : Nat
  bad : Bool
  deriving DecidableEq, Repr

/-- Entry `k` of the bytes of a table. -/
def permEntry (bs : List Byte) (k : Nat) : PermEntry :=
  let w := leAt bs (16 * k) 4
  { drank := fldN w 16 13, srank := fldN w 0 13, soff := leAt bs (16 * k + 4) 4, doff := leAt bs (16 * k + 8) 4
    len := leAt bs (16 * k + 12) 4, bad := decide (fldN w 13 3 ≠ 0 ∨ fldN w 29 3 ≠ 0) }

/-- The checks of a permute's table in the order of R26 (R352). -/
def permStatus (es : List PermEntry) (own nOld nNew shb nshb : Nat) : Nat :=
  if es.any (fun e => e.len = 0) ∨ ((es.filter fun e => decide (e.drank = own)).map (·.len)).foldl (· + ·) 0 ≠ nshb then sLen
  else if es.any (fun e => decide (e.len % 8 ≠ 0 ∨ e.soff % 8 ≠ 0 ∨ e.doff % 8 ≠ 0 ∨ nOld ≤ e.srank ∨ nNew ≤ e.drank) || e.bad)
    then sParam
  else if es.any (fun e => decide (shb < e.soff + e.len ∨ nshb < e.doff + e.len)) then sBound
  else sOk

/-- The new buffer a permute fills (R353). -/
def permBuf (w : List Word) (cur : Nat) : Nat := if cur % 2 = 0 then oAddr w 6 else oAddr w 8

/-- Bytes of the own new shard land (R353). -/
def Dev.permLand (d : Dev) (c i doff : Nat) (bs : List Byte) : Dev × Option (Nat × Nat) :=
  match d.cxOp c i with
  | none => (d, none)
  | some o =>
    let cur := (((d.coll c).tensors[oTensor o.w]?).map (·.cur)).getD 0
    match d.engineWrite 11 c (permBuf o.w cur + doff) bs with
    | (d, some b) => (d, some b)
    | (d, none) =>
      match d.cxOp c i with
      | some o => (d.putOp c i { o with permBytes := o.permBytes + bs.length, bytes := o.bytes + bs.length }, none)
      | none => (d, none)

/-- Send one piece of the own old shard (R353). -/
def Dev.permSend (d : Dev) (c i : Nat) (w : List Word) (x : Tensor) (e : PermEntry) : Dev × Option CxBad :=
  let own := d.ownRank c (oRt w)
  match d.engineRead 11 c (x.buf x.cur + e.soff) e.len with
  | (d, _, some b) => (d, some (cxBadAt b))
  | (d, bs, none) =>
    if e.drank = own then
      match d.permLand c i e.doff bs with
      | (d, some b) => (d, some (cxBadAt b))
      | (d, none) => (d, none)
    else
      let fa := (d.rankTable c (oRt w)).getD e.drank 0
      ((parts8k bs).foldl (fun d p =>
        (d.addPend c i fa e.drank (e.doff + p.1)).sendFrame 32
          (d.cxFrame c 12 fa (d.bucketTag c ((oBucket w i).getD 0)) e.drank (e.doff + p.1) 0 p.2)) d, none)

/-- A permute starts (R352, R353). -/
def Dev.permStart (d : Dev) (c i : Nat) (o : CxOp) : Dev :=
  let w := o.w
  match (d.coll c).tensors[oTensor w]? with
  | none => d.cxFail c i sParam 0xFFFF 0 0 true
  | some x =>
    let lim := d.vlim c
    if lim < oAddr w 4 + 16 * pCount w then d.cxFail c i sBound 0xFFFF (oAddr w 4) 0 true
    else match d.engineRead 11 c (oAddr w 4) (16 * pCount w) with
      | (d, _, some (st, a)) => d.cxFail c i st 0xFFFF a 7 true
      | (d, bs, none) =>
        let es := (List.range (pCount w)).map (permEntry bs)
        let nNew := (d.rankTable c (oRt w)).length
        let st := permStatus es (d.ownRank c (oRt w)) (d.rankTable c x.rt).length nNew x.shb (pShb w)
        let st := if st = sOk ∧ (lim < oAddr w 6 + pShb w ∨ lim < oAddr w 8 + pShb w) then sBound else st
        if st ≠ sOk then d.cxFail c i st 0xFFFF (oAddr w 4) 0 true
        else
          let mine := es.filter fun e => decide (e.srank = d.ownRank c x.rt)
          let r := mine.foldl (fun (a : Dev × Option CxBad) e => if a.2.isSome then a else a.1.permSend c i w x e) (d, none)
          match r with
          | (d, some b) => d.cxFail c i b.status b.peer b.addr b.source false
          | (d, none) => d

/-- A permute frame reaches the device of its destination rank (R353). One for another rank or beyond the new shard is
refused (log 56). -/
def Dev.permTake (d : Dev) (c i : Nat) (o : CxOp) (f : Frame) : Dev :=
  if f.arg0.toNat ≠ d.ownRank c (oRt o.w) then d.frameRefuse (some c) f sParam
  else if pShb o.w < f.arg1.toNat + f.payload.length then d.frameRefuse (some c) f sBound
  else match d.permLand c i f.arg1.toNat f.payload with
    | (d, some (st, a)) => (d.answerTo f st 0).cxFail c i st f.sfa a 7 false
    | (d, none) => d.answerTo f sOk 0

/-! ### Start, end, answers, timeouts -/

/-- An operation starts (R312, R313). -/
def Dev.cxStart (d : Dev) (c i : Nat) : Dev :=
  match d.cxOp c i with
  | none => d
  | some o =>
    if o.stage ≠ .waiting ∨ !d.mayStart c i then d
    else
      let o' : CxOp := { o with stage := .running, started := true, start := d.cycle }
      let d := { d.putOp c i o' with cxWait := d.cxWait.filter (· ≠ (c, i)), cxRun := d.cxRun ++ [(c, i)] }
      if oKind o.w = 1 then d.gatherStart c i o'
      else if oKind o.w = 2 then
        let st := d.rscCheck c o.w
        if st ≠ sOk then d.cxFail c i st 0xFFFF (oAddr o.w 4) 0 true else d
      else if oKind o.w = 3 then d.rsxStart c i o'
      else d.permStart c i o'

/-- Everything an operation does on this device has been done (R333, R340, R347, R353). -/
def Dev.cxOver (d : Dev) (c : Nat) (o : CxOp) : Bool :=
  let w := o.w
  o.pend.isEmpty && (match oKind w with
    | 1 => true
    | 2 => decide (o.combined.length = (d.rankTable c (oRt w)).length * rscChunks w)
    | 3 => decide (o.summed.length = rsxFrames w)
    | _ => decide (o.permBytes = pShb w))

/-- An operation finishes (R314, R325, R354). Where its status entry cannot be written it fails instead, and signals nothing (R316,
R360). -/
def Dev.cxFinish (d : Dev) (c i : Nat) : Dev :=
  match d.cxOp c i with
  | none => d
  | some o =>
    if o.stage ≠ .running ∨ !d.cxOver c o then d
    else
      match d.cxStatus c i sOk o.bytes with
      | (d, some (st, a)) => d.cxFail c i st 0xFFFF a 7 false
      | (d, none) =>
        let d := { d.putOp c i { o with stage := .finished } with cxRun := d.cxRun.filter (· ≠ (c, i)) }
        let k := d.coll c
        let d := match oKind o.w, k.tensors[oTensor o.w]? with
          | 4, some x => d.setColl c { k with tensors := k.tensors.set (oTensor o.w) { x with perm := some i } }
          | _, _ => d
        d.signalDone c (oDone o.w)

/-- A peer has not answered within FLM_CX_TMOc (R334): SOURCE is that of the request or the send (R363). -/
def Dev.cxTimeout (d : Dev) (c i : Nat) : Dev :=
  match d.cxOp c i with
  | none => d
  | some o =>
    let lim := (d.reg (at1 Reg.FLM_CX_TMOc 4 c)).toNat
    match o.pend.find? fun p => decide (p.sent + cyclesOfUs lim ≤ d.cycle) with
    | some p =>
      if o.stage ≠ .running ∨ lim = 0 then d
      else
        let us := (d.cycle - p.sent) / 1600
        ((d.count Reg.FLM_CX_TMO 1).event 0x6003 c i p.peer us).cxFail c i sTimeout p.peer 0
          (if oKind o.w = 1 then 2 else if oKind o.w = 4 then 6 else 3) false
    | none => d

/-- An ANSWER frame to a frame of the engine (R334, R337, R347; log 15): `kind` is the kind answered. -/
def Dev.cxAnswer (d : Dev) (c kind : Nat) (f : Frame) : Dev :=
  let status := fld f.arg1 24 4
  let flow := fld f.arg1 0 16
  if kind = 8 then
    let hit := (List.range (d.coll c).ops.length).find? fun i => match d.cxOp c i with
      | some o => decide (oKind o.w = 1 ∧ o.stage = .running ∧ oTensor o.w = flow ∧ o.gen = f.arg0.toNat ∧
          gFirst o.w = f.arg2.toNat) && o.pend.any fun p => decide (p.peer = f.sfa)
      | none => false
    match hit with
    | some i => if status = sOk then d else d.cxFail c i status f.sfa 0 2 false
    | none => d
  else match d.bucketOp c (flow % 4096) with
    | none => d
    | some (i, o) =>
      let key := if kind = 10 then f.arg2.toNat / 256 else f.arg2.toNat
      let mine := fun (p : CxPend) => decide (p.peer = f.sfa ∧ p.key = key ∧ p.segment = f.arg0.toNat)
      if o.stage ≠ .running ∨ !o.pend.any mine then d
      else if status = sOk then d.putOp c i { o with pend := o.pend.filter fun p => !mine p }
      else d.cxFail c i status f.sfa 0 (if kind = 12 then 6 else 3) false

end Sys2Proof.Machine
end

