-- ==== Sys2Proof/Machine/FlumeIn.lean ====
section
/-!
DEFINITION. Flume frames as they arrive: the bytes of a frame (R400, R401), the receiving end of a link (R405), the router's
checks (R403, R414), ingress capture (R391) and replay from capture (R393).
-/
namespace Sys2Proof.Machine

/-! ### The bytes of a frame -/

/-- The seven words of the header (R401). -/
def headerWords (f : Frame) : List Word :=
  [BitVec.ofNat 32 (f.cls % 4 * 2 ^ 30 + f.kind % 16 * 2 ^ 26 + f.ttl % 256 * 2 ^ 16 + (if f.keyId then 2 ^ 15 else 0) +
     f.payload.length % 2 ^ 14),
   BitVec.ofNat 32 (f.dfa % 2 ^ 16 * 2 ^ 16 + f.sfa % 2 ^ 16), f.job,
   BitVec.ofNat 32 (f.lseq % 2 ^ 12 * 2 ^ 20 + f.flow % 2 ^ 16), f.arg0, f.arg1, f.arg2]

/-- One step of the IEEE 802.3 CRC-32 over one byte. -/
def crc32Byte (crc b : Nat) : Nat :=
  (List.range 8).foldl (fun c _ => if c % 2 = 1 then (c / 2) ^^^ 0xEDB88320 else c / 2) (crc ^^^ b)

/-- The CRC-32 of R400. -/
def crc32 (bs : List Byte) : Nat := (bs.foldl (fun c b => crc32Byte c b.toNat) 0xFFFFFFFF) ^^^ 0xFFFFFFFF

/-- The bytes of a frame on an unencrypted port (R400). -/
def wireBytes (f : Frame) : List Byte :=
  let body := bytesOfWords (headerWords f) ++ f.payload
  body ++ bytesOf 4 (crc32 body)

/-! ### The receiving end of a link (R405) -/

/-- A frame that this device sends to itself crosses no link (log 57). -/
def Dev.loops (d : Dev) (f : Frame) : Bool := decide (f.sfa = d.fa ∧ f.dfa = d.fa) && decide (2 ≤ f.kind)

/-- The receiver delivers a frame whose LSEQ is the next expected on a port that is UP in FLUME mode, and acknowledges at
least once per 64 frames (R405, R412). A frame protected otherwise than the port asks is none it accepts (R409). HELLO frames carry no
LSEQ of the numbering (log 80). -/
def Dev.linkAccept (d : Dev) (n : Nat) (f : Frame) : Option Dev :=
  if d.loops f then some d
  else
    let p := d.port n
    if p.state ≠ .up ∨ d.portMode n ≠ 1 ∨ f.lseq ≠ p.expect ∨ f.enc ≠ d.portEnc n then none
    else
      let q := { p with expect := (p.expect + 1) % 4096, authSeq := p.authSeq.filter (· ≠ f.lseq) }
      if 64 ≤ p.ackDue + 1 then some ((d.setPort n { q with ackDue := 0 }).emit (.ack n p.expect))
      else some (d.setPort n { q with ackDue := p.ackDue + 1 })

/-! ### The router -/

/-- A frame whose CLASS does not match its KIND, whose CLASS is 3, or whose KIND is reserved (R402, R403). -/
def badClass (f : Frame) : Bool := decide (f.cls ≠ frameClass f.kind ∨ 14 ≤ f.kind)

/-- Discard such a frame: counted and, but for an ANSWER, logged and answered (R403). -/
def Dev.badFrame (d : Dev) (n : Nat) (f : Frame) : Dev :=
  let d := d.count Reg.FLM_DISCARD 1
  if f.kind = 3 then d else (d.flmError f n 0 2 sParam).answerTo f sParam (frameRef f)

/-- Forward a frame for another device: TTL goes down; at 0 the frame is discarded and event 0x7007 recorded (R403);
otherwise it is routed (R414). -/
def Dev.forward (d : Dev) (n : Nat) (f : Frame) : Dev :=
  let f := { f with ttl := f.ttl - 1 }
  if f.ttl = 0 then
    (((d.count Reg.FLM_DISCARD 1).flmError f n 0 1 sParam).event 0x7007 f.dfa f.sfa f.kind n).answerTo f sParam (frameRef f)
  else d.sendFrame n f

/-- What the router does with a frame that no row of its own takes: link-local kinds are never routed; nothing else passes
while ROUTE_EN is 0 (R402, R413). -/
def Dev.routed (d : Dev) (n : Nat) (f : Frame) : Dev :=
  if f.kind < 2 then d
  else if !d.routeEn then d
  else if badClass f then d.badFrame n f
  else if f.dfa = d.fa then d
  else d.forward n f

/-! ### Capture (R391, R392) -/

/-- The step being captured lies among the steps asked for. -/
def Dev.capturing (d : Dev) (c : Nat) : Bool :=
  let w := d.reg (at1 Reg.UPD_CAP_CTLc 0x100 c)
  let first := (d.reg (at1 Reg.UPD_CAP_FIRSTc 0x100 c)).toNat
  bit w 31 && decide ((d.stepLow c + 2 ^ 32 - first) % 2 ^ 32 < fld w 0 16)

/-- Capture stops at a frame that does not fit (R391). -/
def Dev.capStop (d : Dev) (c bytes frames : Nat) : Dev :=
  let r := at1 Reg.UPD_CAP_CTLc 0x100 c
  (d.setReg r (putBit (d.reg r) 31 false)).event 0x6205 c (d.stepLow c) (bytes % 2 ^ 32) frames

/-- The open block of the current step. -/
def Dev.capOpen (d : Dev) (c : Nat) : Option CapBlock :=
  match (d.stepOf c).capBlocks.getLast? with
  | some b => if b.step = d.stepLow c ∧ !b.complete then some b else none
  | none => none

/-- Put bytes at the free end of the capture region. -/
def Dev.capWrite (d : Dev) (c : Nat) (bs : List Byte) : Dev :=
  let s := d.stepOf c
  match s.capRegion with
  | none => d
  | some (a, _) => (d.setStep c { s with capPos := s.capPos + bs.length }).writeWords 11 (a + s.capPos) bs

/-- `n` bytes fit the rest of the capture region. -/
def Dev.capFits (d : Dev) (c n : Nat) : Bool :=
  let s := d.stepOf c
  match s.capRegion with
  | none => false
  | some (_, size) => decide (s.capPos + n ≤ size)

/-- The 64-byte head of a block: what it holds is given, its layout is not (R391; log 58). -/
def CapBlock.head (b : CapBlock) : List Byte :=
  (Config.capHead b.step b.frames.length b.bytes b.complete ++ List.replicate 64 0).take 64

/-- The newest block changes, and its head with it (R391). -/
def Dev.capSet (d : Dev) (c : Nat) (b : CapBlock) : Dev :=
  let s := d.stepOf c
  let d := d.setStep c { s with capBlocks := s.capBlocks.dropLast ++ [b] }
  match s.capRegion with
  | some (a, _) => d.writeWords 11 (a + b.at_) b.head
  | none => d

/-- Open the block of the current step. -/
def Dev.capBegin (d : Dev) (c : Nat) : Dev :=
  let s := d.stepOf c
  let b : CapBlock := { at_ := s.capPos, step := d.stepLow c, frames := [], bytes := 0, complete := false }
  (d.setStep c { s with capBlocks := s.capBlocks ++ [b] }).capWrite c b.head

/-- The bytes of a captured frame: a head of 16 bytes with length, port and traffic class, whose layout is given nowhere (log 58), the
frame as received, and padding; on an encrypted port the frame carries its authentication tag, whose value is free. -/
def Dev.capBytes (d : Dev) (n : Nat) (f : Frame) : List Byte :=
  let tag := if d.portEnc n then freeTail d.freeIx 16 else []
  let body := wireBytes f ++ tag
  (Config.capFrameHead body.length n f.cls ++ List.replicate 16 0).take 16 ++ body ++ List.replicate (alignUp 16 body.length - body.length) 0

/-- Capture a frame received for a context (R391). -/
def Dev.capture1 (d : Dev) (c n : Nat) (f : Frame) : Dev :=
  if !d.capturing c then d
  else
    let bs := d.capBytes n f
    let head := if (d.capOpen c).isSome then 0 else 64
    if !d.capFits c (head + bs.length) then
      match d.capOpen c with
      | some b => d.capStop c b.bytes b.frames.length
      | none => d.capStop c 0 0
    else
      let d := if (d.capOpen c).isSome then d else d.capBegin c
      let d := d.draw.capWrite c bs
      match (d.stepOf c).capBlocks.getLast? with
      | some b => d.capSet c { b with frames := b.frames ++ [(n, f)], bytes := b.bytes + bs.length }
      | none => d

/-- The step ends: its block is complete, where capture has not stopped (R391). An empty block has a head too. -/
def Dev.capClose (d : Dev) (c : Nat) : Dev × Bool :=
  if !d.capturing c then (d, false)
  else
    let ready := if (d.capOpen c).isSome then some d else if d.capFits c 64 then some (d.capBegin c) else none
    match ready with
    | none => (d.capStop c 0 0, false)
    | some d =>
      match (d.stepOf c).capBlocks.getLast? with
      | some b => (d.capSet c { b with complete := true }, true)
      | none => (d, false)

/-! ### Replay from capture (R393) -/

/-- The context replays from its capture block (log 53). -/
def Dev.soloReplay (d : Dev) (c : Nat) : Bool :=
  let w := d.reg (at1 Reg.UPD_RPL_CTLc 0x100 c)
  decide (fld w 30 2 ≠ 0) && bit w 3

/-- The captured block of the current step. -/
def Dev.soloBlock (d : Dev) (c : Nat) : Option CapBlock := (d.stepOf c).capBlocks.find? fun b => decide (b.step = d.stepLow c)

/-- The next frame of the block a context replays from. -/
def Dev.soloNext (d : Dev) (c : Nat) : Option (Nat × Frame) :=
  (d.soloBlock c).bind fun b => b.frames[(d.stepOf c).capRead]?

/-! ### Arrival -/

/-- The context under whose JOB a frame travels; a link-local frame has none. -/
def Dev.frameCtx (d : Dev) (f : Frame) : Option Nat := if f.kind < 2 then none else d.jobCtx f.job

/-- A frame of a kind reaches port `n`. Under a replay from capture, a frame of the context is taken only where it is the
next of its block, and stands for the block's delivery of it (log 59). Otherwise the link accepts it (R405), the router
checks and routes it (R403, R413, R414), and one for this device is captured (R391) and acted on. -/
def Dev.frameIn (d : Dev) (n : Nat) (f : Frame) (kind : Nat) (act : Dev → Dev) : Dev :=
  if f.kind ≠ kind then d
  else
    let solo := match d.frameCtx f with
      | some c => if d.soloReplay c ∧ f.dfa = d.fa then some c else none
      | none => none
    match solo with
    | some c =>
      if d.soloNext c = some (n, f) then
        let s := d.stepOf c
        act (d.setStep c { s with capRead := s.capRead + 1 })
      else d
    | none =>
      match d.linkAccept n f with
      | none => d
      | some d =>
        if !d.routeEn then d
        else if badClass f then d.badFrame n f
        else if f.dfa ≠ d.fa then d.forward n f
        else match d.frameCtx f with
          | some c => act (d.capture1 c n f)
          | none => act d

/-- A frame that is not for this device reaches port `n`, or one the router must discard (R403, R413, R414). -/
def Dev.frameThrough (d : Dev) (n : Nat) (f : Frame) : Dev :=
  if f.kind < 2 ∨ d.loops f ∨ (f.dfa = d.fa ∧ !badClass f ∧ d.routeEn) then d
  else match d.linkAccept n f with
    | none => d
    | some d => d.routed n f

end Sys2Proof.Machine
end

