-- ==== Sys2Proof/Machine/CollRun.lean ====
section
/-!
DEFINITION. The commands of the collective engine (chapter 8).
-/
namespace Sys2Proof.Machine

/-- COLLECTIVE_START (R312, R313, R315, R329 to R333, R338 to R353). -/
def execCollectiveStart (c : ICtx) (op : Nat) (s : State) : Res := .next (onDev (fun d => d.cxStart c op) s)

/-- COLLECTIVE_FINISH (R314, R325). -/
def execCollectiveFinish (c : ICtx) (op : Nat) (s : State) : Res := .next (onDev (fun d => d.cxFinish c op) s)

/-- COLLECTIVE_TIMEOUT (R334, R361). -/
def execCollectiveTimeout (c : ICtx) (op : Nat) (s : State) : Res := .next (onDev (fun d => d.cxTimeout c op) s)

/-- GREQ_FRAME (R330, R333 to R335). -/
def execGreqFrame (p : Port) (f : Frame) (s : State) : Res :=
  .next (onDev (fun d => d.frameIn p f 8 fun d => d.gatherServe f) s)

/-- GDAT_FRAME (R333). -/
def execGdatFrame (p : Port) (f : Frame) (s : State) : Res :=
  .next (onDev (fun d => d.frameIn p f 9 fun d => d.gatherData f) s)

/-- RSCP_FRAME (R337, R421). -/
def execRscpFrame (p : Port) (f : Frame) (s : State) : Res :=
  .next (onDev (fun d => d.frameIn p f 10 fun d => d.taggedFrame f 2 fun d c i o => d.rscpTake c i o f) s)

/-- RSCP_CHUNK_COMBINE (R339, R420, R421). -/
def execRscpChunkCombine (c : ICtx) (op root chunk : Nat) (s : State) : Res :=
  .next (onDev (fun d => d.rscCombine c op root chunk) s)

/-- RSXF_FRAME (R337, R346). -/
def execRsxfFrame (p : Port) (f : Frame) (s : State) : Res :=
  .next (onDev (fun d => d.frameIn p f 11 fun d => d.taggedFrame f 3 fun d c i o => d.rsxTake c i o f) s)

/-- RSX_DECODE_SUM (R347). -/
def execRsxDecodeSum (c : ICtx) (op frame : Nat) (s : State) : Res := .next (onDev (fun d => d.rsxDecode c op frame) s)

/-- PERM_FRAME (R337, R353). -/
def execPermFrame (p : Port) (f : Frame) (s : State) : Res :=
  .next (onDev (fun d => d.frameIn p f 12 fun d => d.taggedFrame f 4 fun d c i o => d.permTake c i o f) s)

end Sys2Proof.Machine
end

