-- ==== Sys2Proof/Machine/SyncApply.lean ====
section
/-!
DEFINITION. Sync objects at their homes (R237, R238, R244, R247, R253), the superstep boundary (R194, R195) with its ledger
and trace records (R390, R394, R395), and what takes effect there; domain objects (R424); and the start of a commit (R364).
-/
namespace Sys2Proof.Machine

/-! ### The ledger and the trace (R390, R394, R395) -/

/-- The measured times of a context's logical mill: X, C and W (R394). -/
def Dev.millTimes (d : Dev) (c l now : Nat) : Nat × Nat × Nat :=
  let m := d.measure c
  let x := Tab.get (fun _ => m.boundary) m.xEnd l
  let a := Tab.get (fun _ => now) m.arrival l
  (x - m.boundary, a - x, now - a)

/-- The first index at which a list has its largest value. -/
def argMax (xs : List Nat) : Nat := (xs.findIdx? (· = xs.foldl max 0)).getD 0

/-- The least value of a list. -/
def leastOf (xs : List Nat) : Nat := xs.foldl min (xs.headD 0)

/-- Write the ledger record of a superstep boundary (R395). -/
def Dev.ledgerRecord (d : Dev) (c : Nat) : Dev :=
  let now := d.globalNs
  let m := d.measure c
  let n := (d.img c).mills.length
  let ts := (List.range n).map fun l => d.millTimes c l now
  let top := 0xFFFFFFFF
  let u := fun (v : Nat) => bytesOf 4 (sat top v)
  let xs := ts.map (·.1)
  let cs := ts.map (·.2.1)
  let ws := ts.map (·.2.2)
  let flags := c + (if m.boosted then 16 else 0) + (if m.lent then 32 else 0)
  let bs := bytesOf 8 now ++ u (now - m.boundary) ++ u m.superstep ++ bytesOf 4 (d.stepLow c) ++ bytesOf 2 flags ++
    bytesOf 2 n ++ u (leastOf xs) ++ u (xs.foldl max 0) ++ u (leastOf cs) ++ u (cs.foldl max 0) ++ u (leastOf ws) ++
    u (ws.foldl max 0) ++ bytesOf 2 (argMax xs) ++ bytesOf 2 (argMax cs) ++ bytesOf 4 0 ++ u m.pad ++ u m.dry
  let i := d.regFld Reg.UPD_PL_CURSOR 16 12
  { d with
    ledger := Tab.set (fun _ => List.replicate 16 0) d.ledger i (wordsOf 16 bs), ledgerCount := d.ledgerCount + 1 }.setFld Reg.UPD_PL_CURSOR 16 12 (i + 1)

/-- The bytes of a trace record (R390). -/
def traceBytes (s l : Nat) (a : TraceAcc) : List Byte :=
  let u := fun (v : Nat) => bytesOf 4 (sat 0xFFFFFFFF v)
  bytesOf 4 s ++ bytesOf 2 l ++ bytesOf 1 a.xstat ++ bytesOf 1 0 ++ bytesOf 8 a.rxd ++ u a.csat ++ u a.cftz ++ u a.cnan ++
    u a.mcmd

/-- Word `i` of a context's update section header (R373), 0 without a section. -/
def Dev.updWord (d : Dev) (c i : Nat) : Word :=
  match (d.stepOf c).section_ with
  | some u => wordAt u.header i
  | none => 0

/-- A 48-bit address in words `i` and `i + 1` of the header. -/
def Dev.updAddr (d : Dev) (c i : Nat) : Nat := (d.updWord c i).toNat + fld (d.updWord c (i + 1)) 0 16 * 2 ^ 32

/-- The replay state of a context (UPD_RPL_CTLc.STATE). -/
def Dev.rplState (d : Dev) (c : Nat) : Nat := d.regFld (at1 Reg.UPD_RPL_CTLc 0x100 c) 30 2

/-- Write the trace records of a superstep, one per logical tile, while a replay traces and they fit (R390). -/
def Dev.traceRecords (d : Dev) (c : Nat) : Dev :=
  let r := at1 Reg.UPD_RPL_CTLc 0x100 c
  let s := (d.measure c).superstep
  let tiles := 8 * (d.img c).nmills
  let tva := d.updAddr c 4
  let size := (d.updWord c 6).toNat * 65536
  if d.rplState c ≠ 2 ∨ !bit (d.reg r) 2 then d
  else (List.range tiles).foldl (fun d l =>
    if bit (d.reg r) 4 then d
    else if size < (s * tiles + l + 1) * 32 then d.setReg r (putBit (d.reg r) 4 true)
    else
      let z : TraceAcc := { xstat := 0, rxd := 0, csat := 0, cftz := 0, cnan := 0, mcmd := 0 }
      let a := Tab.get (fun _ => z) (d.stepOf c).trace l
      (d.engineWrite 10 c (tva + (s * tiles + l) * 32) (traceBytes s l a)).1) d

/-! ### Parking at a point (R559, R560) -/

/-- A park is under way whose point is the next boundary, or the end of action 7 (R559). -/
def Dev.parkPoint (d : Dev) (commit : Bool) : Bool :=
  let forced := d.park.causes.toNat.testBit 1 || d.park.causes.toNat.testBit 2 || d.park.causes.toNat.testBit 3
  let policy := bit (d.reg Reg.LEHR_ALERT_CTL) 30
  decide (d.park.stage = .parking) && (if commit then policy && !forced else forced || !policy)

/-- A context reaches its park point: its release, or actions 8 and 9, are withheld, and a STOP or PREEMPT that waits for
the boundary completes with ERR_PERM (R559, R560). -/
def Dev.reachPark (d : Dev) (c : Nat) : Dev :=
  let d : Dev := { d with park := { d.park with atPoint := d.park.atPoint ++ [c] } }
  match (d.img c).wait with
  | .stopAtBoundary | .preemptAtBoundary => d.complete c sPerm
  | _ => d

/-! ### The boundary (R194, R195) -/

/-- The release of a boundary goes to the exchange sequencers of the context's tiles; a tile that has exited runs no further
phase (R195, R484). The ledger's times start anew. -/
def Dev.releaseBoundary (d : Dev) (c : Nat) : Dev :=
  let i := d.img c
  let d := d.setImg c { i with withheld := false }
  let d := (d.tilesOf c).foldl (fun d t =>
    if i.exited.contains t then d else d.setSeq t { d.seq t with stage := .due }) d
  let m := d.measure c
  d.setMeasure c { m with
    boundary := d.globalNs, xEnd := [], arrival := [], pad := 0, dry := 0
    boosted := i.mills.any fun p => decide (p < 216 ∧ 0 < (d.clk p).level)
    lent := i.mills.any fun p => decide (p < 216) && (d.clk p).lend }

/-- A mill of the context has its command queue in FAULT (R109). -/
def Dev.millFault (d : Dev) (c : Nat) : Option (Nat × Nat) :=
  (d.img c).mills.findSome? fun p => if p < 216 then (d.mill p).fault.map fun f => (p * 8 + f.1, f.2) else none

/-- A Sluice queue of the context's tiles is in HALT (R287). -/
def Dev.sluiceHalt (d : Dev) (c : Nat) : Option (Nat × Nat) :=
  (d.tilesOf c).findSome? fun t =>
    (List.range 4).findSome? fun q => (d.queue (t / 8 * 32 + t % 8 * 4 + q)).halt.map fun st => (t, st)

/-- A commit of the context is running (R365); a replay held in DONE has ended its commit (R389). -/
def Dev.commitRuns (d : Dev) (c : Nat) : Bool := decide ((d.stepOf c).action ≠ 0) && !(d.stepOf c).rplHeld

/-- What takes effect at a boundary, in this order: a pending fence (R526, R527), a mill queue in FAULT (R109), a Sluice
queue in HALT (R287), a stop that waited for a commit (R367), a park point (R559), a waiting STOP (R485) or PREEMPT
(R489). Otherwise, and while a commit runs (R367), the release goes out. -/
def Dev.atBoundary (d : Dev) (c : Nat) : Dev :=
  if d.commitRuns c then d.releaseBoundary c
  else if !(d.pendingOf c).isEmpty then d.deviceStop c 0x0C 0xFFFF sOk
  else match d.millFault c with
  | some (t, st) => d.deviceStop c 0x04 t st
  | none =>
    match d.sluiceHalt c with
    | some (t, st) => d.deviceStop c 0x06 t st
    | none =>
      match (d.img c).due with
      | some x => d.deviceStop c x.cause 0xFFFF sOk
      | none =>
        if d.parkPoint false then d.reachPark c
        else match (d.img c).wait with
          | .stopAtBoundary => (d.stopContext c 0x01 0xFFFF sOk false).complete c sOk
          | .preemptAtBoundary => d.setImg c { d.img c with wait := .quiesce }
          | _ => d.releaseBoundary c

/-- The superstep barrier has counted its last arrival (R194): the ledger and trace records are written, the boundary is
counted (R385), and the waiters stay with their tiles' sequencers (R195). -/
def Dev.boundary (d : Dev) (c : Nat) (ws : List Waiter) : Dev :=
  let d := (d.ledgerRecord c).traceRecords c
  let s := d.stepOf c
  let d := d.setStep c { s with barriers := s.barriers + 1, trace := [] }
  let m := d.measure c
  let d := d.setMeasure c { m with superstep := m.superstep + 1 }
  let i := d.img c
  let d := d.setImg c { i with withheld := true }
  let d := (d.tilesOf c).foldl (fun d t =>
    if i.exited.contains t then d
    else d.setSeq t { d.seq t with stage := .held, waiters := ws.filter fun w => decide (w.tile = t) }) d
  d.atBoundary c

/-! ### Firing (R237) -/

/-- The object is the commit object of its context (R364). -/
def Dev.isCommitObj (d : Dev) (o : SyncObj) : Bool :=
  match (d.stepOf o.ictx).section_ with
  | some u => decide (fld (wordAt u.header 0) 20 12 = o.vid)
  | none => false

/-- A phase of CVID fires and the commit begins, holding its waiters (R364). -/
def Dev.commitStart (d : Dev) (c : Nat) (ws : List Waiter) : Dev :=
  let s := d.stepOf c
  let marks := ((d.img c).mills.filter (· < 216)).map fun p => (p, (d.mill p).next)
  let d := d.setStep c { s with action := 1, waiters := s.waiters ++ ws, sent := false, millNext := marks }
  d.setFld (at1 Reg.UPD_CMTc 0x100 c) 30 2 2

/-- The object with its phase fired (R237). -/
def SyncObj.fired (o : SyncObj) : SyncObj :=
  { o with
    state := .idle, phase := (o.phase + 1) % 2 ^ 16, sig := 0, arr := 0, crd := o.crd - o.ann, ann := 0, waiters := []
    heldDue := !o.held.isEmpty, ready := [], reported := false }

/-- A phase fires (R237): the superstep barrier's is the boundary (R231), CVID's starts the commit (R364), which raises the
vector at its action 9 (R365); any other releases its waiters. Operations that the object triggers wait for their start
(R312). -/
def Dev.fireObj (d : Dev) (p : Nat) : Dev :=
  let o := d.obj p
  let c := o.ictx
  let d := d.setObj p o.fired
  let commit := d.isCommitObj o
  let d := if o.notify && !commit then d.emit (.msix (d.owner c) o.vec) else d
  let d := if o.vid = 0 then d.boundary c o.waiters
    else if commit then d
    else o.waiters.foldl (fun d w => d.fireWaiter w sOk) d
  let d := if commit then d.commitStart c (if o.vid = 0 then [] else o.waiters) else d
  ((c, o.vid) :: o.mapped).foldl (fun d m => d.cxTrigger m.1 m.2) d

/-- The local condition of R237. -/
def SyncObj.met (o : SyncObj) : Bool := decide (o.state = .opened ∧ o.arr = o.arrs ∧ o.sig = o.sigs ∧ o.ann ≤ o.crd)

/-- The place of a rank table's own device in the tree of R423, with the table. -/
def Dev.ownPlace (d : Dev) (c : Nat) : List Nat × Nat := (d.rankTable c 0, d.ownRank c 0)

/-- A SIG frame of a domain object (R402, R424; log 61): its counter in the payload word of R245, with OP 0, and its phase. -/
def Dev.domainFrame (d : Dev) (c p phase dfa : Nat) : Frame :=
  d.cxFrame c 6 dfa 0 (headerH0 0 4 c 1 0 0) (sigWord 0 p) phase []

/-- The phase of a domain object is released: this device fires it and passes the release down the tree (R424). -/
def Dev.domainRelease (d : Dev) (p : Nat) : Dev :=
  let o := d.obj p
  let (rt, q) := d.ownPlace o.ictx
  let d := (treeKids rt.length q).foldl (fun d j => d.sendFrame 32 (d.domainFrame o.ictx p o.phase (rt.getD j 0))) d
  d.fireObj p

/-- A domain object's condition or its children's reports have changed: once both are complete the root releases the phase
and any other node reports upward, once (R424). -/
def Dev.domainCheck (d : Dev) (p : Nat) : Dev :=
  let o := d.obj p
  let (rt, q) := d.ownPlace o.ictx
  if !o.met ∨ !(treeKids rt.length q).all (fun j => o.ready.contains (rt.getD j 0)) then d
  else if q = 0 then d.domainRelease p
  else if o.reported then d
  else (d.setObj p { o with reported := true }).sendFrame 32 (d.domainFrame o.ictx p o.phase (rt.getD (treeParent q) 0))

/-- Fire the phase, or report it, once its counts are met (R237, R424). -/
def Dev.settleObj (d : Dev) (p : Nat) : Dev :=
  let o := d.obj p
  if o.domain then d.domainCheck p
  else if o.met then d.fireObj p else d

/-! ### Events at the home (R237, R238, R242, R244, R247, R252, R253) -/

/-- The sync unit of a physical counter (R232; log 44). -/
def syncUnit (p : Nat) : Nat :=
  if p < 6912 then p / 32 else if p < 9984 then 216 + (p - 6912) / 128 else if p < 14080 then 240 + (p - 9984) / 512 else 248

/-- The events that a unit holds (R238). -/
def Dev.unitHeld (d : Dev) (u : Nat) : Nat :=
  ((d.objs.filter fun e => decide (syncUnit e.1 = u)).map fun e => e.2.held.length).foldl (· + ·) 0

/-- The event would take a count beyond its target (R238). -/
def SyncObj.over (o : SyncObj) (e : SyncEvt) : Bool :=
  match e.kind with
  | .signal => decide (o.sigs ≤ o.sig)
  | .arrival => decide (o.arrs ≤ o.arr)
  | _ => false

/-- A refusal at the home; an arrival's waiter returns with the status (R252, R271). SOURCE 1 is a doorbell's (R250), 6 an arm's. -/
def Dev.homeRefuse (d : Dev) (e : SyncEvt) (status : Nat) : Dev :=
  let source := if e.tile.isNone ∧ !e.far then 1 else if e.kind = .arm then 6 else 0
  let d := d.syncRefuse e.vid e.phys e.tile e.ictx source status true
  match e.arriving with
  | some w => d.fireWaiter w status
  | none => d

/-- Record when a mill's last arrival at the superstep barrier was counted (R394). -/
def Dev.noteArrival (d : Dev) (o : SyncObj) (e : SyncEvt) : Dev :=
  match e.tile.bind d.logical with
  | some l =>
    if o.vid = 0 then
      let m := d.measure o.ictx
      d.setMeasure o.ictx { m with arrival := Tab.put m.arrival (l / 8) d.globalNs }
    else d
  | none => d

/-- Count one event at its object; one beyond the targets is held for the next phase. A counter that is FREE by then refuses it (R230,
R271). -/
def Dev.countEvt (d : Dev) (e : SyncEvt) : Dev :=
  let p := e.phys
  let o := d.obj p
  match o.state, e.kind with
  | .free, _ => d.homeRefuse e sParam
  | .broken, .arm => d.setObj p { o with state := .idle, phase := (o.phase + 1) % 2 ^ 16 }
  | .broken, _ => d.homeRefuse e sBroken
  | _, .arm => d.homeRefuse e sParam
  | _, .credit => d.setObj p { o with state := .opened, crd := sat (2 ^ 48 - 1) (o.crd + e.bytes) }
  | _, .signal =>
    if o.over e then d.setObj p { o with held := o.held ++ [e] }
    else if 2 ^ 48 ≤ o.ann + e.bytes then d.homeRefuse e sLen
    else d.setObj p { o with state := .opened, sig := o.sig + 1, ann := o.ann + e.bytes }
  | _, .arrival =>
    if o.over e then d.setObj p { o with held := o.held ++ [e] }
    else
      (d.setObj p { o with state := .opened, arr := o.arr + 1, waiters := o.waiters ++ e.arriving.toList }).noteArrival o e

/-- An event on its way that may be applied now: no earlier event of the same tile for the object is still on its way, the
object's held events are not due first, and a held event finds room in its unit (R238, R247; log 62). -/
def Dev.mayApply (d : Dev) (n : Nat) (e : SyncEvt) : Bool :=
  let o := d.obj e.phys
  !(d.syncFly.take n).any (fun x => decide (x.phys = e.phys ∧ x.tile = e.tile) && e.tile.isSome) && !o.heldDue &&
    (!o.over e || decide (d.unitHeld (syncUnit e.phys) < 16))

/-- The `n`-th event on its way reaches its object's home, where it is of the given kind. -/
def Dev.applySync (d : Dev) (n : Nat) (kind : SyncKind) : Dev :=
  match d.syncFly[n]? with
  | none => d
  | some e =>
    if e.kind ≠ kind ∨ !d.mayApply n e then d
    else (({ d with syncFly := d.syncFly.eraseIdx n }).countEvt e).settleObj e.phys

/-- Events held past the phase limit are applied in the cycle after the fire, in their order (R238). -/
def Dev.applyHeld (d : Dev) (p : Nat) : Dev :=
  let o := d.obj p
  if !o.heldDue then d
  else (o.held.foldl Dev.countEvt (d.setObj p { o with held := [], heldDue := false })).settleObj p

/-! ### The release, and the watchdog (R235, R255) -/

/-- A mill whose contexts had all been idle has work again: it reclaims its budget, and its clock is due to wake (R542,
R546). -/
def Dev.stirMill (d : Dev) (p : Nat) : Dev :=
  let k := d.clk p
  let d : Dev := if k.lend then { d with gov := { d.gov with reclaim := d.gov.reclaim + d.regFld Reg.GOV_CTL 16 8 } } else d
  d.setClk p { k with
    lend := false, idleSince := none
    wake := if k.wake.isNone ∧ (k.gate = .g1 ∨ k.gate = .g2) then some d.cycle else k.wake }

/-- The release of a fire reaches a waiting context: rc receives the status and the context leaves WAIT (R235, R240). -/
def Dev.releaseWait (d : Dev) (t : Nat) (k : HCtx) : Dev :=
  let c := d.ctx t k
  match c.run, c.wait with
  | .wait, some w => match w.fired with
    | some st =>
      let d := d.putS t k w.rc (BitVec.ofNat 32 st)
      (d.setCtx t k { d.ctx t k with run := .run, wait := none }).stirMill (t / 8)
    | none => d
  | _, _ => d

/-- A wait reaches SYNC_WDOGc.LIMIT: event 0x4005 and a WATCHDOG report, once (R255, R475). -/
def Dev.watchdog (d : Dev) (t : Nat) (k : HCtx) : Dev :=
  let x := d.ctx t k
  match x.run, x.wait, d.tileCtx t with
  | .wait, some w, some c =>
    let lim := (d.reg (at1 Reg.SYNC_WDOGc 4 c)).toNat
    let us := (d.cycle - w.since) / 1600
    if w.reported ∨ w.fired.isSome ∨ lim = 0 ∨ us < lim ∨ (d.img c).state ≠ .running then d
    else
      let d := d.setCtx t k { x with wait := some { w with reported := true } }
      (d.event 0x4005 t k.val w.vid us).post c (cplWords 0xFFFF 0xF2 sOk t k.val w.vid us [])
  | _, _, _ => d

/-! ### Doorbells (R248 to R250, R253) -/

/-- The status of a doorbell of the host, with the counter it names (R230, R242, R248, R249, R253). -/
def Dev.doorbellStatus (d : Dev) (c : Nat) (lo hi : Word) : Nat × Nat :=
  let op := fld lo 12 2
  let (st, p) := d.translate c (fld lo 0 12)
  let o := d.obj p
  if hi ≠ 0 ∨ fld lo 14 18 ≠ 0 ∨ op = 3 then (sParam, 0)
  else if st ≠ sOk then (st, p)
  else if op = 2 then (if !o.shared then sPerm else if !d.armable p then sParam else sOk, p)
  else if op = 1 ∧ !o.host then (sPerm, p)
  else if o.state = .broken then (sBroken, p)
  else if op = 0 ∧ o.sigs = 0 then (sParam, p)
  else (sOk, p)

/-- A doorbell takes effect (R248): refused ones are logged with SOURCE 1 and event 0x4001 (R250). -/
def Dev.doorbell (d : Dev) (c : Nat) (lo hi : Word) : Dev :=
  let (st, p) := d.doorbellStatus c lo hi
  let vid := fld lo 0 12
  if st ≠ sOk then d.syncRefuse vid p none c 1 st true
  else
    let kind : SyncKind := if fld lo 12 2 = 0 then .signal else if fld lo 12 2 = 1 then .arrival else .arm
    d.postSync { kind := kind, phys := p, bytes := 0, tile := none, waiter := none, ictx := c, vid := vid }

/-! ### SIG frames (R419, R424) -/

/-- What a SIG frame for a counter is refused with, or OK: its counter must be the context's, and it follows the rules of the like
event of a tile (R230, R242, R252, R253, R419). -/
def Dev.remoteStatus (d : Dev) (c p op : Nat) : Nat :=
  let o := d.obj p
  if o.state = .free then sParam
  else if o.ictx ≠ c ∧ !(o.mapped.any fun m => decide (m.1 = c)) then sPerm
  else if op = 2 then (if !o.shared then sPerm else if !d.armable p then sParam else sOk)
  else if o.state = .broken then sBroken
  else if op = 0 ∧ o.sigs = 0 then sParam
  else sOk

/-- A SIG frame of an object of another device's program reaches its counter as an event (R245, R419). BYTES travel in the payload's
upper word. A refused one is logged, recorded and answered (log 61). -/
def Dev.remoteEvent (d : Dev) (c : Nat) (f : Frame) : Dev :=
  let p := fld f.arg1 0 14
  let o := d.obj p
  let op := fld f.arg1 16 2
  let vid := if o.ictx = c then o.vid else ((o.mapped.find? fun m => decide (m.1 = c)).map (·.2)).getD 0
  let st := d.remoteStatus c p op
  if st ≠ sOk then (d.syncRefuse vid p none c (if op = 2 then 6 else 0) st true).answerTo f st (frameRef f)
  else
    let kind : SyncKind := if op = 0 then .signal else if op = 1 then .arrival else if op = 2 then .arm else .credit
    d.postSync { kind := kind, phys := p, bytes := leAt f.payload 4 4, tile := none, waiter := none, ictx := c, vid := vid, far := true }

/-- The tile whose sequencer a SIG frame of OP 3 addresses: its RNODE of that tag has the sender as its parent on another device
(R201, R222, R245). -/
def Dev.creditTile (d : Dev) (c : Nat) (f : Frame) : Option Nat :=
  (d.mapTile c (fld f.arg0 11 11)).filter fun t => (d.seq t).entries.any fun e =>
    decide (fld (wordAt e.w 0) 28 4 = 4 ∧ fld (wordAt e.w 0) 12 12 = fld f.arg1 0 12 ∧ fld (wordAt e.w 7) 16 16 = f.sfa ∧
      fld (wordAt e.w 2) 0 11 = fld f.arg0 0 11) && bit (wordAt e.w 0) 24

/-- A SIG frame reaches its device (R419, R424). For a domain object it is a child's report or the parent's release, told
apart by the sender's place in the tree (log 61); with OP 3 for a child's sequencer it is a combining credit (R222, R245). -/
def Dev.sigFrame (d : Dev) (port : Nat) (f : Frame) : Dev :=
  match d.jobCtx f.job with
  | none => (d.flmError f port 0 3 sPerm).answerTo f sPerm (frameRef f)
  | some c =>
    let r := if fld f.arg1 16 2 = 3 then d.creditTile c f else none
    match r with
    | some t =>
      d.toTile port f fun d c _ => d.creditArrive { packet .sig c t t with tag := fld f.arg1 0 12, chunk := f.arg2.toNat }
    | none =>
    let p := fld f.arg1 0 14
    let o := d.obj p
    let (rt, q) := d.ownPlace c
    let r := (rankOf rt f.sfa).getD rt.length
    if o.domain ∧ o.ictx = c ∧ o.state ≠ .free then
      if f.arg2.toNat % 2 ^ 16 ≠ o.phase then d
      else if (treeKids rt.length q).contains r then
        (d.setObj p { o with ready := if o.ready.contains f.sfa then o.ready else o.ready ++ [f.sfa] }).domainCheck p
      else if q ≠ 0 ∧ r = treeParent q ∧ o.reported then d.domainRelease p
      else d
    else d.remoteEvent c f

end Sys2Proof.Machine
end

