-- ==== Sys2Proof/Machine/TwinOps.lean ====
section
/-!
DEFINITION. The twin (R433 to R445): its messages, the comparison of records, lag, silence and the rejoin.
-/
namespace Sys2Proof.Machine

def Dev.twin (d : Dev) : Twin := d.flume.twin
def Dev.setTwin (d : Dev) (w : Twin) : Dev := { d with flume := { d.flume with twin := w } }

/-- The context that runs lockstep (TWIN_CTL.ICTX). -/
def Dev.twinCtx (d : Dev) : Nat := d.regFld Reg.TWIN_CTL 0 4

/-- TWIN_CTL.MAX_LAG. -/
def Dev.maxLag (d : Dev) : Nat := d.regFld Reg.TWIN_CTL 16 8

/-- The twin's Flume address (R435). -/
def Dev.twinFa (d : Dev) : Nat := Nat.xor d.fa 0x8000

/-- The twin has been silent, or a rejoin without progress, for TWIN_TMO ms since a cycle (R440, R445). -/
def Dev.twinTimedOut (d : Dev) (since : Nat) : Bool :=
  decide (cyclesOfMs (d.reg Reg.TWIN_TMO).toNat ≤ d.cycle - since)

/-! ### Messages (R435, R436) -/

/-- The types of a twin message. -/
abbrev twDigest : Nat := 1
abbrev twKeepalive : Nat := 2
abbrev twStart : Nat := 3
abbrev twDone : Nat := 4
abbrev twAbort : Nat := 5

/-- The version of the commit state block (CAP_TW_CFG.CSB_VER). -/
abbrev csbVer : Nat := 1

/-- A message: a Flume header with CLASS 3 and the body of R435. -/
def Dev.twinMsg (d : Dev) (type ver step : Nat) (record : List Word) (tail : List Byte) : List Byte :=
  let body := bytesOf 1 type ++ bytesOf 1 ver ++ bytesOf 2 0 ++ bytesOf 4 (step / 2 ^ 32) ++
    bytesOfWords ((List.range 16).map (wordAt record)) ++ tail
  let f : Frame := { cls := 3, kind := 0, ttl := 64, keyId := false, dfa := d.twinFa, sfa := d.fa, job := (d.coll d.twinCtx).job,
                     lseq := 0, flow := 0, arg0 := 0, arg1 := 0, arg2 := 0, payload := body }
  bytesOfWords (headerWords f) ++ body

/-- Packets of a payload at the path MTU of 4,096 (R432). -/
def roceParts (n : Nat) : Nat := max 1 (ceilDiv n 4096)

/-- Advance the packet number of a queue pair. -/
def Dev.roceSend (d : Dev) (port qp n : Nat) : Dev :=
  let k := 2 * (port - 16) + qp
  let q := Tab.get (fun _ => QPair.reset) d.flume.qps k
  { d with flume := { d.flume with
      qps := Tab.set (fun _ => QPair.reset) d.flume.qps k { q with psn := (q.psn + roceParts n) % 2 ^ 24 } } }

/-- A queue pair takes the packets of `n` bytes that follow in its numbering, and acknowledges them (R432; log 90). -/
def Dev.roceTake (d : Dev) (port qp n : Nat) : Dev :=
  let k := 2 * (port - 16) + qp
  let q := Tab.get (fun _ => QPair.reset) d.flume.qps k
  let next := (q.expect + roceParts n) % 2 ^ 24
  let d : Dev := { d with flume := { d.flume with qps := Tab.set (fun _ => QPair.reset) d.flume.qps k { q with expect := next } } }
  d.emit (.roceAck port qp ((next + 2 ^ 24 - 1) % 2 ^ 24))

/-- The ports in ETH mode. -/
def Dev.ethPorts (d : Dev) : List Nat := [16, 17].filter fun n => decide (d.portMode n = 2)

/-- Send a message on F16 and F17 (R436), where they run in ETH mode: the queue pair of a port that is not UP keeps it. -/
def Dev.twinSend (d : Dev) (msg : List Byte) : Dev :=
  d.ethPorts.foldl (fun d n => (d.roceSend n 0 msg.length).emit (.twin n msg)) d

/-- A message as received. -/
structure TwinMsg where
  type : Nat
  ver : Nat
  stepHi : Nat
  record : List Word
  tail : List Byte

/-- The body of a message. -/
def twinBody (msg : List Byte) : TwinMsg :=
  let b := msg.drop 28
  { type := byteAt b 0, ver := byteAt b 1, stepHi := leAt b 4 4, record := wordsOf 16 (b.drop 8), tail := b.drop 72 }

/-- The step that a message with a record names. -/
def TwinMsg.step (m : TwinMsg) : Nat := m.stepHi * 2 ^ 32 + (wordAt m.record 0).toNat

/-- A message is accepted: a known type, from the twin, under the context's JOB (R435, R436). -/
def Dev.twinAccepts (d : Dev) (msg : List Byte) : Bool :=
  let t := byteAt msg 28
  decide (100 ≤ msg.length ∧ leAt msg 0 4 / 2 ^ 30 = 3 ∧ leAt msg 4 2 = d.twinFa ∧ 1 ≤ t ∧ t ≤ 5) &&
    decide (BitVec.ofNat 32 (leAt msg 8 4) = (d.coll d.twinCtx).job)

/-- The number of a port's accepted messages rises; it is the first copy where no message of that number has been used
(R436). -/
def Dev.twinCopy (d : Dev) (port : Nat) : Dev × Bool :=
  let w := d.twin
  let n := (if port = 16 then w.rx16 else w.rx17) + 1
  (d.setTwin { w with
      rx16 := if port = 16 then n else w.rx16, rx17 := if port = 16 then w.rx17 else n, used := max w.used n, last := d.cycle },
    decide (w.used < n))

/-- A message of a type arrives on a port, whose queue pair acknowledges it (R432): one that is not accepted is discarded and counted
(R435, R436). -/
def Dev.twinIn (d : Dev) (port : Nat) (msg : List Byte) (type : Nat) (act : Dev → TwinMsg → Dev) : Dev :=
  if !d.ethPorts.contains port ∨ (d.port port).state ≠ .up then d
  else
  let d := d.roceTake port 0 msg.length
  if !d.twinAccepts msg then d.count Reg.TWIN_DISCARD 1
  else if byteAt msg 28 ≠ type then d
  else match d.twinCopy port with
    | (d, true) => act d (twinBody msg)
    | (d, false) => d

/-! ### Comparing records (R437, R439, R440) -/

/-- The words that a comparison covers: W0, W2 to W15, and bits 31:16 and 11:0 of W1. -/
def comparedWord (i : Nat) (w : Word) : Word := if i = 1 then putFld w 12 4 0 else w

/-- The first word in which two records differ. -/
def firstDiff (a b : List Word) : Option Nat :=
  (List.range 16).find? fun i => decide (comparedWord i (wordAt a i) ≠ comparedWord i (wordAt b i))

/-- The record of a step in a list of records. -/
def recordOf (l : List (Nat × List Word)) (t : Nat) : Option (List Word) := (l.find? (·.1 = t)).map (·.2)

/-- Keep a record, dropping one of the same step and the oldest beyond 256 (R437). -/
def keepRecord (l : List (Nat × List Word)) (t : Nat) (r : List Word) : List (Nat × List Word) :=
  let l := (l.filter (·.1 ≠ t)) ++ [(t, r)]
  l.drop (l.length - 256)

/-- A comparison has failed: DIVERGED, HALT at the next commit exchange, event 0x7203 (R439). -/
def Dev.twinDiverge (d : Dev) (t i : Nat) : Dev :=
  (d.setTwin { d.twin with state := 4, failed := true, halt := true, rejoin := none }).event 0x7203 d.twinCtx (t % 2 ^ 32) i 0

/-- TWIN_AGREED. -/
def Dev.twinAgreed (d : Dev) : Nat := (d.reg Reg.TWIN_AGREED_LO).toNat + (d.reg Reg.TWIN_AGREED_HI).toNat * 2 ^ 32

/-- A step has compared equal: TWIN_AGREED holds the highest before the first failure (R439). -/
def Dev.twinAgree (d : Dev) (t : Nat) : Dev :=
  if d.twin.failed ∨ t ≤ d.twinAgreed then d
  else (d.setReg Reg.TWIN_AGREED_LO (BitVec.ofNat 32 t)).setReg Reg.TWIN_AGREED_HI (BitVec.ofNat 32 (t / 2 ^ 32))

/-- Compare a step, where both records are present. -/
def Dev.twinCompare (d : Dev) (t : Nat) : Dev :=
  match recordOf d.twin.kept t, recordOf d.twin.received t with
  | some a, some b => match firstDiff a b with
    | none => d.twinAgree t
    | some i => d.twinDiverge t i
  | _, _ => d

/-- HOLD ends when the lag no longer exceeds MAX_LAG; the step held is the one being committed (R438). -/
def Dev.twinUnhold (d : Dev) : Dev :=
  let w := d.twin
  if w.state = 2 ∧ (d.stepNum d.twinCtx : Int) ≤ w.r + d.maxLag then d.setTwin { w with state := 1 } else d

/-- A DIGEST (R437 to R440). In SOLO one of a kept step that compares equal ends SOLO, and any other changes no state. -/
def Dev.twinDigest (d : Dev) (m : TwinMsg) : Dev :=
  let w := d.twin
  let t := m.step
  if w.state = 0 ∧ !bit (d.reg Reg.TWIN_CTL) 31 then d
  else if (match w.kept.head? with | some k => decide (t < k.1) | none => false) then d.count Reg.TWIN_MISS 1
  else
    let d := d.setTwin { w with r := max w.r t, received := keepRecord w.received t m.record }
    let equal := match recordOf w.kept t with
      | some a => decide (firstDiff a m.record = none)
      | none => false
    if w.state ≠ 3 then (d.twinCompare t).twinUnhold
    else if equal then (d.twinCompare t).setTwin { (d.twinCompare t).twin with state := 1 }
    else d

/-- Silence for TWIN_TMO ms: SOLO, event 0x7201 (R440). -/
def Dev.twinSilent (d : Dev) : Dev :=
  let w := d.twin
  if (w.state = 1 ∨ w.state = 2) ∧ d.twinTimedOut w.last then
    (d.setTwin { w with state := 3 }).event 0x7201 d.twinCtx (d.stepLow d.twinCtx) (w.r % 2 ^ 32).toNat 0
  else d

/-- A commit waits after action 7 (R438, R443). -/
def Dev.twinHolds (d : Dev) (c : Nat) : Bool := decide (d.twinCtx = c) && decide (d.twin.state = 2 ∨ d.twin.state = 5)

/-- Lockstep is enabled, or ends, at a step start (TWIN_CTL.EN, R438; log 71). -/
def Dev.twinLatch (d : Dev) (c : Nat) : Dev :=
  let w := d.twin
  let t := d.stepNum c
  if d.twinCtx ≠ c then d
  else if !bit (d.reg Reg.TWIN_CTL) 31 then
    if w.state = 5 ∨ w.state = 6 then d else d.setTwin { w with state := 0, pendingEn := false, halt := false }
  else if w.pendingEn then d.setTwin { w with
    state := 1, pendingEn := false, r := (t : Int) - 1, kept := [], received := if w.state = 0 then w.received else [], halt := false
    failed := false, last := d.cycle }
  else d.setTwin { w with kept := w.kept.filter fun k => decide (k.1 < t) }

/-! ### The rejoin (R442 to R445) -/

/-- The rejoin table (R442). -/
def Dev.rjTable (d : Dev) : Dev × List (Nat × Nat) × Option Nat :=
  let n := d.regFld Reg.TWIN_RJ_CTL 0 9
  let va := (d.reg Reg.TWIN_RJ_TAB_LO).toNat + d.regFld Reg.TWIN_RJ_TAB_HI 0 16 * 2 ^ 32
  match d.engineRead 12 d.twinCtx va (16 * n) with
  | (d, _, some b) => (d, [], some b.1)
  | (d, bs, none) => (d, (List.range n).map fun i => (leAt bs (16 * i) 6, leAt bs (16 * i + 8) 4), none)

/-- The refusals of GO, with the table it starts with (R442). -/
def Dev.rjCheck (d : Dev) : Dev × Nat × List (Nat × Nat) :=
  let n := d.regFld Reg.TWIN_RJ_CTL 0 9
  if n = 0 ∨ 256 < n then (d, sLen, [])
  else if (d.reg Reg.TWIN_RJ_STEP).toNat < d.stepLow d.twinCtx then (d, sParam, [])
  else match d.rjTable with
    | (d, _, some st) => (d, st, [])
    | (d, es, none) =>
      if es.any fun e => decide (e.2 = 0) then (d, sLen, [])
      else if es.any fun e => decide (e.1 % 4096 ≠ 0 ∨ e.2 % 4096 ≠ 0) then (d, sParam, [])
      else if es.any fun e => decide (d.vlim d.twinCtx < e.1 + e.2) then (d, sBound, [])
      else (d, sOk, es)

/-- TWIN_RJ_CTL.GO clears. -/
def Dev.rjGoClear (d : Dev) : Dev := d.setReg Reg.TWIN_RJ_CTL (putBit (d.reg Reg.TWIN_RJ_CTL) 31 false)

/-- The named step reaches action 7 with its record: RJ_SEND, and RJ_START goes out (R443). -/
def Dev.rjBegin (d : Dev) (t : Nat) (regions : List (Nat × Nat)) (record : List Word) : Dev :=
  let w := d.twin
  let r : Rejoin :=
    { regions := regions, agreed := false, doneSent := false, last := d.cycle, prior := w.state, record := record }
  (d.setTwin { w with state := 5, armed := none, rejoin := some r }).twinSend (d.twinMsg twStart csbVer t [] [])

/-- The status of an abort in event 0x7206. -/
def rjStatus (st : Nat) : Nat := if st = sUe ∨ st = sParam ∨ st = sTimeout then st else sFault

/-- The rejoin aborts on this side (R445). -/
def Dev.rjAbort (d : Dev) (st : Nat) : Dev :=
  let w := d.twin
  let send := decide (w.state = 5)
  if w.state ≠ 5 ∧ w.state ≠ 6 then d
  else
    let prior := match w.rejoin with
      | some r => r.prior
      | none => 0
    let d := d.setTwin { w with state := if send then prior else 0, rejoin := none }
    let d := if send then d.rjGoClear else d
    d.event 0x7206 d.twinCtx (d.stepLow d.twinCtx) (rjStatus st) (if send then 0 else 1)

/-- The commit state block (R444). Its layout is internal to the stepping; this one is the model's own (log 72): step
number, step size and seed; per tensor RT, SHB, both buffers, CUR and PREV_VALID; per guard entry rung and clean counter. -/
def Dev.csbBytes (d : Dev) (c : Nat) : List Byte :=
  let s := d.stepOf c
  bytesOf 8 (d.stepNum c) ++ bytesOf 4 s.eta.toNat ++ bytesOf 4 s.seed.toNat ++
  ((d.coll c).tensors.flatMap fun x =>
    [x.rt, x.shb, x.buf0, x.buf1, x.cur, if x.prevValid then 1 else 0].flatMap (bytesOf 8)) ++
  ((d.guard c).entries.flatMap fun e => bytesOf 8 e.rung ++ bytesOf 8 e.clean)

/-- Install a commit state block (R444). -/
def Dev.csbInstall (d : Dev) (c : Nat) (bs : List Byte) : Dev :=
  let k := d.coll c
  let g := d.guard c
  let base := 16 + 48 * k.tensors.length
  let tensors := k.tensors.zipIdx.map fun (x, i) =>
    let f := fun j => leAt bs (16 + 48 * i + 8 * j) 8
    Tensor.keep { x with
      rt := f 0, shb := f 1, buf0 := f 2, buf1 := f 3, cur := f 4, prevValid := decide (f 5 = 1), perm := none }
  let entries := g.entries.zipIdx.map fun (e, i) =>
    let r := leAt bs (base + 16 * i) 8
    let k := leAt bs (base + 16 * i + 8) 8
    { e with rung := r, clean := k, rungKept := r, cleanKept := k }
  let d := (d.setColl c { k with tensors := tensors }).setGuard c { g with entries := entries }
  let eta : Word := BitVec.ofNat 32 (leAt bs 8 4)
  let seed : Word := BitVec.ofNat 32 (leAt bs 12 4)
  let d := d.setStep c { d.stepOf c with eta := eta, seed := seed }
  (d.setReg (at1 Reg.UPD_STEP_SIZEc 0x100 c) eta).setReg (at1 Reg.UPD_SEEDc 0x100 c) seed

/-- Write the 64-bit step number of a context. -/
def Dev.setStepNum (d : Dev) (c t : Nat) : Dev :=
  (d.setReg (at1 Reg.UPD_STEPc_LO 0x100 c) (BitVec.ofNat 32 t)).setReg (at1 Reg.UPD_STEPc_HI 0x100 c) (BitVec.ofNat 32 (t / 2 ^ 32))

/-- The regions of a rejoin are read and written to the twin, page by page (R443): the status that ended it. -/
def Dev.rjRegions (d : Dev) (pages : List Nat) : Dev × Option Nat :=
  pages.foldl (fun (d, bad) va =>
    if bad.isSome then (d, bad)
    else match d.engineRead 12 d.twinCtx va 4096 with
      | (d, _, some b) => (d, some b.1)
      | (d, bs, none) =>
        let d := match d.ethPorts.head? with
          | some n => d.roceSend n 1 4096
          | none => d
        (d.emit (.rejoin va bs), none)) (d, none)

/-- The twin has answered with its version (R443, R444): the regions are written and RJ_DONE goes out, or the rejoin
aborts. -/
def Dev.rjAnswered (d : Dev) (m : TwinMsg) : Dev :=
  let w := d.twin
  let c := d.twinCtx
  match w.rejoin with
  | none => d
  | some r =>
    if r.agreed then d
    else if m.ver ≠ csbVer then (d.twinSend (d.twinMsg twAbort 0 (d.stepNum c) [] [])).rjAbort sParam
    else
      let d := d.setTwin { w with rejoin := some { r with agreed := true, last := d.cycle } }
      let pages := r.regions.flatMap fun e => (List.range (e.2 / 4096)).map fun k => e.1 + 4096 * k
      match d.rjRegions pages with
      | (d, some st) => (d.twinSend (d.twinMsg twAbort 0 (d.stepNum c) [] [])).rjAbort st
      | (d, none) =>
        let t := d.stepNum c
        let d := d.setTwin { d.twin with rejoin := some { r with agreed := true, doneSent := true, last := d.cycle } }
        d.twinSend (d.twinMsg twDone 0 t r.record (d.csbBytes c))

/-- RJ_START (R443, R444). -/
def Dev.rjStart (d : Dev) (m : TwinMsg) : Dev :=
  let w := d.twin
  if w.state = 5 then d.rjAnswered m
  else if w.state ≠ 6 then d
  else if m.ver ≠ csbVer then (d.twinSend (d.twinMsg twAbort 0 (m.stepHi * 2 ^ 32) [] [])).rjAbort sParam
  else
    let r : Rejoin := { regions := [], agreed := false, doneSent := false, last := d.cycle, prior := 0, record := [] }
    (d.setTwin { w with rejoin := some r }).twinSend (d.twinMsg twStart csbVer (m.stepHi * 2 ^ 32) [] [])

/-- A rejoin write lands through the receiver's own translation; a failure aborts (R444, R445). -/
def Dev.rjWrite (d : Dev) (port va : Nat) (bs : List Byte) : Dev :=
  let w := d.twin
  match w.state, w.rejoin with
  | 6, some r =>
    if !d.ethPorts.contains port ∨ (d.port port).state ≠ .up then d
    else match (d.roceTake port 1 bs.length).engineWrite 12 d.twinCtx va bs with
      | (d, some b) => (d.twinSend (d.twinMsg twAbort 0 (d.stepNum d.twinCtx) [] [])).rjAbort b.1
      | (d, none) => d.setTwin { d.twin with rejoin := some { r with agreed := true, last := d.cycle }, last := d.cycle }
  | _, _ => d

/-- RJ_DONE at the receiver (R444): the record goes into the journal ring, the commit state block is installed, the step
number follows the named step, and the device is PAIRED. Where the journal cannot be written the rejoin aborts (R445). -/
def Dev.rjInstall (d : Dev) (m : TwinMsg) : Dev :=
  let c := d.twinCtx
  let t := m.step
  let journal := match (d.stepOf c).section_ with
    | none => (d, none)
    | some u =>
      d.engineWrite 12 c (oAddr u.header 2 + t % 2 ^ fld (wordAt u.header 1) 23 5 * 64) (bytesOfWords m.record)
  match journal with
  | (d, some b) => (d.twinSend (d.twinMsg twAbort 0 (d.stepNum c) [] [])).rjAbort b.1
  | (d, none) =>
    let d := (d.csbInstall c m.tail).setStepNum c (t + 1)
    let d := d.setTwin { d.twin with state := 1, r := t, rejoin := none, failed := false, halt := false, last := d.cycle }
    let (n, d) := ((Config.freeWord d.freeIx).toNat, d.draw)
    d.event 0x7205 c (t % 2 ^ 32) n 1

/-- RJ_DONE is acknowledged at the sender (R443): the rejoin is complete. -/
def Dev.rjComplete (d : Dev) (r : Rejoin) : Dev :=
  let t := d.stepNum d.twinCtx
  let w := d.twin
  ((d.setTwin { w with state := 1, r := max w.r (t : Int), rejoin := none, failed := false, halt := false, last := d.cycle }).rjGoClear).event
    0x7205 d.twinCtx (t % 2 ^ 32) r.regions.length 0

/-- RJ_DONE: at the receiver the message, at the sender its acknowledgement (log 72). -/
def Dev.rjDone (d : Dev) (m : TwinMsg) : Dev :=
  match d.twin.state, d.twin.rejoin with
  | 6, some _ => d.rjInstall m
  | 5, some r => if r.doneSent then d.rjComplete r else d
  | _, _ => d

/-- RJ_ABORT: before versions agree its reason is the version; after that the message does not say which (log 72). -/
def Dev.rjAborted (d : Dev) : Dev :=
  match d.twin.rejoin with
  | none => d
  | some r =>
    if !r.agreed then d.rjAbort sParam
    else d.draw.rjAbort (if Config.freeBool d.freeIx then sFault else sUe)

/-- No progress for TWIN_TMO ms (R445). -/
def Dev.rjTimeout (d : Dev) : Dev :=
  match d.twin.rejoin with
  | none => d
  | some r => if d.twinTimedOut r.last then d.rjAbort sTimeout else d

/-! ### Action 7 (R437, R438, R443) -/

/-- The record of step `t` has been written: outside replay it is kept, sent and compared, and the commit may have to wait (R437,
R438). A step that a rejoin names begins it, replayed or not (R443). -/
def Dev.twinStep (d : Dev) (c t : Nat) (record : List Word) (replay : Bool) : Dev :=
  if d.twinCtx ≠ c then d
  else
    let w := d.twin
    let d := if w.state = 0 ∨ replay then d
      else ((d.setTwin { w with kept := keepRecord w.kept t record }).twinSend (d.twinMsg twDigest 0 t record [])).twinCompare t
    let w := d.twin
    let named := match w.armed with
      | some (n, regions) => if n = t % 2 ^ 32 then some regions else none
      | none => none
    match named with
    | some regions => d.rjBegin t regions record
    | none =>
      if !replay ∧ w.state = 1 ∧ w.r + d.maxLag < t then
        (d.setTwin { w with state := 2 }).event 0x7202 c (t % 2 ^ 32) (w.r % 2 ^ 32).toNat 0
      else d

end Sys2Proof.Machine
end

