-- ==== Sys2Proof/Machine/UpdPass.lean ====
section
/-!
DEFINITION. The update pass (R375 to R382): coefficients, the recurrence, the compute copy, and the committed-state digest.
-/
namespace Sys2Proof.Machine

/-! ### Fields of an update entry (R375) -/

def uNmom (w : List Word) : Nat := fld (wordAt w 0) 30 2
def uGbf (w : List Word) : Bool := bit (wordAt w 0) 29
def uMbf (w : List Word) : Bool := bit (wordAt w 0) 28
def uTab (w : List Word) : Nat := fld (wordAt w 0) 26 2
def uUrnd (w : List Word) : Nat := fld (wordAt w 0) 25 1
def uMrnd (w : List Word) : Nat := fld (wordAt w 0) 24 1
def uCfmt (w : List Word) : Nat := fld (wordAt w 0) 20 4
def uCblk (w : List Word) : Nat := 16 * 2 ^ fld (wordAt w 0) 18 2
def uTensor (w : List Word) : Nat := fld (wordAt w 0) 0 10
def uNt (w : List Word) : Nat := fld (wordAt w 1) 16 11
def uTile0 (w : List Word) : Nat := fld (wordAt w 1) 0 11
def uNent (w : List Word) : Nat := (wordAt w 2).toNat

/-- Bytes of a gradient, and of a moment. -/
def uGw (w : List Word) : Nat := if uGbf w then 2 else 4
def uMw (w : List Word) : Nat := if uMbf w then 2 else 4

/-- The compute copy is BF16 unscaled. -/
def uPlain (w : List Word) : Bool := decide (uCfmt w = 1)

/-- Bytes of the compute copy (R375). -/
def uCopyBytes (w : List Word) : Nat :=
  match fmtOf (uCfmt w) with
  | some f => uNent w * f.width / 8 + (if uPlain w then 0 else uNent w / uCblk w)
  | none => 0

/-! ### Coefficients (R377, R378) -/

/-- Bias correction `bc(b)` at step `t` (R378). -/
def biasCorr (b : Word) (t : Nat) : Word :=
  let one : Word := 0x3F800000
  let p := (List.range 64).foldl (fun p i =>
    let p := f32Mul p p
    if t.testBit (63 - i) then f32Mul p b else p) one
  f32Div one (f32Sub one p)

/-- `k(sel, c)` of R378. -/
def coefOf (sel : Nat) (c eta bc1 bc2 : Word) : Word :=
  if sel = 0 then c else if sel = 1 then f32Mul c eta else if sel = 2 then f32Mul c bc1 else f32Mul c bc2

/-- One entry of a coefficient table, resolved for a commit. -/
structure Coef where
  w : Word
  ka : Word
  kb : Word
  cc : Word
  deriving DecidableEq, Repr

/-- The valid entries of a coefficient table, resolved (R377, R378). -/
def resolveTable (tab : List Word) (eta bc1 bc2 : Word) : List Coef :=
  ((List.range 16).map fun j =>
    let w := wordAt tab (4 * j)
    ({ w := w, ka := coefOf (fld w 18 2) (wordAt tab (4 * j + 1)) eta bc1 bc2
       kb := coefOf (fld w 16 2) (wordAt tab (4 * j + 2)) eta bc1 bc2, cc := wordAt tab (4 * j + 3) } : Coef)).takeWhile
    fun e => bit e.w 31

/-! ### The recurrence (R379) -/

/-- The operation of a table entry. A NaN stays NaN. -/
def updOp (op : Nat) (cc x : Word) : Word :=
  match f32 x with
  | .nan => nan32
  | v =>
    let a := (f32 cc).abs
    if op = 1 then f32Mul x x
    else if op = 2 then (if v.eq (.fin false 0 0) then 0 else if v.lt (.fin false 0 0) then 0xBF800000 else 0x3F800000)
    else if op = 3 then sfuRsqrt (f32Add x cc)
    else if op = 4 then (if v.lt a.neg then toF32 a.neg else if a.lt v then toF32 a else x)
    else x

/-- One table entry on the eight operands. -/
def updStepOne (v : List Word) (e : Coef) : List Word :=
  let a := f32Mul e.ka (wordAt v (fld e.w 25 3))
  let b := wordAt v (fld e.w 22 3)
  let x := if fld e.w 20 2 = 0 then f32Add a (f32Mul e.kb b) else f32Mul a b
  v.set (fld e.w 28 3) (updOp (fld e.w 13 3) e.cc x)

/-- The table on the operands G, W, M1, M2. -/
def runTable (es : List Coef) (g w m1 m2 : Word) : List Word := es.foldl updStepOne [g, w, m1, m2, 0, 0, 0, 0]

/-! ### The pass (R380, R381) -/

/-- Element `i` of bytes read, as FP32: BF16 widened exactly, +0 where nothing was read. -/
def updElem (bf : Bool) (bs : List Byte) (i : Nat) : Word :=
  if bf then toF32 (Fmt.bf16.decode false (leAt bs (2 * i) 2)) else BitVec.ofNat 32 (leAt bs (4 * i) 4)

/-- Read several extents in turn: their bytes, or what ended it. -/
def Dev.updReads (d : Dev) (c : Nat) : List (Nat × Nat) → Dev × List (List Byte) × Option (Nat × Nat)
  | [] => (d, [], none)
  | (va, n) :: rest =>
    match d.engineRead 10 c va n with
    | (d, _, some b) => (d, [], some b)
    | (d, bs, none) => match d.updReads c rest with
      | (d, more, bad) => (d, bs :: more, bad)

/-- Write several extents in turn. -/
def Dev.updWrites (d : Dev) (c : Nat) : List (Nat × List Byte) → Dev × Option (Nat × Nat)
  | [] => (d, none)
  | (va, bs) :: rest =>
    match d.engineWrite 10 c va bs with
    | (d, some b) => (d, some b)
    | (d, none) => d.updWrites c rest

/-- A moment as written: its pattern, and what narrowing counts (R380). -/
def momentOut (w : List Word) (seed tid e : Nat) (x : Word) : Nat × Conv :=
  if uMbf w then
    let k := Fmt.bf16.narrow1 (rndOf (uMrnd w) seed tid e 0) (f32 x)
    (k.code, k)
  else ((canon32 x).toNat, { code := (canon32 x).toNat, sat := false, ftz := false, nan := decide (f32 x = .nan) })

/-- What a group of 128 entries writes: master words, moment patterns, compute-copy elements and scales, and what is
counted. -/
structure GroupOut where
  ws : List Word
  a : List Nat
  b : List Nat
  elems : List Byte
  scales : List Byte
  convs : List Conv
  deriving DecidableEq, Repr

/-- The group beginning at entry `base` (R379, R380): `seed` the step seed, `rank` the own rank in the tensor's table. -/
def groupOut (w : List Word) (es : List Coef) (seed rank base : Nat) (g wb m1 m2 : List Byte) : GroupOut :=
  let tid := fun (i : Nat) => Nat.xor (wordAt w (11 + i)).toNat (rank * 2 ^ 16)
  let vs := (List.range 128).map fun i =>
    runTable es (updElem (uGbf w) g i) (updElem false wb i) (updElem (uMbf w) m1 i) (updElem (uMbf w) m2 i)
  let ws := vs.map fun v => canon32 (wordAt v 1)
  let ms := fun (k n : Nat) => if n ≤ uNmom w then
      vs.zipIdx.map fun x => momentOut w seed (tid n) (base + x.2) (wordAt x.1 k)
    else []
  let f := (fmtOf (uCfmt w)).getD .bf16
  let rnd := fun (e : Nat) => rndOf (uUrnd w) seed (tid 0) e 0
  let xs := ws.map f32
  let blocks : List (Nat × List Conv) := if uPlain w then
      [(0, xs.zipIdx.map fun x => f.narrow1 (rnd (base + x.2)) x.1)]
    else (List.range (128 / uCblk w)).map fun k =>
      narrowBlock f false (fun i => rnd (base + k * uCblk w + i)) ((xs.drop (k * uCblk w)).take (uCblk w))
  let copy := blocks.flatMap (·.2)
  let nanW : List Conv := ws.map fun x => { code := 0, sat := false, ftz := false, nan := decide (f32 x = .nan) }
  { ws := ws, a := (ms 2 1).map (·.1), b := (ms 3 2).map (·.1), elems := packElems f (copy.map (·.code))
    scales := if uPlain w then [] else blocks.map fun x => BitVec.ofNat 8 x.1
    convs := nanW ++ (ms 2 1).map (·.2) ++ (ms 3 2).map (·.2) ++ copy }

/-- The digest terms of an entry (R382). -/
def digestTerms (s e : Nat) (w a b : Nat) : Nat × Nat :=
  let k := BitVec.ofNat 64 (s * 2 ^ 32 + e)
  ((mix (BitVec.ofNat 64 (w + a * 2 ^ 32)) k).toNat, (mix (BitVec.ofNat 64 (b + w * 2 ^ 32)) (k ^^^ highKey)).toNat)

/-- The sums of a group's digest terms (R382). -/
def groupDigest (s base : Nat) (o : GroupOut) : Nat × Nat :=
  let ts := (List.range 128).map fun i => digestTerms s (base + i) (wordAt o.ws i).toNat (o.a.getD i 0) (o.b.getD i 0)
  ((ts.map (·.1)).foldl (· + ·) 0 % 2 ^ 64, (ts.map (·.2)).foldl (· + ·) 0 % 2 ^ 64)

/-- The pass as it runs: the device, the sums per logical tile, and the entry, status and address that tore it. -/
structure PassAcc where
  dev : Dev
  sums : List (Nat × Nat)
  bad : Option (Nat × Nat × Nat)

/-- Count what narrowing counts (R380). -/
def Dev.updTally (d : Dev) (cs : List Conv) : Dev :=
  ((d.count Reg.UPD_SAT (cs.filter (·.sat)).length).count Reg.UPD_FTZ (cs.filter (·.ftz)).length).count Reg.UPD_NAN
    (cs.filter (·.nan)).length

/-- One group of 128 entries of update entry `ix` (R379 to R382). -/
def updGroup (c ix : Nat) (w : List Word) (x : Tensor) (es : List Coef) (a : PassAcc) (g : Nat) : PassAcc :=
  if a.bad.isSome then a
  else
    let d := a.dev
    let base := 128 * g
    let n := fun (k : Nat) => if k ≤ uNmom w then 128 * uMw w else 0
    let at_ := fun (i k : Nat) => oAddr w i + base * k
    match d.updReads c [(at_ 3 (uGw w), 128 * uGw w), (at_ 5 4, 512), (at_ 7 (uMw w), n 1), (at_ 9 (uMw w), n 2)] with
    | (d, _, some b) => { a with dev := d, bad := some (ix, b) }
    | (d, bs, none) =>
      let rank := d.ownRank c x.rt
      let o := groupOut w es (d.stepSeed c) rank base (bs.getD 0 []) (bs.getD 1 []) (bs.getD 2 []) (bs.getD 3 [])
      let f := (fmtOf (uCfmt w)).getD .bf16
      let buf := x.buf ((x.cur + 1) % 2 ^ 32)
      match (d.updTally o.convs).updWrites c
          [(at_ 5 4, bytesOfWords o.ws), (at_ 7 (uMw w), o.a.flatMap (bytesOf (uMw w))),
           (at_ 9 (uMw w), o.b.flatMap (bytesOf (uMw w))), (buf + base * f.width / 8, o.elems),
           (buf + uNent w * f.width / 8 + base / uCblk w, o.scales)] with
      | (d, some b) => { a with dev := d, bad := some (ix, b) }
      | (d, none) =>
        let t := uTile0 w + base / (uNent w / uNt w)
        let h := groupDigest (uTensor w) base o
        { a with dev := d, sums := a.sums.modify t fun s => ((s.1 + h.1) % 2 ^ 64, (s.2 + h.2) % 2 ^ 64) }

/-- What stands in the staging region of a tile once an update entry has used it: word by word, what the update sequencer has left
there, or what stood there before (R381; log 188). `n` words are looked at, from word `i` up; `a` is the region's device address. -/
def Dev.stageWords (d : Dev) (ix a : Nat) : (n i : Nat) → Dev
  | 0, _ => d
  | n + 1, i =>
    let d := match Config.stageWord ix i with
      | some v => d.putWord 10 (a + 8 * i) (bytesOf 8 v.toNat)
      | none => d
    d.stageWords ix a n (i + 1)

/-- The update tiles of an entry stage data in STAGE, 64 KiB of context S of each (R373, R381). -/
def Dev.stage_ (d : Dev) (c : Nat) (u : UpdSection) (w : List Word) : Dev :=
  (List.range (uNt w)).foldl (fun d j =>
    match d.physical c (uTile0 w + j) with
    | some t => d.draw.stageWords d.freeIx (ctxAddr t (d.ctx t 0) (fld (wordAt u.header 1) 0 23)) 8192 0
    | none => d) d

/-- One update entry. -/
def updEntry (c : Nat) (u : UpdSection) (eta bc1 bc2 : Word) (a : PassAcc) (e : List Word × Nat) : PassAcc :=
  match (a.dev.coll c).tensors[uTensor e.1]? with
  | none => a
  | some x =>
    let es := resolveTable (u.tables.getD (uTab e.1) []) eta bc1 bc2
    let a := if a.bad.isSome then a else { a with dev := a.dev.stage_ c u e.1 }
    (List.range (uNent e.1 / 128)).foldl (updGroup c e.2 e.1 x es) a

/-- The update pass over the entries in section order (R365, R381). -/
def Dev.updPass (d : Dev) (c : Nat) (u : UpdSection) : PassAcc :=
  let t := d.stepNum c
  let eta := (d.stepOf c).eta
  let bc1 := biasCorr (wordAt u.header 7) t
  let bc2 := biasCorr (wordAt u.header 8) t
  u.entries.zipIdx.foldl (updEntry c u eta bc1 bc2)
    { dev := d, sums := List.replicate (8 * (d.img c).nmills) (0, 0), bad := none }

/-- The committed-state digest (R382). -/
def stateDigest (t image : Nat) (sums : List (Nat × Nat)) : Nat :=
  let r := sums.foldl (fun (a : DWord × DWord) s =>
    let d0 := mix a.1 (BitVec.ofNat 64 s.1)
    (d0, mix a.2 (BitVec.ofNat 64 s.2 ^^^ d0))) (BitVec.ofNat 64 t, BitVec.ofNat 64 image)
  r.2.toNat * 2 ^ 64 + r.1.toNat

end Sys2Proof.Machine
end

