-- ==== Sys2Proof/Machine/Commit.lean ====
section
/-!
DEFINITION. The step commit (R364 to R372, R385 to R389, R423): the commit exchange, the guard's decisions (R185 to R191),
the end of the update pass, the journal record, and the start of the next step.
-/
namespace Sys2Proof.Machine

/-! ### Registers of the update block -/

def cmtReg (c : Nat) : Nat := at1 Reg.UPD_CMTc 0x100 c
def rplReg (c : Nat) : Nat := at1 Reg.UPD_RPL_CTLc 0x100 c

/-- Word `w` of the armed record. -/
def Dev.rplRec (d : Dev) (c w : Nat) : Word := d.reg (at1 Reg.UPD_RPL_RECc_w 0x100 c + 4 * w)

/-- The step is replayed (R388). -/
def Dev.replaying (d : Dev) (c : Nat) : Bool := decide (d.rplState c = 2)

/-- A 128-bit number as four words, least significant first. -/
def words128 (n : Nat) : List Word := (List.range 4).map fun i => BitVec.ofNat 32 (n / 2 ^ (32 * i))

/-! ### The commit exchange (R366, R423) -/

/-- What this device contributes. -/
def Dev.ownContribution (d : Dev) (c : Nat) : Contribution :=
  let s := d.stepOf c
  { check := [d.stepLow c, (d.img c).imageId.toNat, s.eta.toNat, s.seed.toNat, d.rplState c]
    totals := (d.guard c).entries.map fun e => (e.elems, e.sat, e.ftz, e.nan)
    halt := s.halting, mismatch := none }

/-- A 64-bit addition that saturates (R186). -/
def sat64 (a b : Nat) : Nat := sat (2 ^ 64 - 1) (a + b)

/-- The least of the fields named. -/
def leastField (a b : Option Nat) : Option Nat :=
  match a, b with
  | some x, some y => some (min x y)
  | some x, none => some x
  | none, y => y

/-- Combine a node's sum so far with the contribution of a child: totals are added, check blocks compared, HALT bits ORed
(R366, R423). Under a replay from capture, the replay state of the captured result is not the step's (R393; log 73). -/
def Contribution.join (solo : Bool) (a b : Contribution) : Contribution :=
  let differs := (List.range (if solo then 4 else 5)).find? fun i => decide (a.check.getD i 0 ≠ b.check.getD i 0)
  { check := a.check
    totals := a.totals.zipIdx.map fun (x, i) =>
      let y := b.totals.getD i (0, 0, 0, 0)
      (sat64 x.1 y.1, sat64 x.2.1 y.2.1, sat64 x.2.2.1 y.2.2.1, sat64 x.2.2.2 y.2.2.2)
    halt := a.halt || b.halt
    mismatch := leastField a.mismatch (leastField differs b.mismatch) }

/-- The payload of a CMT frame. Its layout is given nowhere; this one is the model's own (log 74): the check block, a word of
flags, and 32 bytes per guard entry. -/
def contributionBytes (a : Contribution) : List Byte :=
  let flags := (if a.halt then 1 else 0) + (match a.mismatch with
    | some f => 2 + 16 * f
    | none => 0)
  ((List.range 5).flatMap fun i => bytesOf 4 (a.check.getD i 0)) ++ bytesOf 4 flags ++
  a.totals.flatMap fun x => bytesOf 8 x.1 ++ bytesOf 8 x.2.1 ++ bytesOf 8 x.2.2.1 ++ bytesOf 8 x.2.2.2

/-- Read such a payload with `n` guard entries. -/
def contributionOf (n : Nat) (bs : List Byte) : Contribution :=
  let flags := leAt bs 20 4
  { check := (List.range 5).map fun i => leAt bs (4 * i) 4
    totals := (List.range n).map fun g =>
      let o := 24 + 32 * g
      (leAt bs o 8, leAt bs (o + 8) 8, leAt bs (o + 16) 8, leAt bs (o + 24) 8)
    halt := decide (fldN flags 0 1 = 1), mismatch := if fldN flags 1 1 = 1 then some (fldN flags 4 3) else none }

/-- A CMT frame: direction 0 up, 1 down (R402). -/
def Dev.cmtFrame (d : Dev) (c dfa dir : Nat) (a : Contribution) : Frame :=
  d.cxFrame c 13 dfa 0 (d.stepLow c) dir 0 (contributionBytes a)

/-- The children of this device in the tree of R423. -/
def Dev.cmtKids (d : Dev) (c : Nat) : List Nat :=
  let (rt, q) := d.ownPlace c
  (treeKids rt.length q).map fun j => rt.getD j 0

/-- The commit ends without one: the context stops, with no state changed (R366, R389, R423). -/
def Dev.commitStop (d : Dev) (c cause : Nat) : Dev :=
  (d.setStep c { d.stepOf c with action := 0 }).deviceStop c cause 0xFFFF sOk

/-! ### Guard decisions (R185 to R191) -/

/-- The codes of R188. -/
abbrev decNone : Nat := 0
abbrev decUp : Nat := 1
abbrev decDown : Nat := 2
abbrev decHeld : Nat := 3

/-- A guarded tensor is marked by its domain totals (R185). -/
def GuardEntry.marked (e : GuardEntry) (elems sat ftz : Nat) : Bool :=
  decide (e.thSat * elems < sat * 65536) || decide (e.thUfl * elems < ftz * 65536)

/-- The format that a rung of the entry means (R178, R183). -/
def GuardEntry.format (e : GuardEntry) (rung : Nat) : Fmt :=
  match rung with
  | 0 => .t2
  | 1 => .e2m1
  | 2 => if e.fp6v then .e3m2 else .e2m3
  | 3 => if e.fp8v then .e5m2 else .e4m3
  | _ => .bf16

/-- The rule of R187: the decision, the new rung and the new clean counter. -/
def GuardEntry.decision (e : GuardEntry) (elems sat ftz : Nat) : Nat × Nat × Nat :=
  if elems = 0 then (decNone, e.rung, e.clean)
  else if e.marked elems sat ftz then
    if e.plans.testBit (e.rung + 1) then (decUp, e.rung + 1, 0) else (decHeld, e.rung, 0)
  else
    let clean := min (e.clean + 1) 65535
    if 0 < e.desc ∧ e.desc ≤ clean ∧ e.base < e.rung then (decDown, e.rung - 1, 0) else (decNone, e.rung, clean)

/-- The decisions of a step from its domain totals. -/
def Dev.guardDecisions (d : Dev) (c : Nat) : List (Nat × Nat × Nat) :=
  (d.guard c).entries.zipIdx.map fun (e, g) =>
    let t := (d.stepOf c).totals.getD g (0, 0, 0, 0)
    e.decision t.1 t.2.1 t.2.2.1

/-- The decision vector: 2 bits per entry (R191). -/
def decisionVector (ds : List (Nat × Nat × Nat)) : Nat := ds.foldr (fun x a => x.1 + 4 * a) 0

/-- Record the event of a decision (R188). -/
def Dev.decisionEvent (d : Dev) (c g old : Nat) (x : Nat × Nat × Nat) : Dev :=
  if x.1 = decNone then d
  else d.event (if x.1 = decUp then 0x6101 else if x.1 = decDown then 0x6102 else 0x6103) g old x.2.1 (d.stepLow c)

/-- The bytes of the rung array (R189): 64 bytes, 0xFF for unused entries. -/
def rungBytes (g : Guard) : List Byte := (List.range 64).map fun i => match g.entries[i]? with
  | some e => BitVec.ofNat 8 e.rung
  | none => 0xFF

/-- The guard summary (R190). -/
def summaryBytes (g : Guard) (totals : List (Nat × Nat × Nat × Nat)) (ds : List (Nat × Nat × Nat)) : List Byte :=
  g.entries.zipIdx.flatMap fun (e, i) =>
    let t := totals.getD i (0, 0, 0, 0)
    bytesOf 8 t.1 ++ bytesOf 8 t.2.1 ++ bytesOf 8 t.2.2.1 ++ bytesOf 4 (sat 0xFFFFFFFF t.2.2.2) ++ bytesOf 1 e.rung ++
      bytesOf 1 (ds.getD i (0, 0, 0)).1 ++ bytesOf 2 e.clean

/-- Write the rung array in context S of every tile of the context (R189). -/
def Dev.writeRungs (d : Dev) (c : Nat) : Dev :=
  let g := d.guard c
  (d.tilesOf c).foldl (fun d t => d.writeWords 10 (ctxAddr t (d.ctx t 0) g.gra) (rungBytes g)) d

/-- Action 4: rungs and clean counters, the rung array and the summary, and PREV_VALID (R187 to R190, R327). A summary that
cannot be written takes nothing (log 75). -/
def Dev.applyDecisions (d : Dev) (c : Nat) : Dev :=
  let ds := d.guardDecisions c
  let g := d.guard c
  let d := g.entries.zipIdx.foldl (fun d (e, i) => d.decisionEvent c i e.rung (ds.getD i (0, e.rung, e.clean))) d
  let d := d.setGuard c { g with entries := g.entries.zipIdx.map fun (e, i) =>
    let x := ds.getD i (0, e.rung, e.clean)
    { e with rung := x.2.1, clean := x.2.2 } }
  let d := if g.entries = [] then d
    else ((d.writeRungs c).engineWrite 10 c g.gsum (summaryBytes (d.guard c) (d.stepOf c).totals ds)).1
  let k := d.coll c
  d.setColl c { k with tensors := k.tensors.map fun x => if x.upd then { x with prevValid := false } else x }

/-! ### Actions 3 to 5 -/

/-- The input digest of the step: the accumulator of its parity (R383). -/
def Dev.inputDigest (d : Dev) (c : Nat) : Nat :=
  if d.stepNum c % 2 = 0 then (d.stepOf c).acc0 else (d.stepOf c).acc1

/-- MISMATCH bits of stage 0: INPUT, BARRIERS, GUARD (R389). -/
def Dev.stage0 (d : Dev) (c : Nat) : Nat :=
  let s := d.stepOf c
  let at_ := fun (i : Nat) => (List.range 4).map fun k => d.rplRec c (i + k)
  (if at_ 4 = words128 s.input then 0 else 1) + (if fld (d.rplRec c 1) 0 12 = s.barriers % 4096 then 0 else 2) +
    (if at_ 8 = words128 s.decisions then 0 else 4)

/-- Action 3 on, with the domain totals: decisions, the comparison of a replay, and, where it holds, action 4; the update
pass then runs (R365, R389). -/
def Dev.commitDecide (d : Dev) (c : Nat) (totals : List (Nat × Nat × Nat × Nat)) : Dev :=
  let d := d.setStep c { d.stepOf c with action := 3, totals := totals, input := d.inputDigest c }
  let d := d.setStep c { d.stepOf c with decisions := decisionVector (d.guardDecisions c) }
  let bits := if d.replaying c then d.stage0 c else 0
  if bits ≠ 0 then
    let d := (d.setFld (rplReg c) 24 4 bits).setFld (rplReg c) 30 2 0
    (d.event 0x6204 c bits (d.stepLow c) 0).commitStop c 0x0B
  else
    let d := d.applyDecisions c
    d.setStep c { d.stepOf c with action := 5 }

/-- The exchange has ended on this device with the domain's result (R366, R423). -/
def Dev.commitResult (d : Dev) (c : Nat) (a : Contribution) : Dev :=
  if a.halt then (d.event 0x7204 c (d.stepLow c) 0 0).commitStop c 0x09
  else match a.mismatch with
    | some f => (d.event 0x6201 c f ((d.ownContribution c).check.getD f 0) (d.stepLow c)).commitStop c 0x08
    | none => d.commitDecide c a.totals

/-- Send the result down the tree. -/
def Dev.cmtDown (d : Dev) (c : Nat) (a : Contribution) : Dev :=
  (d.cmtKids c).foldl (fun d fa => d.sendFrame 32 (d.cmtFrame c fa 1 a)) d

/-- The counts of the step have gone into its commit: a conversion that completes later counts in the next step (R186, R192). -/
def Dev.guardFold (d : Dev) (c : Nat) : Dev :=
  let g := d.guard c
  d.setGuard c { g with noted := [], entries := g.entries.map fun e => { e with elems := 0, sat := 0, ftz := 0, nan := 0 } }

/-- In action 2, a node that holds the contributions of all its children sends its sum upward, or as root the result down
(R423). -/
def Dev.cmtAdvance (d : Dev) (c : Nat) : Dev :=
  let s := d.stepOf c
  let kids := d.cmtKids c
  let (rt, q) := d.ownPlace c
  if s.action ≠ 2 ∨ s.sent ∨ !kids.all (fun fa => s.children.any fun x => decide (x.1 = fa)) then d
  else
    let sum := kids.foldl (fun a fa => match s.children.find? (·.1 = fa) with
      | some x => a.join (d.soloReplay c) x.2
      | none => a) (d.ownContribution c)
    let d := (d.setStep c { s with children := [], sent := true }).guardFold c
    if q = 0 then (d.cmtDown c sum).commitResult c sum
    else d.sendFrame 32 (d.cmtFrame c (rt.getD (treeParent q) 0) 0 sum)

/-! ### Action 1 and CMT frames -/

/-- Action 1 has ended: the mill commands queued before the fire have completed, the Sluice queues are quiet, and the
collective operations of the step have finished (R365). -/
def Dev.commitQuiet (d : Dev) (c : Nat) : Bool :=
  let s := d.stepOf c
  s.millNext.all (fun x =>
    let m := d.mill x.1
    m.queue.all (fun k => decide (x.2 ≤ k.num)) && m.running.all (fun r => decide (x.2 ≤ r.cmd.num))) &&
  (d.tilesOf c).all (fun t => d.queuesQuiet t) &&
  (d.coll c).ops.all fun o => decide (o.stage ≠ .running ∧ o.stage ≠ .waiting)

/-- The context is running and has not been stopped at once. -/
def Dev.ctxRuns (d : Dev) (c : Nat) : Bool := decide ((d.img c).state = .running) && !(d.img c).halted

/-- Action 1 ends and action 2 begins: the HALT of a divergence goes into this contribution (R439), outside replay
(R437). -/
def Dev.commitQuiesced (d : Dev) (c : Nat) : Dev :=
  if !d.ctxRuns c ∨ (d.stepOf c).action ≠ 1 ∨ !d.commitQuiet c then d
  else
    let w := d.twin
    let halting := w.halt && decide (d.twinCtx = c) && !d.replaying c
    let d := if halting then d.setTwin { w with halt := false } else d
    (d.setStep c { d.stepOf c with action := 2, halting := halting, sent := false }).cmtAdvance c

/-- The context of a CMT frame (R419). -/
def Dev.cmtCtx (d : Dev) (f : Frame) (act : Dev → Nat → Dev) : Dev :=
  match d.jobCtx f.job with
  | none => (d.flmError f 0 0 3 sPerm).answerTo f sPerm (frameRef f)
  | some c => act d c

/-- A contribution comes up from a child; the first of a child is taken (R423). -/
def Dev.cmtUp (d : Dev) (f : Frame) : Dev :=
  d.cmtCtx f fun d c =>
    let s := d.stepOf c
    if !(d.cmtKids c).contains f.sfa ∨ s.children.any (fun x => decide (x.1 = f.sfa)) then d
    else
      let a := contributionOf (d.guard c).entries.length f.payload
      let d := d.setStep c { s with children := s.children ++ [(f.sfa, a)] }
      if d.ctxRuns c then d.cmtAdvance c else d

/-- The result comes down from the parent: it is passed on and acted on (R423). -/
def Dev.cmtFromParent (d : Dev) (f : Frame) : Dev :=
  d.cmtCtx f fun d c =>
    let s := d.stepOf c
    let (rt, q) := d.ownPlace c
    if q = 0 ∨ f.sfa ≠ rt.getD (treeParent q) 0 ∨ f.arg0.toNat ≠ d.stepLow c ∨ s.action ≠ 2 ∨ !s.sent ∨ !d.ctxRuns c then d
    else
      let a := contributionOf (d.guard c).entries.length f.payload
      (d.cmtDown c a).commitResult c a

/-! ### The journal record (R385, R386) -/

/-- The record of the step being committed. -/
def Dev.journalRecord (d : Dev) (c : Nat) (capt : Bool) : List Word :=
  let s := d.stepOf c
  let flag := fun (b : Bool) (i : Nat) => if b then 2 ^ i else 0
  let solo := decide (d.twinCtx = c ∧ d.twin.state = 3)
  [BitVec.ofNat 32 (d.stepNum c),
   BitVec.ofNat 32 ((d.img c).imageId.toNat % 2 ^ 16 * 2 ^ 16 + flag s.stale 12 + flag solo 13 + flag s.start 14 + flag capt 15 +
     s.barriers % 4096), s.eta, s.seed] ++ words128 s.input ++ words128 s.decisions ++ words128 s.digest

/-- Store the sixteen words of the replayed record (R388). -/
def Dev.putOut (d : Dev) (c : Nat) (r : List Word) : Dev :=
  (List.range 16).foldl (fun d w => d.setReg (at1 Reg.UPD_RPL_OUTc_w 0x100 c + 4 * w) (wordAt r w)) d

/-- Under replay, action 7 compares STATE (R389). -/
def Dev.replayCompare (d : Dev) (c : Nat) : Dev :=
  let same := decide ((List.range 4).map (fun k => d.rplRec c (12 + k)) = words128 (d.stepOf c).digest)
  if same then d.event 0x6206 c (d.stepLow c) 0 0
  else
    let d := d.setReg (rplReg c) (putBit (d.reg (rplReg c)) 27 true)
    d.event 0x6204 c (d.regFld (rplReg c) 24 4) (d.stepLow c) 1

/-- Action 7: the record is written to the journal ring and goes to the twin, or under replay to UPD_RPL_OUTc
(R386 to R389, R437). A journal record that cannot be written is not (log 75). -/
def Dev.writeRecord7 (d : Dev) (c : Nat) : Dev :=
  let (d, capt) := d.capClose c
  let r := d.journalRecord c capt
  let t := d.stepNum c
  if d.replaying c then ((d.putOut c r).replayCompare c).twinStep c t r true
  else
    let jva := d.updAddr c 2 + t % 2 ^ fld (d.updWord c 1) 23 5 * 64
    ((d.engineWrite 10 c jva (bytesOfWords r)).1).twinStep c t r false

/-! ### Action 6 (R327, R354, R355) -/

/-- The generation of one tensor advances, or its permute switches; how event 0x6007 packs the new table and NSHB / 4,096 is given
nowhere (R362; log 76). -/
def Dev.advanceTensor (d : Dev) (c i : Nat) : Dev :=
  let k := d.coll c
  match k.tensors[i]? with
  | none => d
  | some x =>
    match x.perm.bind fun n => d.cxOp c n with
    | some o =>
      let x' : Tensor := { x with
        rt := oRt o.w, shb := pShb o.w, buf0 := oAddr o.w 6, buf1 := oAddr o.w 8, prevValid := false, perm := none }
      let n := (Config.permuted x'.rt (x'.shb / 4096)).toNat
      let d := (d.setColl c { k with tensors := k.tensors.set i x' }).event 0x6007 c i x.cur n
      if x.upd then d.event 0x6005 c i x.cur (d.stepLow c) else d
    | none =>
      if x.upd then d.setColl c { k with tensors := k.tensors.set i { x with cur := (x.cur + 1) % 2 ^ 32, prevValid := true } }
      else d

/-- Action 6 over every tensor of the section. -/
def Dev.advanceTensors (d : Dev) (c : Nat) : Dev :=
  (List.range (d.coll c).tensors.length).foldl (fun d i => d.advanceTensor c i) d

/-! ### Actions 8 and 9 -/

/-- Latch step size and seed at a step start (R370, R371). -/
def Dev.stepLatch (d : Dev) (c : Nat) : Dev :=
  let s := d.stepOf c
  let w := d.reg (cmtReg c)
  let fresh := bit w 4
  let s' := { s with
    eta := if fresh then s.etaPend else s.eta, stale := !fresh, seed := if bit w 5 then s.seedPend else s.seed }
  let d := (d.setStep c s').setReg (cmtReg c) (putFld w 4 2 0)
  let d := (d.setReg (at1 Reg.UPD_STEP_SIZEc 0x100 c) s'.eta).setReg (at1 Reg.UPD_SEEDc 0x100 c) s'.seed
  if fresh then d else d.event 0x6203 c s'.eta.toNat (d.stepLow c) 0

/-- Latch them from the armed record instead; the replay runs (R388). -/
def Dev.replayLatch (d : Dev) (c : Nat) : Dev :=
  let s := d.stepOf c
  let d := d.setStep c { s with eta := d.rplRec c 2, seed := d.rplRec c 3, stale := false, capRead := 0 }
  let d := (d.setReg (at1 Reg.UPD_STEP_SIZEc 0x100 c) (d.rplRec c 2)).setReg (at1 Reg.UPD_SEEDc 0x100 c) (d.rplRec c 3)
  d.setFld (rplReg c) 30 2 2

/-- An operation of a step that has ended (R312). -/
def CxOp.fresh (o : CxOp) : CxOp :=
  { w := o.w, stage := .idle, started := false, start := 0, gen := 0, pend := [], bytes := 0, landed := [], summed := [], cout := false,
    held := [], combined := [], frames := [], permBytes := 0 }

/-- Action 8 but for the latches: the step number, the accumulator of the committed parity, and everything counted in the
step. -/
def Dev.commitAdvance (d : Dev) (c : Nat) : Dev :=
  let t := d.stepNum c
  let d := d.setStepNum c (t + 1)
  let s := d.stepOf c
  let d := d.setStep c { s with
    action := 9, sent := false, halting := false, millNext := [], totals := [], start := false, barriers := 0
    acc0 := if t % 2 = 0 then 0 else s.acc0, acc1 := if t % 2 = 0 then s.acc1 else 0, trace := [], capRead := 0 }
  let g := d.guard c
  let d := d.setGuard c { g with entries := g.entries.map fun e => { e with rungKept := e.rung, cleanKept := e.clean } }
  let k := d.coll c
  let d := d.setColl c { k with
    ops := k.ops.map CxOp.fresh, tensors := k.tensors.map Tensor.keep }
  d.setMeasure c { d.measure c with superstep := 0 }

/-- Action 9: the waiters of CVID are released and its vector is raised (R364, R365). -/
def Dev.commitRelease (d : Dev) (c : Nat) : Dev :=
  let s := d.stepOf c
  let o := d.obj (d.translate c (fld (d.updWord c 0) 20 12)).2
  let d := s.waiters.foldl (fun d w => d.fireWaiter w sOk) d
  let d := if o.notify then d.emit (.msix (d.owner c) o.vec) else d
  let d := d.setStep c { d.stepOf c with action := 0, waiters := [], rplHeld := false }
  (d.setFld (cmtReg c) 30 2 1).setFld (cmtReg c) 0 4 sOk

/-- Actions 8 and 9. Under replay the context stays held at CVID in DONE (R389). -/
def Dev.commitEnd (d : Dev) (c : Nat) : Dev :=
  let replay := d.replaying c
  let d := d.commitAdvance c
  if replay then (d.setStep c { d.stepOf c with rplHeld := true }).setFld (rplReg c) 30 2 3
  else ((d.stepLatch c).twinLatch c).commitRelease c

/-- After action 7: the commit waits for the twin (R438, R443) or at a park point (R559); otherwise it ends. Action 8 stands
for the park point. -/
def Dev.commitTail (d : Dev) (c : Nat) : Dev :=
  if (d.stepOf c).action ≠ 7 ∨ d.twinHolds c then d
  else if d.parkPoint true then (d.setStep c { d.stepOf c with action := 8 }).reachPark c
  else d.commitEnd c

/-! ### The end of the update pass -/

/-- The pass met an error: the commit is torn (R368). -/
def Dev.commitTorn (d : Dev) (c entry status va : Nat) : Dev :=
  let w := putFld (putBit (d.reg (cmtReg c)) 29 true) 0 4 status
  let d := (d.setReg (cmtReg c) w).capture Reg.UPD_ERR_ADDR_LO (va % 2 ^ 32) (va / 2 ^ 32 % 2 ^ 16) (c * 2 ^ 12 + 256 + status)
  let d := (d.event 0x6202 c entry status (d.stepLow c)).setStep c { d.stepOf c with action := 0 }
  d.deviceStop c 0x0A 0xFFFF status

/-- The update pass ends: actions 5 to 9 (R365, R368). -/
def Dev.updateDone (d : Dev) (c : Nat) : Dev :=
  match (d.stepOf c).section_ with
  | none => d
  | some u =>
    if (d.stepOf c).action ≠ 5 ∨ !d.ctxRuns c then d
    else
      let a := d.updPass c u
      match a.bad with
      | some (entry, status, va) => a.dev.commitTorn c entry status va
      | none =>
        let d := a.dev
        let d := d.setStep c { d.stepOf c with
          action := 7, digest := stateDigest (d.stepNum c) (d.img c).imageId.toNat a.sums }
        ((d.advanceTensors c).writeRecord7 c).commitTail c

end Sys2Proof.Machine
end

