-- ==== Sys2Proof/Machine/CommitRun.lean ====
section
/-!
DEFINITION. The commands of the step commit (chapter 9).
-/
namespace Sys2Proof.Machine

/-- COMMIT_QUIESCED (R365, R366). -/
def execCommitQuiesced (c : ICtx) (s : State) : Res := .next (onDev (fun d => d.commitQuiesced c) s)

/-- CMT_FRAME_UP (R423). -/
def execCmtFrameUp (p : Port) (f : Frame) (s : State) : Res :=
  .next (onDev (fun d => if f.arg1 = 0 then d.frameIn p f 13 fun d => d.cmtUp f else d) s)

/-- CMT_FRAME_DOWN (R366, R389, R423). -/
def execCmtFrameDown (p : Port) (f : Frame) (s : State) : Res :=
  .next (onDev (fun d => if f.arg1 = 1 then d.frameIn p f 13 fun d => d.cmtFromParent f else d) s)

/-- UPDATE_PASS_DONE (R327, R354, R365, R368, R386 to R389, R437, R438). -/
def execUpdatePassDone (c : ICtx) (s : State) : Res := .next (onDev (fun d => d.updateDone c) s)

end Sys2Proof.Machine
end

