-- ==== Sys2Proof/Machine/RegView.lean ====
section
/-!
DEFINITION. What a register reads as: the registers that show state held elsewhere, and the register file for the others
(R9; the register table of each chapter).
-/
namespace Sys2Proof.Machine

/-- A word from fields placed at bit positions. -/
def packed (fs : List (Nat × Nat)) : Word := BitVec.ofNat 32 ((fs.map fun f => f.1 * 2 ^ f.2).foldl (· + ·) 0)

/-- 1 for true. -/
def b2n (b : Bool) : Nat := if b then 1 else 0

/-- A word with bit `i` set where `f i` holds. -/
def bitWord (n : Nat) (f : Nat → Bool) : Word := packed ((List.range n).map fun i => (b2n (f i), i))

/-! ### Mills, sync objects, hoppers (chapters 3 and 6) -/

/-- MILL_ID. -/
def Dev.millId (d : Dev) (p : Nat) : Word :=
  match d.binding p with
  | some (c, l) => packed [(l, 16), (c, 12), (p, 0)]
  | none => packed [(0xFF, 16), (p, 0)]

/-- MILL_Q_STATUS. -/
def Dev.millStatus (d : Dev) (p : Nat) : Word :=
  let m := d.mill p
  let st := if m.fault.isSome then 2 else if m.queue.isEmpty && m.running.isEmpty then 0 else 1
  let f := m.fault.getD (0, 0)
  packed [(st, 30), (f.1, 12), (f.2, 8), (32 - m.queue.length, 0)]

/-- MILL_SLOT_STATEs. -/
def Dev.slotWord (d : Dev) (p s : Nat) : Word :=
  let x := (Tab.get (fun _ => SlotState.reset) (d.mill p).slotState s)
  packed [(x.mode, 16), (x.k1, 8), (x.k0, 0)]

/-- The sync object that SYNC_OBJ_SEL selects. -/
def Dev.selObj (d : Dev) : SyncObj := d.obj (d.regFld Reg.SYNC_OBJ_SEL 0 14)

/-- SYNC_OBJ_STATE. -/
def objWord (o : SyncObj) : Word :=
  packed [(o.phase, 16), (o.ictx, 12), (o.level, 9), (min 15 o.held.length, 5), (b2n o.host, 4), (b2n o.shared, 3),
    (o.state.code, 0)]

/-- The channel that HOP_SEL selects. -/
def Dev.selChan (d : Dev) : Option Channel :=
  Tab.find (d.tile (d.regFld Reg.HOP_SEL 0 11)).chans (d.regFld Reg.HOP_SEL 16 6)

/-- HOP_CH_STATE. -/
def chanWord : Option Channel → Word
  | none => packed [(3, 30)]
  | some x =>
    let st := match x.state with
      | .opened => 0
      | .closed => 1
      | .fenced => 2
      | .invalid => 3
    packed [(st, 30), (if x.ring then chanFree x else x.credit, 0)]

/-- HOP_RX_STATE. -/
def Dev.rxWord (d : Dev) : Word :=
  let t := d.tile (d.regFld Reg.HOP_SEL 0 11)
  let hop := (List.finRange 8).map fun h => (b2n t.hop[h].closed, h.val)
  let ring := (List.range 4).map fun r => (b2n (match Tab.find t.rings r with | some q => q.closed | none => false), 8 + r)
  packed (hop ++ ring)

/-! ### Store, collectives, update (chapters 7 to 9) -/

/-- The Sluice queue that SLC_SEL selects. -/
def Dev.selQueue (d : Dev) : Nat := 32 * d.regFld Reg.SLC_SEL 0 8 + d.regFld Reg.SLC_SEL 16 5

/-- The tensor that FLM_CX_TSEL selects. -/
def Dev.selTensor (d : Dev) : Option Tensor := (d.coll (d.regFld Reg.FLM_CX_TSEL 16 4)).tensors[d.regFld Reg.FLM_CX_TSEL 0 10]?

/-- FLM_CX_TSTATE. -/
def tensorWord : Option Tensor → Word
  | none => 0
  | some x => packed [(b2n x.prevValid, 31), (b2n x.upd, 30), (b2n x.perm.isSome, 29), (1, 28), (x.rt, 26)]

/-- HBM that is allocated or reserved for capture: (start, bytes) (R392, R464). -/
def Dev.hbmTaken (d : Dev) : List (Nat × Nat) :=
  (List.range 16).flatMap fun c =>
    (d.img c).allocs.map (fun a => (a.start, a.size)) ++ (d.stepOf c).capRegion.toList

/-- Free HBM in 64 KiB units. -/
def Dev.hbmFree (d : Dev) : Nat := (d.hbmSize - (d.hbmTaken.map (·.2)).foldl (· + ·) 0) / 65536

/-- Enabled mills that are bound to no context, in ascending order (R465). -/
def Dev.freeMills (d : Dev) : List Nat := (List.range 216).filter fun p => d.isEnabled p && (d.binding p).isNone

/-! ### Flume, time, twin (chapter 10) -/

/-- The code of FLM_PORT_STATn.STATE. -/
def PortState.code : PortState → Nat
  | .down => 0 | .train => 1 | .hello => 2 | .up => 3 | .retrain => 4

/-- FLM_PORT_STATn: lanes are active in HELLO and UP. -/
def portWord (p : FPort) : Word :=
  packed [(p.state.code, 29), (if p.state = .hello ∨ p.state = .up then p.lanes else 0, 24)]

/-- FLM_CTL.PEND (R417): a route entry is staged, or a port that is UP does not count yet. -/
def Dev.flmPend (d : Dev) : Bool :=
  d.flume.staged ≠ [] || (List.range 18).any fun n =>
    decide ((d.port n).state = .up) && !(d.port n).counted && decide (d.portMode n = 1)

/-- TWIN_STATE: LAG counts from the last step whose record has been written; once the step number has advanced that is the one before
it. -/
def Dev.twinWord (d : Dev) : Word :=
  let w := d.twin
  let c := d.twinCtx
  let t : Int := if (d.stepOf c).action = 7 ∨ (d.stepOf c).action = 8 then d.stepNum c else d.stepNum c - 1
  packed [(w.state, 29), (min 0xFFFF (t - w.r).toNat, 0)]

/-! ### Host and integrity (chapters 11 and 12) -/

/-- The code of a context's state (R481). -/
def CtxState.code : CtxState → Nat
  | .empty => 0 | .loaded => 1 | .running => 2 | .stopped => 3 | .preempted => 4

/-- A command or forced operation of the context is in progress (R481). -/
def ImageCtx.shownBusy (i : ImageCtx) : Bool := i.busy || decide (i.wait ≠ .none)

/-- HST_CTX_STATE. -/
def Dev.ctxWord (d : Dev) (c : Nat) : Word :=
  let i := d.img c
  packed [((i.mills.filter (· < 216)).length, 24), (d.owner c, 16), (i.cause, 8), (if i.shownBusy then 5 else i.state.code, 0)]

/-- ECC_FENCE_STAT. -/
def Dev.fenceWord (d : Dev) : Word := packed [(d.ecc.lastFence, 24), (d.ecc.pending.length, 8), (d.ecc.fenced.length, 0)]

/-! ### Power and events (chapters 13 and 14) -/

/-- The code of a clock-gating level. -/
def Gate.code : Gate → Nat
  | .g0 => 0 | .g1 => 1 | .g2 => 2 | .g3 => 3

/-- GOV_MILLp. -/
def clkWord (k : MillClk) : Word := packed [(k.gate.code, 30), (b2n k.lend, 29), ((k.level % 64).toNat, 0)]

/-- GOV_STAT. -/
def Dev.govWord (d : Dev) : Word :=
  let ms := d.gov.mills.map (·.2)
  packed [(b2n d.gov.throttle, 31), ((ms.map (·.granted)).foldl (· + ·) 0, 16), ((ms.filter (·.lend)).length, 8)]

/-- The code of LEHR_PARK.STATE. -/
def ParkStage.code : ParkStage → Nat
  | .run => 0 | .parking => 1 | .parked => 2 | .unparking => 3

/-- The number of the oldest record held (R588). -/
def Evr.oldest (e : Evr) : Nat :=
  match e.nor.head?, e.sram.head? with
  | some r, _ => r.seq
  | none, some r => r.seq
  | none, none => e.head

/-- SKP_MODE. -/
def Skeop.modeWord (k : Skeop) : Word :=
  packed [(k.mode.code, 28), (k.debug, 26), (b2n k.owner.isSome, 25), (k.slot, 24), (k.svnRun, 8), (k.fusedSvn, 0)]

/-- SKP_KEYSTAT. -/
def State.keyWord (s : State) : Word :=
  packed ((List.range 4).map (fun i => (b2n (Tab.find s.sk.imgD i).isSome, 20 + i)) ++
    (List.range 4).map (fun i => (b2n (Tab.find s.sk.imgV i).isSome, 16 + i)) ++
    (List.range 16).map (fun c => (b2n (s.dev.img c).memKey.isSome, c)))

/-- CAP_ID_FW. -/
def Skeop.fwWord (k : Skeop) : Word := packed [(k.svnRun, 24), (k.versionRun % 2 ^ 24, 0)]

/-! ### The register file -/

/-- Low and high words of a number. -/
def loWord (n : Nat) : Word := BitVec.ofNat 32 n
def hiWord (n : Nat) : Word := BitVec.ofNat 32 (n / 2 ^ 32)

/-- Index `i` of a register's indices. -/
def ixAt (ix : List Nat) (i : Nat) : Nat := ix.getD i 0

/-- Chapters 2, 5 to 9 and 12: the registers that show state held elsewhere, by the offset of their first entry. -/
def Dev.liveReg (d : Dev) (b off : Nat) (ix : List Nat) : Option Word :=
  let i := ixAt ix 0
  if b = Reg.CAP_TA_ENABLED then some (packed [(8 * d.enabledMills, 16), (d.enabledMills, 0)])
  else if b = Reg.CAP_TA_SPAREn then some (packed ((List.range 8).map fun j => (d.spareField (8 * i + j), 4 * j)))
  else if b = Reg.CAP_TA_FENCEDn then some (bitWord 32 fun j => d.isFenced (32 * i + j))
  else if b = Reg.CAP_ID_SN_LO then some (loWord Config.serial.toNat)
  else if b = Reg.CAP_ID_SN_HI then some (hiWord Config.serial.toNat)
  else if b = Reg.CAP_ST_HBM then some (putBit (d.reg off) 0 (decide (d.ecc.hbmMode = 1)))
  else if b = Reg.CAP_ST_SIZE then some (packed [(d.hbmSize / 2 ^ 30, 0)])
  else if b = Reg.MILL_ID then some (d.millId i)
  else if b = Reg.MILL_Q_STATUS then some (d.millStatus i)
  else if b = Reg.MILL_SLOT_STATEs then some (d.slotWord i (ixAt ix 1))
  else if b = Reg.SYNC_OBJ_CFG then some (packed [(d.selObj.sigs, 16), (d.selObj.arrs, 0)])
  else if b = Reg.SYNC_OBJ_CNT then some (packed [(d.selObj.sig, 16), (d.selObj.arr, 0)])
  else if b = Reg.SYNC_OBJ_STATE then some (objWord d.selObj)
  else if b = Reg.SYNC_OBJ_ANN_LO then some (loWord d.selObj.ann)
  else if b = Reg.SYNC_OBJ_ANN_HI then some (hiWord d.selObj.ann)
  else if b = Reg.SYNC_OBJ_CRD_LO then some (loWord d.selObj.crd)
  else if b = Reg.SYNC_OBJ_CRD_HI then some (hiWord d.selObj.crd)
  else if b = Reg.HOP_CH_STATE then some (chanWord d.selChan)
  else if b = Reg.HOP_CH_MSGS then some (loWord ((d.selChan.map (·.msgs)).getD 0))
  else if b = Reg.HOP_CH_STALLS then some (loWord ((d.selChan.map (·.stalls)).getD 0))
  else if b = Reg.HOP_CH_DROP then some (loWord ((d.selChan.map (·.drop)).getD 0))
  else if b = Reg.HOP_RX_STATE then some d.rxWord
  else if b = Reg.SLC_Q_STATUS then some (d.queue d.selQueue).word
  else if b = Reg.SLC_Q_DONE_LO then some (loWord (d.queue d.selQueue).done)
  else if b = Reg.SLC_Q_DONE_HI then some (hiWord (d.queue d.selQueue).done)
  else if b = Reg.SLC_Q_DRY then some (loWord (d.queue d.selQueue).dry)
  else if b = Reg.SLC_Q_FAULTw then some (wordAt (d.queue d.selQueue).record i)
  else if b = Reg.SLC_RESUME then some 0
  else if b = Reg.FLM_CX_TGEN then some (loWord ((d.selTensor.map (·.cur)).getD 0))
  else if b = Reg.FLM_CX_TSTATE then some (tensorWord d.selTensor)
  else if b = Reg.FLM_CX_RUN then some (loWord d.cxRun.length)
  else if b = Reg.FLM_CX_CTLc then
    some (packed [((d.coll i).resv, 4), (b2n (d.coll i).ovl, 1), (d.regFld off 0 1, 0)])
  else if b = Reg.UPD_PL_WINDOWw then
    some (wordAt (Tab.get (fun _ => List.replicate 16 0) d.ledger (d.regFld Reg.UPD_PL_CURSOR 0 12)) i)
  else if b = Reg.HST_CTX_STATE then some (d.ctxWord i)
  else if b = Reg.LDR_FREE then some (packed [(d.freeMills.length, 24), (d.hbmFree, 0)])
  else if b = Reg.ECC_CFG then some (putFld (d.reg off) 16 1 d.ecc.hbmNext)
  else if b = Reg.ECC_FENCE then some 0
  else if b = Reg.ECC_FENCE_STAT then some d.fenceWord
  else if b = Reg.ECC_RMAP_STAT then
    some (packed [(min 0xFFFF (d.ecc.rowMap.filter (!·.hbm)).length, 16), (min 0xFFFF d.ecc.hbmPend.length, 0)])
  else if b = Reg.ECC_DIEk then some (if d.ecc.hbmMode = 1 then (Tab.get (fun _ => (0 : BitVec 16)) d.ecc.dieFailed i).setWidth 32 else 0)
  else none

/-- Chapters 10, 13 and 14. -/
def State.liveReg2 (s : State) (b off : Nat) (ix : List Nat) : Option Word :=
  let d := s.dev
  let i := ixAt ix 0
  if b = Reg.FLM_CTL then some (putBit (d.reg off) 2 d.flmPend)
  else if b = Reg.FLM_TIME_LO then some (loWord d.globalNs)
  else if b = Reg.FLM_TIME_HI then some (hiWord d.globalNs)
  else if b = Reg.FLM_TIME_STAT then some (putFld (d.reg off) 29 3 d.flume.time.state)
  else if b = Reg.FLM_PORT_STATn then some (portWord (d.port i))
  else if b = Reg.FLM_RTd then some ((Tab.find d.flume.staged i).getD (d.reg off))
  else if b = Reg.TWIN_STATE then some d.twinWord
  else if b = Reg.GOV_STAT then some d.govWord
  else if b = Reg.GOV_POWER then some (packed [(min 0xFFFF d.gov.watts, 0)])
  else if b = Reg.GOV_MILLp then some (clkWord (d.clk i))
  else if b = Reg.LEHR_OPMS_LO then some (loWord d.opMs)
  else if b = Reg.LEHR_OPMS_HI then some (hiWord d.opMs)
  else if b = Reg.LEHR_PCYC then some (loWord d.lehr.powerCycles)
  else if b = Reg.LEHR_CMP_STAT then some (packed [(d.lehr.tjMax, 24), (d.lehr.tCool, 16), (d.lehr.active.toNat, 0)])
  else if b = Reg.LEHR_PARK then some (packed [(d.park.stage.code, 30), (d.park.causes.toNat, 16)])
  else if b = Reg.SKP_MODE then some s.sk.modeWord
  else if b = Reg.SKP_KEYSTAT then some s.keyWord
  else if b = Reg.CAP_ID_FW then some s.sk.fwWord
  else if b = Reg.EVR_HEAD then some (loWord d.evr.head)
  else if b = Reg.EVR_OLDEST then some (loWord d.evr.oldest)
  else if b = Reg.EVR_WINDOWw then some (if bit (d.reg Reg.EVR_STAT) 0 then wordAt d.evr.window i else 0)
  else none

/-- The offset lies in a tile's page: its tile and page offset (R40, R100). -/
def tileOfOff (off : Nat) : Option (Nat × Nat) :=
  if 0x01000000 ≤ off ∧ off < 0x01D80000 ∧ 0x8000 ≤ off % 0x10000 then
    some ((off - 0x01000000) / 0x10000 * 8 + (off % 0x10000 - 0x8000) / 0x1000, off % 0x1000)
  else none

/-- What the register at a BAR0 offset reads as; none at a reserved offset (R41). -/
def State.view (s : State) (off : Nat) : Option Word :=
  match capHeader off with
  | some w => some w
  | none =>
    match regFind off with
    | none => none
    | some (r, ix) =>
      match tileOfOff off with
      | some (t, o) => some (s.dev.tileReg t o)
      | none => match s.dev.liveReg r.base off ix with
        | some w => some w
        | none => match s.liveReg2 r.base off ix with
          | some w => some w
          | none => some (s.dev.reg off)

/-! ### The capability chain (R42 to R46) -/

/-- The bytes of the capability chain, entry by entry (R45). -/
def State.capBytes (s : State) : List Byte :=
  Reg.CAP_ENTRIES.flatMap fun e =>
    bytesOfWords ((List.range e.2.2).map fun i => (s.view (e.2.1 + 4 * i)).getD 0)

/-- The capability digest of a HELLO (R411). -/
def State.capDigest (s : State) : List Byte := ((Config.sha384 s.capBytes) ++ List.replicate 16 0).take 16

end Sys2Proof.Machine
end

