-- ==== Sys2Proof/Machine/EvrOps.lean ====
section
/-!
DEFINITION. The event recorder's stores and window (R588 to R593, R623).
-/
namespace Sys2Proof.Machine

/-- Firmware, or the recovery service, runs. -/
def Dev.skeopRuns (d : Dev) : Bool :=
  match d.stage with
  | .poisoning | .poisoned | .ready => true
  | .off | .inReset | .waitRefclk | .boot => false

/-- The record of a sequence number, where either store holds it. -/
def Evr.record (e : Evr) (n : Nat) : Option (List Word) :=
  ((e.sram.find? fun r => decide (r.seq = n)).or (e.nor.find? fun r => decide (r.seq = n))).map (·.words)

/-- The next record is copied into the NOR ring, over the oldest of 65,536 (R588). -/
def Evr.copyOne (e : Evr) : Evr :=
  match e.erasing, e.sram.find? fun r => decide (r.seq = e.norNext) with
  | false, some r =>
    let nor := e.nor ++ [r]
    { e with nor := nor.drop (nor.length - 65536), norNext := (r.seq + 1) % 2 ^ 32 }
  | _, _ => e

/-- Losses that no record names yet are reported (R589, R623). -/
def Dev.reportLost (d : Dev) : Dev :=
  let e := d.evr
  if e.lostCount = 0 then d
  else ({ d with evr := { e with lostFirst := 0, lostCount := 0 } } : Dev).event 0xA0F1 e.lostFirst e.lostCount 0 0

/-- One record is copied into the NOR; once copying has caught up, losses are reported (R589). -/
def Dev.norCopy (d : Dev) : Dev :=
  if !d.skeopRuns then d
  else
    let d : Dev := { d with evr := d.evr.copyOne }
    if d.evr.norNext = d.evr.head then d.reportLost else d

/-- The records that have not reached the NOR when a reset empties the SRAM (R623), and what the reset leaves of the
recorder. EVR_LOST takes the count when start-up compares the two stores; it is added here (log 117). -/
def Evr.cut (e : Evr) : Evr :=
  let n := (e.head + 2 ^ 32 - e.norNext) % 2 ^ 32
  { e with
    sram := [], pairs := [], copying := false, window := [], vecMs := none
    norNext := e.head
    lostFirst := if e.lostCount = 0 then e.norNext else e.lostFirst
    lostCount := e.lostCount + n }

/-- A write of EVR_CURSOR starts a copy into the window (R590). -/
def Dev.cursorSet (d : Dev) (n : Word) : Dev :=
  let d : Dev := { d with evr := { d.evr with copying := true, window := [] } }
  (d.setReg Reg.EVR_CURSOR n).setReg Reg.EVR_STAT 0

/-- The copy into the window ends: READY, or GONE where the number is not held (R590). -/
def Dev.windowReady (d : Dev) : Dev :=
  if !d.evr.copying then d
  else
    let e := { d.evr with copying := false }
    match d.evr.record (d.reg Reg.EVR_CURSOR).toNat with
    | some ws => ({ d with evr := { e with window := ws } } : Dev).setReg Reg.EVR_STAT 1
    | none => ({ d with evr := { e with window := [] } } : Dev).setReg Reg.EVR_STAT 2

/-- A read of the last window word while READY is 1 advances the cursor, with EVR_CTL.AUTO (R590). -/
def Dev.windowNext (d : Dev) : Dev :=
  if bit (d.reg Reg.EVR_CTL) 31 && bit (d.reg Reg.EVR_STAT) 0 then d.cursorSet (d.reg Reg.EVR_CURSOR + 1) else d

/-- A record that takes the next number, without being announced again. -/
def Evr.renumbered (e : Evr) (r : EvRec) : Evr :=
  { e with sram := e.sram ++ [{ r with seq := e.head }], head := (e.head + 1) % 2 ^ 32 }

/-- A record has been written in this cycle. -/
def Evr.thisCycle (e : Evr) (r : EvRec) : Bool :=
  decide ((r.seq + 2 ^ 32 - e.cycleHead) % 2 ^ 32 < (e.head + 2 ^ 32 - e.cycleHead) % 2 ^ 32)

/-- EVR_CLEAR (R593): both stores are emptied, and the record of the clear is the first one afterwards; those of this cycle's
earlier events follow it. -/
def Dev.evrClear (d : Dev) (eid : Nat) : Dev :=
  let e := d.evr
  let now := e.sram.filter e.thisCycle
  let old := e.nor ++ e.sram.filter fun r => !e.nor.any fun q => decide (q.seq = r.seq)
  let n := (old.filter fun r => !e.thisCycle r).length
  let d := ({ d with evr := { e with
    sram := [], nor := [], head := e.cycleHead, norNext := e.cycleHead, erasing := true } } : Dev).event 0xA00A e.oldest n eid 0
  { d with evr := now.foldl Evr.renumbered d.evr }

end Sys2Proof.Machine
end

