-- ==== Sys2Proof/Machine/FlumePorts.lean ====
section
/-!
DEFINITION. Flume ports (R398 to R418): training, HELLO, the sending end of a link, retrains; global time (R426 to R430, R555);
and the RoCEv2 queue pairs (R432).
-/
namespace Sys2Proof.Machine

/-! ### Down and retrain -/

/-- A port register. -/
def portReg (base n : Nat) : Nat := at1 base 0x40 n

/-- Add to a counter that is a field of a register; it holds at all-ones (R15). -/
def Dev.countFld (d : Dev) (off lo len n : Nat) : Dev := d.setFld off lo len (sat (2 ^ len - 1) (d.regFld off lo len + n))

/-- A port goes DOWN: event 0x7002, and its frames are routed again, those not acknowledged first (R416; log 83). -/
def Dev.portDown (d : Dev) (n cause : Nat) : Dev :=
  let p := d.port n
  if p.state = .down then d
  else
    let left := (p.retry ++ p.waiting.map (·.1)).filter fun f => 2 ≤ f.kind
    let d := (d.setPort n { FPort.reset with ctr0 := p.ctr0, ctr1 := p.ctr1 }).event 0x7002 n cause 0 0
    left.foldl (fun d f => d.sendFrame n f) d

/-- A port retrains: event 0x7004; its retry buffer is kept (R406). -/
def Dev.retrain (d : Dev) (n cause lseq : Nat) : Dev :=
  let p := d.port n
  if p.state ≠ .up ∧ p.state ≠ .hello then d
  else
    (d.setPort n { p with state := .retrain, widen := decide (cause = 2), nakCount := 0 }).event 0x7004 n cause lseq 0

/-- A retrain whose LSEQ parameter the manual does not name (log 86). -/
def Dev.retrainFree (d : Dev) (n cause : Nat) : Dev :=
  let (x, d) := d.freeWord
  d.retrain n cause (x % 4096)

/-- Training of a DOWN port begins: its numbering starts again (log 83). -/
def Dev.startTraining (d : Dev) (n : Nat) : Dev :=
  let p := d.port n
  d.setPort n { FPort.reset with state := .train, widen := true, ctr0 := p.ctr0, ctr1 := p.ctr1 }

/-- A retrain is commanded (R407): a DOWN port that has a mode trains; one already in training goes on. -/
def Dev.commandRetrain (d : Dev) (n : Nat) : Dev :=
  let p := d.port n
  if p.state = .down then (if d.portMode n = 0 then d else d.startTraining n)
  else if p.state = .up ∨ p.state = .hello then d.retrainFree n 2
  else d.setPort n { p with widen := true }

/-! ### Training and HELLO (R407, R411, R412) -/

/-- The lane group that `k` passing lanes form. -/
def laneGroup (k : Nat) : Nat := if 8 ≤ k then 8 else if 4 ≤ k then 4 else if 2 ≤ k then 2 else 0

/-- A port is UP: it counts at once where routing is off, or where it has counted before (R417; log 81); event 0x7001. -/
def Dev.portUp (d : Dev) (n : Nat) : Dev :=
  let p := d.port n
  (d.setPort n { p with state := .up, counted := p.counted || !d.routeEn }).event 0x7001 n p.lanes
    (d.regFld (portReg Reg.FLM_NBR_INFOn n) 16 16) 0

/-- A port finishes training on `k` lanes (R407). -/
def Dev.trained (d : Dev) (n k : Nat) : Dev :=
  let p := d.port n
  let new := laneGroup (if p.widen ∨ p.lanes = 0 then k else min k p.lanes)
  if p.state ≠ .train ∧ p.state ≠ .retrain then d
  else if new = 0 then d.portDown n 0
  else
    let d := if new < p.lanes then d.event 0x7003 n p.lanes new 0 else d
    let d := d.setPort n { d.port n with state := .hello, lanes := new, widen := false, helloIn := d.cycle, helloOut := d.cycle, timeOut := d.cycle }
    let d := d.setFld (portReg Reg.FLM_NBR_INFOn n) 0 1 0
    if d.portMode n = 2 then d.portUp n else d

/-- The HELLO frame of a port (R411). -/
def Dev.helloOf (d : Dev) (digest : List Byte) (n : Nat) : Frame :=
  let fa := if bit (d.reg Reg.FLM_FA) 31 then d.fa else 0x7FFF
  { cls := 0, kind := 0, ttl := 64, keyId := d.keySel n, dfa := 0, sfa := fa, job := 0, lseq := 0,
    flow := 0, arg0 := 0, arg1 := 0, arg2 := 0
    payload := bytesOf 8 Config.serial.toNat ++ bytesOf 1 n ++ bytesOf 1 (d.port n).lanes ++ bytesOf 2 fa ++ digest ++ bytesOf 4 0, enc := d.portEnc n }

/-- A HELLO has come since the port trained. -/
def Dev.greeted (d : Dev) (n : Nat) : Bool := bit (d.reg (portReg Reg.FLM_NBR_INFOn n)) 0

/-- A port in FLUME mode has trained. -/
def Dev.greets (d : Dev) (n : Nat) : Bool :=
  decide (d.portMode n = 1) && decide ((d.port n).state = .hello ∨ (d.port n).state = .up)

/-- The HELLO timer of a port (R411): every 1 ms, and every 100 ms once a HELLO has come. Each HELLO takes a number of its key slot
(R409). -/
def Dev.helloTimer (d : Dev) (digest : List Byte) (n : Nat) : Dev :=
  let p := d.port n
  let period := if d.greeted n then 100 else 1
  if !d.greets n ∨ d.cycle - p.helloOut < cyclesOfMs period then d
  else (d.setPort n { p.counted1 (d.keySel n) with helloOut := d.cycle }).emit (.frame n (d.helloOf digest n))

/-- Frames are sent again, in their order; each counts as a retransmission and takes a number of its key slot (R405, R406, R409). Where
ROUTE_EN keeps one of them back, all wait for it (R413). -/
def Dev.resend (d : Dev) (n : Nat) (fs : List Frame) : Dev :=
  if !d.routeEn && fs.any (fun f => decide (2 ≤ f.kind)) then d.setPort n { d.port n with owed := true }
  else fs.foldl (fun d f =>
    ((d.setPort n ((d.port n).counted1 f.keyId)).countFld (portReg Reg.FLM_PORT_ERRn n) 16 16 1).emit (.frame n f)) d

/-- ROUTE_EN is set: what an UP port owes and what waits there goes out (R413). -/
def Dev.routePort (d : Dev) (n : Nat) : Dev :=
  let p := d.port n
  if p.state ≠ .up then d
  else
    let d := if p.owed then (d.setPort n { p with owed := false }).resend n p.retry else d
    Dev.drainPort n p.waiting.length d

/-- A HELLO arrives (R412). One protected otherwise than the port asks is not accepted (R409). A digest that newly differs is recorded:
with the first HELLO, or with a later one that changes it. -/
def Dev.helloTake (d : Dev) (digest : List Byte) (n : Nat) (f : Frame) : Dev :=
  let bs := f.payload
  if !d.greets n ∨ f.kind ≠ 0 ∨ f.enc ≠ d.portEnc n then d
  else if badClass f then d.badFrame n f
  else if bs.length ≠ 32 then d
  else
    let differs := decide ((bs.drop 12).take 16 ≠ digest)
    let news := !d.greeted n || !bit (d.reg (portReg Reg.FLM_NBR_INFOn n)) 10
    let info := packed [(leAt bs 10 2, 16), (byteAt bs 8 % 32, 11), (b2n differs, 10), (1, 0)]
    let d := d.setPort n { d.port n with helloIn := d.cycle }
    let d := ((d.setReg (portReg Reg.FLM_NBR_SNn_LO n) (loWord (leAt bs 0 4))).setReg (portReg Reg.FLM_NBR_SNn_HI n)
      (loWord (leAt bs 4 4))).setReg (portReg Reg.FLM_NBR_INFOn n) info
    let d := if news && differs then d.event 0x7008 n (leAt bs 10 2) 0 0 else d
    if (d.port n).state = .hello then
      let p := d.port n
      Dev.drainPort n (p.waiting.length + 1) ((d.portUp n).resend n p.retry)
    else d

/-- No HELLO for 500 ms (R411). -/
def Dev.helloTimeout (d : Dev) (n : Nat) : Dev :=
  if !d.greets n ∨ d.cycle - (d.port n).helloIn < cyclesOfMs 500 then d else d.retrainFree n 3

/-! ### The link (R405, R406, R410, R418) -/

/-- The position in a retry buffer of an LSEQ. -/
def FPort.seqAt (p : FPort) (lseq : Nat) : Option Nat := p.retry.findIdx? fun f => decide (f.lseq = lseq)

/-- The port runs a FLUME link. -/
def Dev.linkUp (d : Dev) (n : Nat) : Bool := decide ((d.port n).state = .up ∧ d.portMode n = 1)

/-- A cumulative acknowledgement (R405). -/
def Dev.linkAck (d : Dev) (n lseq : Nat) : Dev :=
  let p := d.port n
  match p.seqAt lseq with
  | some i =>
    if d.linkUp n then Dev.drainPort n p.waiting.length (d.setPort n { p with retry := p.retry.drop (i + 1) }) else d
  | none => d

/-- A NAK: the frames from that LSEQ on are sent again; the eighth for one LSEQ retrains the port (R405, R406). -/
def Dev.linkNak (d : Dev) (n lseq : Nat) : Dev :=
  let p := d.port n
  match p.seqAt lseq with
  | some i =>
    if !d.linkUp n then d
    else
      let k := if p.nakSeq = lseq then p.nakCount + 1 else 1
      let d := d.setPort n { p with nakSeq := lseq, nakCount := k }
      if 8 ≤ k then d.retrain n 0 lseq else d.resend n (p.retry.drop i)
  | none => d

/-- The acknowledgement interval ends (R405). -/
def Dev.ackTimer (d : Dev) (n : Nat) : Dev :=
  let p := d.port n
  if !d.linkUp n ∨ p.ackDue = 0 then d
  else (d.setPort n { p with ackDue := 0 }).emit (.ack n ((p.expect + 4095) % 4096))

/-- A frame fails its CRC (R405), or under the key slot of `auth` its authentication (R410): the second failure of an LSEQ takes the port DOWN.
Before the first HELLO it is only discarded (R409). -/
def Dev.frameFails (d : Dev) (n lseq : Nat) (auth : Option Bool) : Dev :=
  let p := d.port n
  if !d.greets n then d
  else match auth with
  | none =>
    let d := d.countFld (portReg Reg.FLM_PORT_ERRn n) 0 16 1
    if p.state = .up then d.emit (.nak n p.expect) else d
  | some key =>
    let (x, d) := (d.count Reg.FLM_AUTH_FAIL 1).freeWord
    let (st, d) := d.freeWord
    let d := d.capture Reg.FLM_ERR_ADDR_LO x n (4 * 256 + st % 12)
    if p.state ≠ .up then d
    else if p.authSeq.contains lseq then (d.event 0x7005 n lseq (b2n key) 0).portDown n 1
    else (d.setPort n { p with authSeq := p.authSeq ++ [lseq] }).emit (.nak n p.expect)

/-- The end of a one-second window of corrected symbols (R406). -/
def Dev.berWindow (d : Dev) (n : Nat) (rates : List Nat) : Dev :=
  let lim := d.regFld (portReg Reg.FLM_PORT_CTLn n) 0 16
  if lim = 0 ∨ !rates.any (fun r => decide (lim < r)) then d else d.retrainFree n 1

/-- A frame has been held longer than STALL_US (R418). -/
def Dev.frameStall (d : Dev) (n : Nat) : Dev :=
  let p := d.port n
  let lim := d.regFld Reg.FLM_CTL 16 16
  match p.waiting.findIdx? (fun x => !x.2.2 && decide (cyclesOfUs lim < d.cycle - x.2.1)) with
  | none => d
  | some i =>
    if lim = 0 then d
    else match p.waiting[i]? with
      | some x =>
        let d := d.setPort n { p with waiting := p.waiting.set i (x.1, x.2.1, true) }
        (d.event 0x7009 n x.1.cls x.1.dfa ((d.cycle - x.2.1) / 1600)).count Reg.FLM_STALL 1
      | none => d

/-- RT_COMMIT: every staged route entry, and every port that is UP, in one cycle (R417). -/
def Dev.rtCommit (d : Dev) : Dev :=
  let d := d.flume.staged.foldl (fun d e => d.setReg (at1 Reg.FLM_RTd 4 e.1) e.2) d
  let d : Dev := { d with flume := { d.flume with staged := [] } }
  (List.range 18).foldl (fun d n =>
    if (d.port n).state = .up ∧ d.portMode n = 1 then d.setPort n { d.port n with counted := true } else d) d

/-! ### Global time (R427 to R429, R555) -/

def Dev.setTime (d : Dev) (g : GTime) : Dev := { d with flume := { d.flume with time := g } }

/-- FLM_TIME_CTL.MASTER, PPS_EN and UPPORT. -/
def Dev.timeMaster (d : Dev) : Bool := bit (d.reg Reg.FLM_TIME_CTL) 31
def Dev.ppsEn (d : Dev) : Bool := d.timeMaster && bit (d.reg Reg.FLM_TIME_CTL) 30
def Dev.upPort (d : Dev) : Nat := d.regFld Reg.FLM_TIME_CTL 0 5

/-- A signed number of ns, held within ±32,767, as FLM_TIME_STAT.OFFSET holds it. -/
def offsetField (o : Int) : Nat := (BitVec.ofInt 16 (max (-32767) (min 32767 o))).toNat

/-- The time state changes: event 0x7101. -/
def Dev.timeState (d : Dev) (new : Nat) (o : Int) : Dev :=
  let g := d.flume.time
  if g.state = new then d
  else (d.setTime { g with state := new, good := 0, stepped := false }).event 0x7101 g.state new (wordOfInt o).toNat d.upPort

/-- The clock is set from now on: `step` ns forward, and `slew` ns to be corrected. -/
def Dev.rebase (d : Dev) (step : Nat) (slew : Int) : Dev :=
  let g := d.flume.time
  d.setTime { g with base := d.global1024 + step * 1024, at_ := d.cycle, slew := slew }

/-- An offset has been measured (R427, R428): the first enters ACQUIRE, which steps forward once where the clock is behind;
eight in a row within 20 ns reach LOCKED. -/
def Dev.timeOffset (d : Dev) (o : Int) : Dev :=
  let d := d.setFld Reg.FLM_TIME_STAT 0 16 (offsetField o)
  let d := if d.flume.time.state = 0 then d.timeState 1 o else d
  let g := d.flume.time
  let steps := decide (g.state = 1 ∧ 0 < o) && !g.stepped
  let d := if steps then d.rebase o.toNat 0 else d.rebase 0 o
  let good := if o.natAbs ≤ 20 then g.good + 1 else 0
  let d := d.setTime { d.flume.time with good := good, stepped := g.stepped || steps }
  if 8 ≤ good ∧ g.state ≠ 2 then d.timeState 2 o else d

/-- A TIME frame of this device (R402; log 87). -/
def Dev.timeFrame (d : Dev) (t1 t2 t3 : Word) : Frame :=
  { cls := 0, kind := 1, ttl := 64, keyId := false, dfa := 0, sfa := d.fa, job := 0, lseq := 0, flow := 0, arg0 := t1, arg1 := t2,
    arg2 := t3, payload := [] }

/-- Low 32 bits of global time in ns. -/
def Dev.nsLow (d : Dev) : Word := loWord d.globalNs

/-- The 1 ms exchange of an UP FLUME port (R427). -/
def Dev.timeExchange (d : Dev) (n : Nat) : Dev :=
  let p := d.port n
  if !d.linkUp n ∨ d.cycle - p.timeOut < cyclesOfMs 1 then d
  else (d.setPort n { p with timeOut := d.cycle }).sendOn n (d.timeFrame d.nsLow 0 0)

/-- A TIME frame arrives: a request is answered; an answer from UPPORT gives an offset and a delay (R427). -/
def Dev.timeTake (d : Dev) (n : Nat) (f : Frame) : Dev :=
  if f.kind ≠ 1 then d
  else match d.linkAccept n f with
  | none => d
  | some d =>
    if badClass f then d.badFrame n f
    else
      let now := d.nsLow
      let d := if n = d.upPort then d.setTime { d.flume.time with last := d.cycle } else d
      if f.arg1 = 0 ∧ f.arg2 = 0 then d.sendOn n (d.timeFrame f.arg0 now now)
      else if d.timeMaster ∨ n ≠ d.upPort then d
      else
        let out := (f.arg1 - f.arg0).toInt
        let back := (now - f.arg2).toInt
        (d.setTime { d.flume.time with delay := (out + back) / 2 }).timeOffset ((out - back) / 2)

/-- No TIME frame from UPPORT for 10 ms (R428): the clock runs from REFCLK, and what was still to be slewed is dropped. -/
def Dev.holdover (d : Dev) : Dev :=
  let g := d.flume.time
  if d.timeMaster ∨ (g.state ≠ 1 ∧ g.state ≠ 2) ∨ d.cycle - g.last < cyclesOfMs 10 then d
  else (d.rebase 0 0).timeState 3 (BitVec.ofNat 16 (d.regFld Reg.FLM_TIME_STAT 0 16)).toInt

/-- The distance from now to the nearest whole multiple of 10^9 ns (R429). -/
def Dev.ppsOffset (d : Dev) : Int :=
  let r := d.globalNs % 1000000000
  if r < 500000000 then -(r : Int) else 1000000000 - (r : Int)

/-- An edge is accepted on the master (R429): its first takes the clock through ACQUIRE, whatever state it is in. -/
def Dev.ppsAccept (d : Dev) : Dev :=
  let o := d.ppsOffset
  if !d.flume.time.newMaster then d.timeOffset o
  else
    let d := d.timeState 1 o
    (d.setTime { d.flume.time with good := 0, stepped := false, newMaster := false }).timeOffset o

/-- An edge of SYNC_PPS whose pulse was `ns` long (R555; log 89). -/
def Dev.ppsEdge (d : Dev) (ns : Nat) : Dev :=
  let l := d.lehr
  let gap := match l.ppsLast with
    | some t => nsOfCycles (d.cycle - t)
    | none => 0
  let ok := decide (ns ≤ 500000000) && (l.ppsLast.isNone || decide (999900000 ≤ gap ∧ gap ≤ 1000100000))
  if ns < 1000 ∨ l.held.any (fun h => decide (h.1 = 1)) then d
  else if !ok then
    (d.count Reg.GOV_PPS_REJ 1).event 0x900A 0 (ns / 1000) (sat 0xFFFFFFFF (gap / 1000)) 0
  else
    let d : Dev := { d with lehr := { l with
      ppsLast := some d.cycle, ppsLost := false, active := l.active &&& 0x1FF } }
    if d.ppsEn then d.ppsAccept else d

/-- 2 s without an accepted edge (R555): PPS_LOST. The next edge counts as a first (log 88). -/
def Dev.ppsTimeout (d : Dev) : Dev :=
  let l := d.lehr
  let gap := match l.ppsLast with
    | some t => d.cycle - t
    | none => d.cycle - l.opSince
  if l.ppsLost ∨ gap < cyclesOfMs 2000 then d
  else
    let d : Dev := { d with lehr := { l with ppsLast := none, ppsLost := true, active := l.active ||| 0x200 } }
    let (w, d) := d.freeWord
    d.event 0x900A 1 w (sat 0xFFFFFFFF (nsOfCycles gap / 1000)) 0

/-! ### Queue pairs (R432) -/

/-- A queue pair of an ETH port. -/
def Dev.qpair (d : Dev) (n k : Nat) : QPair := Tab.get (fun _ => QPair.reset) d.flume.qps (2 * (n - 16) + k)

def Dev.setQpair (d : Dev) (n k : Nat) (q : QPair) : Dev :=
  { d with flume := { d.flume with qps := Tab.set (fun _ => QPair.reset) d.flume.qps (2 * (n - 16) + k) q } }

/-- The port runs in ETH mode. -/
def Dev.ethUp (d : Dev) (n : Nat) : Bool := d.ethPorts.contains n && decide ((d.port n).state = .up)

/-- A NAK: the packets before its number are acknowledged, and every one from it on is sent again (go-back-N). -/
def Dev.roceNak (d : Dev) (n k psn : Nat) : Dev :=
  let q := d.qpair n k
  let sent := (q.psn + 2 ^ 24 - q.unacked) % 2 ^ 24
  let back := (q.psn + 2 ^ 24 - psn) % 2 ^ 24
  if !d.ethUp n ∨ sent < back then d
  else
    (List.range back).foldl (fun d i => d.emit (.roce n k ((psn + i) % 2 ^ 24))) (d.setQpair n k { q with unacked := psn % 2 ^ 24 })

/-- A congestion notification packet halves the rate. -/
def Dev.roceCnp (d : Dev) (n k : Nat) : Dev :=
  let q := d.qpair n k
  if d.ethUp n then d.setQpair n k { q with rate := q.rate / 2 } else d

/-- The rate recovers by 5 % of the line rate (log 90). -/
def Dev.roceRecover (d : Dev) (n k : Nat) : Dev :=
  let q := d.qpair n k
  if d.ethUp n then d.setQpair n k { q with rate := min 1000000 (q.rate + 50000) } else d

end Sys2Proof.Machine
end

