-- ==== Sys2Proof/Machine/HopArrive.lean ====
section
/-!
DEFINITION. HOP and RING packets at their destination (R256, R260, R261, R265, R268).
-/
namespace Sys2Proof.Machine

/-- A CTL packet is for its context: the tile is bound to it. -/
def Dev.ctlFor (d : Dev) (p : Packet) : Bool := decide (d.tileCtx p.dst = some p.ictx)

/-- A queue of an unbound tile, which is CLOSED (R267). -/
def Dev.unboundClosed (d : Dev) (p : Packet) (closed : Bool) : Bool := (d.tileCtx p.dst).isNone && closed

/-- A HOP packet reaches its hopper (R256, R260), or a CLOSED one, that of an unbound tile too (R267, R268). A packet for a tile that
another context holds is discarded (log 45). -/
def Dev.hopArrive (d : Dev) (p : Packet) : Dev :=
  if !d.ctlFor p then
    if d.unboundClosed p (d.tile p.dst).hop[Fin.ofNat 8 p.id].closed then d.readerGone p sClosed else d
  else
    let tl := d.tile p.dst
    let h : Fin 8 := Fin.ofNat 8 p.id
    let q := tl.hop[h]
    if q.closed then d.readerGone p sClosed
    else
      let src := if p.remote then p.src else (d.logical p.src).getD 0
      let e : HopEntry :=
        { data := BitVec.ofNat 64 (leAt p.payload 0 8), half := false
          remote := if p.remote then some p.sfa else none, src := src }
      d.setTile p.dst { tl with hop := tl.hop.set h { q with entries := q.entries ++ [e] } }

/-- The payload bytes of a record among its first `n` bytes: those after the header and before the padding (R244, R262). -/
def recordPayload (len have_ n : Nat) : Nat := min (have_ + n) (8 + len) - min (max have_ 8) (8 + len)

/-- A RING packet reaches its ring: its bytes are written at the offset it carries, payload bytes are credited, and once
the record is complete WR advances (R261, R264, R265): at its last packet, or, for a wrap marker, at the ring's end. -/
def Dev.ringArrive (d : Dev) (p : Packet) : Dev :=
  if !d.ctlFor p then
    if d.unboundClosed p ((Tab.find (d.tile p.dst).rings (p.id % 4)).any (·.closed)) then d.readerGone p sClosed else d
  else
    let tl := d.tile p.dst
    match Tab.find tl.rings (p.id % 4) with
    | none => d.readerGone p sClosed
    | some r =>
      if r.closed then d.readerGone p sClosed
      else
        let n := p.payload.length
        let len := if r.part = 0 then leAt p.payload 0 2 % 2 ^ 13 else r.payload
        let wrap := if r.part = 0 then decide (leAt p.payload 0 2 / 2 ^ 15 % 2 = 1) else decide (r.payload = 0)
        let d := d.writeWords 6 (ctxAddr p.dst (d.ctx p.dst 0) (r.base + p.offset)) p.payload
        let d := d.creditBytes p.dst 2 (p.id % 4) (if wrap then 0 else recordPayload len r.part n)
        let src := if p.remote then p.src else (d.logical p.src).getD 0
        let r := { r with remote := if p.remote then some p.sfa else none, src := src }
        let whole := p.last || (wrap && decide (p.offset + n = r.size))
        let r' : Ring :=
          if whole then { r with wr := r.wr + r.part + n, records := r.records ++ [(r.part + n, !wrap)], part := 0, payload := 0 }
          else { r with part := r.part + n, payload := if wrap then 0 else len }
        let tl := d.tile p.dst
        let d := d.setTile p.dst { tl with rings := Tab.put tl.rings (p.id % 4) r' }
        if whole then d.putRingCtrl p.dst r' else d

end Sys2Proof.Machine
end

