-- ==== Sys2Proof/Machine/RaceRun.lean ====
section
/-!
DEFINITION. The commands of the Race: the exchange sequencers, packets and their arrivals (chapters 5 and 6).
-/
namespace Sys2Proof.Machine

/-- The release reaches a tile's exchange sequencer (R195). -/
def execExchangeRelease (t : TileIx) (s : State) : Res := .next (onDev (·.xchRelease t.val) s)

/-- The setup pass ends (R202 to R204). -/
def execExchangeSetupEnd (t : TileIx) (s : State) : Res := .next (onDev (·.xchSetup t.val) s)

/-- The next packet of a SEND entry issues (R205). -/
def execSendPacketIssue (t : TileIx) (s : State) : Res := .next (onDev (·.sendNext t.val) s)

/-- A STREAM entry issues (R205). -/
def execStreamEntryIssue (t : TileIx) (s : State) : Res := .next (onDev (·.streamNext t.val) s)

/-- A packet moves one step (R214, R216). -/
def execPacketHop (n : Nat) (s : State) : Res := .next (onDev (·.hopPacket n) s)

/-- A DATA packet arrives (R206, R227). -/
def execDataPacketArrive (n : Nat) (s : State) : Res := .next (onDev (·.bulkArrive n .data Dev.dataArrive) s)

/-- An ANSWER packet arrives (R206, R226, R259, R269). -/
def execAnswerPacketArrive (n : Nat) (s : State) : Res := .next (onDev (·.ctlArrive n .answer Dev.answerArrive) s)

/-- A PASS packet arrives (R224). -/
def execPassPacketArrive (n : Nat) (s : State) : Res := .next (onDev (·.bulkArrive n .pass Dev.passArrive) s)

/-- A PART packet arrives at a node (R222, R227). -/
def execPartPacketArrive (n : Nat) (s : State) : Res := .next (onDev (·.bulkArrive n .part Dev.partArrive) s)

/-- A combining credit reaches a child (R222). -/
def execCombiningCreditArrive (n : Nat) (s : State) : Res := .next (onDev (·.ctlArrive n .sig Dev.creditArrive) s)

/-- A node combines its next chunk (R220 to R223). -/
def execRedChunkCombine (t : TileIx) (e : Nat) (s : State) : Res := .next (onDev (·.redCombine t.val e) s)

/-- A tile's exchange phase ends (R195, R196). -/
def execExchangePhaseEnd (t : TileIx) (s : State) : Res := .next (onDev (·.phaseEnd t.val) s)

/-- A packet reaches a fenced tile (R219). -/
def execPacketToFencedTile (n : Nat) (s : State) : Res :=
  .next (onDev (fun d => match d.arrived n with
    | some p => if d.isFenced (p.dst / 8) then (d.takePacket n).fencedArrive p else d
    | none => d) s)

/-- An uncorrectable link error (R212). -/
def execLinkUe (n : Nat) (s : State) : Res := .next (onDev (·.linkUe n) s)

/-- A HOP packet arrives (R256, R268). -/
def execHopPacketArrive (n : Nat) (s : State) : Res := .next (onDev (·.ctlArrive n .hop Dev.hopArrive) s)

/-- A RING packet arrives (R261, R265, R268). -/
def execRingPacketArrive (n : Nat) (s : State) : Res := .next (onDev (·.ctlArrive n .ring Dev.ringArrive) s)

end Sys2Proof.Machine
end

