-- ==== Sys2Proof/Machine/FlumeRun.lean ====
section
/-!
DEFINITION. The commands of Flume ports, links, frames for tiles, global time and RoCEv2 (chapter 10), but for its registers.
-/
namespace Sys2Proof.Machine

/-! ### Frames for tiles (R419, R422) -/

/-- The packet that a frame for a tile carries (R402, R207): its source stays a logical number of the sender. -/
def framePacket (kind : PktKind) (c t : Nat) (f : Frame) : Packet :=
  let part := decide (kind = .part)
  { vc := kind.vc, kind := kind, ictx := c, remote := true, dst := t, src := fld f.arg0 0 11
    id := if part then 0 else fld f.arg1 24 8, offset := if part then 0 else fld f.arg1 0 23
    tag := if part then fld f.arg1 20 12 else 0, chunk := if part then fld f.arg1 0 20 else 0
    dfa := f.dfa, sfa := f.sfa, last := bit f.arg2 22, payload := f.payload, at_ := t, leg := t, escape := false, ref := frameRef f
    answers := .data }

/-- The Race header that a frame carries: one whose KIND or VC is not the kind's own is discarded, answered with ERR_PARAM and logged
(R207, R208); its record is that of a refused arrival (DEDUCED, log 201). -/
def Dev.raceHeader (d : Dev) (kind : PktKind) (c t : Nat) (f : Frame) (act : Dev → Dev) : Dev :=
  if fld f.arg0 30 2 = kind.vc ∧ fld f.arg0 27 3 = kind.code then act d
  else
    let name := if kind = .part then fld f.arg1 20 12 else fld f.arg1 24 8
    ((d.raceError 0 t c 2 sParam).event 0x3002 t (fld f.arg0 0 11) name sParam).answerTo f sParam (frameRef f)

/-- A packet from another device stands at its tile's router: the port acts on it at once, or it waits there (R204, R219). -/
def Dev.land (d : Dev) (p : Packet) (act : Dev → Nat → Dev) : Dev :=
  let n := d.race.length
  let d := d.inject p
  match d.arrived n with
  | none => d
  | some _ => if d.isFenced (p.dst / 8) then (d.takePacket n).fencedArrive p else act d n

/-- DATA, or PASS with its Race kind in H0. -/
def Dev.dataFrame (d : Dev) (port : Nat) (f : Frame) : Dev :=
  d.toTile port f fun d c t =>
    if fld f.arg0 27 3 = PktKind.pass.code then
      d.raceHeader .pass c t f fun d => d.land (framePacket .pass c t f) fun d n => d.bulkArrive n .pass Dev.passArrive
    else d.raceHeader .data c t f fun d => d.land (framePacket .data c t f) fun d n => d.bulkArrive n .data Dev.dataArrive

/-- The packet kind with a code. -/
def pktKindOf (n : Nat) : PktKind :=
  match n with
  | 1 => .answer | 2 => .hop | 3 => .ring | 4 => .sig | 5 => .part | 6 => .pass | _ => .data

/-- An ANSWER to a tile, or to the collective engine (log 15). -/
def Dev.answerIn (d : Dev) (port : Nat) (f : Frame) : Dev :=
  let k := fld f.arg1 28 4
  if 8 ≤ k then
    match d.jobCtx f.job with
    | none => d.flmError f port 0 3 sPerm
    | some c => d.cxAnswer c k f
  else
    d.toTile port f fun d c t =>
      let p := { framePacket .answer c t f with id := fld f.arg1 24 4, ref := fld f.arg1 0 23, answers := pktKindOf k }
      d.raceHeader .answer c t f fun d => d.land p fun d n => d.ctlArrive n .answer Dev.answerArrive

/-- FLUME_DATA_FRAME (R419). -/
def execFlumeDataFrame (p : Port) (f : Frame) (s : State) : Res :=
  .next (onDev (fun d => d.frameIn p f 2 fun d => d.dataFrame p f) s)

/-- FLUME_ANSWER_FRAME (R419). -/
def execFlumeAnswerFrame (p : Port) (f : Frame) (s : State) : Res :=
  .next (onDev (fun d => d.frameIn p f 3 fun d => d.answerIn p f) s)

/-- FLUME_HOP_FRAME (R419). -/
def execFlumeHopFrame (p : Port) (f : Frame) (s : State) : Res :=
  .next (onDev (fun d => d.frameIn p f 4 fun d =>
    d.toTile p f fun d c t => d.raceHeader .hop c t f fun d =>
      d.land (framePacket .hop c t f) fun d n => d.ctlArrive n .hop Dev.hopArrive) s)

/-- FLUME_RING_FRAME (R419). -/
def execFlumeRingFrame (p : Port) (f : Frame) (s : State) : Res :=
  .next (onDev (fun d => d.frameIn p f 5 fun d =>
    d.toTile p f fun d c t => d.raceHeader .ring c t f fun d =>
      d.land (framePacket .ring c t f) fun d n => d.ctlArrive n .ring Dev.ringArrive) s)

/-- FLUME_PART_FRAME (R422). -/
def execFlumePartFrame (p : Port) (f : Frame) (s : State) : Res :=
  .next (onDev (fun d => d.frameIn p f 7 fun d =>
    d.toTile p f fun d c t => d.raceHeader .part c t f fun d =>
      d.land (framePacket .part c t f) fun d n => d.bulkArrive n .part Dev.partArrive) s)

/-- FRAME_FORWARD (R403, R413, R414). -/
def execFrameForward (p : Port) (f : Frame) (s : State) : Res := .next (onDev (fun d => d.frameThrough p f) s)

/-! ### Ports and links -/

/-- PORT_TRAIN_DONE (R407, R412). -/
def execPortTrainDone (p : Port) (lanes : Nat) (s : State) : Res := .next (onDev (fun d => d.trained p lanes) s)

/-- HELLO_TIMER (R411). -/
def execHelloTimer (p : Port) (s : State) : Res := .next (onDev (fun d => d.helloTimer s.capDigest p) s)

/-- HELLO_FRAME (R411, R412). -/
def execHelloFrame (p : Port) (f : Frame) (s : State) : Res := .next (onDev (fun d => d.helloTake s.capDigest p f) s)

/-- HELLO_TIMEOUT (R411). -/
def execHelloTimeout (p : Port) (s : State) : Res := .next (onDev (fun d => d.helloTimeout p) s)

/-- FRAME_CRC_FAIL (R405, R410). -/
def execFrameCrcFail (p : Port) (lseq : Nat) (auth : Option Bool) (s : State) : Res :=
  .next (onDev (fun d => d.frameFails p (lseq % 4096) auth) s)

/-- LINK_ACK (R405). -/
def execLinkAck (p : Port) (lseq : Nat) (s : State) : Res := .next (onDev (fun d => d.linkAck p lseq) s)

/-- LINK_NAK (R405, R406). -/
def execLinkNak (p : Port) (lseq : Nat) (s : State) : Res := .next (onDev (fun d => d.linkNak p lseq) s)

/-- LINK_ACK_TIMER (R405). -/
def execLinkAckTimer (p : Port) (s : State) : Res := .next (onDev (fun d => d.ackTimer p) s)

/-- BER_WINDOW_EXPIRE (R406). -/
def execBerWindowExpire (p : Port) (rates : List Nat) (s : State) : Res := .next (onDev (fun d => d.berWindow p rates) s)

/-- FRAME_STALL_TIMEOUT (R418). -/
def execFrameStallTimeout (p : Port) (s : State) : Res := .next (onDev (fun d => d.frameStall p) s)

/-! ### Global time -/

/-- TIME_EXCHANGE_TIMER (R427). -/
def execTimeExchangeTimer (p : Port) (s : State) : Res := .next (onDev (fun d => d.timeExchange p) s)

/-- TIME_FRAME (R427, R428). -/
def execTimeFrame (p : Port) (f : Frame) (s : State) : Res := .next (onDev (fun d => d.timeTake p f) s)

/-- TIME_HOLDOVER_TIMEOUT (R428). -/
def execTimeHoldoverTimeout (s : State) : Res := .next (onDev Dev.holdover s)

/-- SYNC_PPS_EDGE (R429, R555, R556). -/
def execSyncPpsEdge (ns : Nat) (s : State) : Res := .next (onDev (fun d => d.ppsEdge ns) s)

/-- PPS_TIMEOUT (R555). -/
def execPpsTimeout (s : State) : Res := .next (onDev Dev.ppsTimeout s)

/-! ### RoCEv2 (R432) -/

/-- ROCE_NAK. -/
def execRoceNak (p : Port) (qp : Fin 2) (psn : Nat) (s : State) : Res := .next (onDev (fun d => d.roceNak p qp psn) s)

/-- ROCE_CNP. -/
def execRoceCnp (p : Port) (qp : Fin 2) (s : State) : Res := .next (onDev (fun d => d.roceCnp p qp) s)

/-- ROCE_RATE_RECOVER. -/
def execRoceRateRecover (p : Port) (qp : Fin 2) (s : State) : Res := .next (onDev (fun d => d.roceRecover p qp) s)

end Sys2Proof.Machine
end

