-- ==== Sys2Proof/Machine/Image.lean ====
section
/-!
DEFINITION. A Kerkin image as bytes (R455 to R467): its header, section table, signature, capabilities and patches, with the
loader's checks on them (R468, orders 2 to 7). Sections are checked in Machine/ImageCheck.lean.
-/
namespace Sys2Proof.Machine

/-! ### Refusals (R468, R471) -/

/-- A refusal of a LOAD: its code, its status, the TYPE of the section and the image offset reported. -/
structure LoadFail where
  code : Nat
  status : Nat
  type : Nat
  off : Nat
  deriving DecidableEq, Repr

abbrev rSource : Nat := 0x01
abbrev rHeader : Nat := 0x02
abbrev rSignature : Nat := 0x03
abbrev rDecrypt : Nat := 0x04
abbrev rSection : Nat := 0x05
abbrev rCapMissing : Nat := 0x06
abbrev rCapVersion : Nat := 0x07
abbrev rField : Nat := 0x08
abbrev rMills : Nat := 0x09
abbrev rHbm : Nat := 0x0A
abbrev rSync : Nat := 0x0B
abbrev rShare : Nat := 0x0C
abbrev rMode : Nat := 0x0D

/-- The status of the first check that fails, in the order of a list (R26). -/
def firstBad (cs : List (Bool × Nat)) : Option Nat := (cs.find? (·.1)).map (·.2)

/-- The refusal of an entry whose checks give a status. -/
def fieldFail (type off : Nat) (st : Option Nat) : Option LoadFail :=
  st.map fun x => { code := rField, status := x, type := type, off := off }

/-- The first failure of a list of checks made one after another. -/
def firstFail (cs : List (Option LoadFail)) : Option LoadFail := cs.findSome? id

/-! ### Header and section table (R455 to R457) -/

/-- An entry of the section table, with the image offset of the entry itself. -/
structure Sect where
  at_ : Nat
  type : Nat
  ver : Nat
  res : Nat
  off : Nat
  size : Nat
  count : Nat
  deriving DecidableEq, Repr

/-- SCOUNT. -/
def imCount (im : List Byte) : Nat := leAt im 16 2

/-- FLAGS.ENC. -/
def imEnc (im : List Byte) : Bool := decide (leAt im 6 2 % 2 = 1)

/-- The entries of the section table. -/
def imSects (im : List Byte) : List Sect :=
  (List.range (imCount im)).map fun i =>
    let a := 64 + 16 * i
    { at_ := a, type := leAt im a 2, ver := byteAt im (a + 2), res := byteAt im (a + 3), off := leAt im (a + 4) 4,
      size := leAt im (a + 8) 4, count := leAt im (a + 12) 4 }

/-- The section of a type. -/
def imSect (im : List Byte) (type : Nat) : Option Sect := (imSects im).find? fun s => decide (s.type = type)

/-- The bytes of a section; none of it where it is absent. -/
def imBytes (im : List Byte) (type : Nat) : List Byte :=
  match imSect im type with
  | some s => (im.drop s.off).take s.size
  | none => []

/-- The image offset and COUNT of a section, 0 where it is absent. -/
def imOff (im : List Byte) (type : Nat) : Nat := ((imSect im type).map (·.off)).getD 0
def imEntries (im : List Byte) (type : Nat) : Nat := ((imSect im type).map (·.count)).getD 0

/-- The header (R455); `len` is the LENGTH of the command. -/
def headerFail (im : List Byte) (len : Nat) : Option LoadFail :=
  if leAt im 0 4 ≠ 0x4E4B524B ∨ leAt im 4 2 ≠ 1 ∨ 1 < leAt im 6 2 ∨ leAt im 12 4 ≠ len ∨ len % 64 ≠ 0 ∨ imCount im < 4 ∨
      14 < imCount im ∨ leAt im 18 46 ≠ 0 then
    some { code := rHeader, status := sParam, type := 0, off := 0 }
  else none

/-- The size of an entry of a section type that holds nothing but entries of one size (R457). -/
def entrySize (type : Nat) : Option Nat :=
  match type with
  | 0x01 => some 4 | 0x02 => some 16 | 0x04 => some 32 | 0x06 => some 16 | 0x07 => some 16 | 0x08 => some 32 | 0x09 => some 8
  | 0x0D => some 8 | _ => none

/-- SIZE and COUNT agree with the section's layout (R457, R594; log 92). -/
def Sect.sizeOk (s : Sect) : Bool :=
  match entrySize s.type with
  | some n => decide (s.size = n * s.count) && (decide (s.type ≠ 0x02) || decide (s.count = 1))
  | none =>
    if s.type = 0x03 then decide (16 * s.count ≤ s.size) else if s.type = 0x0E then decide (s.size = 128) else true

/-- One entry of the section table breaks R456 or R457; `before` holds the entries before it. -/
def Sect.bad (s : Sect) (before : List Sect) (table len : Nat) : Bool :=
  decide (s.type = 0 ∨ 0x0E < s.type ∨ s.ver ≠ 1 ∨ s.res ≠ 0 ∨ s.off % 64 ≠ 0 ∨ len < s.off + s.size) ||
  decide (s.off < (before.getLast?.map fun p => p.off + p.size).getD table) ||
  before.any (fun p => decide (p.type = s.type)) || !s.sizeOk

/-- The section table (R456, R457). A missing section, or a SIG that does not end the image, is reported at the table's
start (log 92). -/
def tableFail (im : List Byte) (len : Nat) : Option LoadFail :=
  let ss := imSects im
  let fail := fun (type off : Nat) => ({ code := rSection, status := sParam, type := type % 256, off := off } : LoadFail)
  let rec go (before : List Sect) : List Sect → Option LoadFail
    | [] => none
    | s :: rest => if s.bad before (64 + 16 * imCount im) len then some (fail s.type s.at_) else go (before ++ [s]) rest
  match go [] ss with
  | some f => some f
  | none =>
    match [0x01, 0x02, 0x03, 0x0E].find? fun t => (imSect im t).isNone with
    | some t => some (fail t 64)
    | none =>
      match ss.getLast? with
      | some s => if s.type = 0x0E ∧ s.off + s.size = len then none else some (fail 0x0E 64)
      | none => some (fail 0x0E 64)

/-! ### Signature and decryption (R458, R594 to R596) -/

/-- The SIG section, where the table's last entry places it; order 3 comes before the table's own checks. -/
def sigSect (im : List Byte) (len : Nat) : Option Sect :=
  match (imSects im).getLast? with
  | some s => if s.type = 0x0E ∧ s.size = 128 ∧ s.off + 128 = len ∧ 64 + 16 * imCount im ≤ s.off then some s else none
  | none => none

/-- The hash that the signature covers: image bytes 0 to SIG.OFFSET - 1, before decryption and patches (R458). -/
def imHash (im : List Byte) (sig : Sect) : List Byte := Config.sha384 (im.take sig.off)

/-- The signature verifies with the public key of slot SKEY (R595). -/
def Skeop.imageVerifies (k : Skeop) (im : List Byte) (sig : Sect) : Bool :=
  match Tab.find k.imgV (byteAt im sig.off) with
  | some key => decide (byteAt im sig.off < 4) && Config.ecdsaVerify key (imHash im sig) ((im.drop (sig.off + 32)).take 96)
  | none => false

/-- The image with its sections in clear (R596): none where its key slot is empty, debug stands at INVASIVE or the tag
fails. -/
def Skeop.decrypt (k : Skeop) (im : List Byte) (sig : Sect) : Option (List Byte) :=
  if !imEnc im then some im
  else
    let start := ((imSects im).head?.map (·.off)).getD 0
    match Tab.find k.imgD (byteAt im (sig.off + 1)) with
    | none => none
    | some key =>
      if k.imgDOff ∨ 4 ≤ byteAt im (sig.off + 1) then none
      else
        (Config.gcmDecrypt key ((im.drop (sig.off + 4)).take 12) (im.take (64 + 16 * imCount im))
          ((im.drop start).take (sig.off - start)) ((im.drop (sig.off + 16)).take 16)).map fun plain =>
            im.take start ++ (plain ++ List.replicate (sig.off - start) 0).take (sig.off - start) ++ im.drop sig.off

/-! ### CAPS (R49, R459) -/

/-- The version of a capability ID in the chain, if it is there (the walk of chapter 11). -/
def capVersion (id : Nat) : Option Nat :=
  (Reg.CAP_ENTRIES.find? (·.1 = id)).bind fun e => (capHeader e.2.1).map fun h => fld h 16 8

/-- The CAPS section. -/
def capsFail (im : List Byte) : Option LoadFail :=
  let off := imOff im 0x01
  let word := fun (i : Nat) => leAt im (off + 4 * i) 4
  firstFail ((List.range (imEntries im 0x01)).map fun i =>
    let w := word i
    let fail := fun (code : Nat) => some ({ code := code, status := sParam, type := 0x01, off := off + 4 * i } : LoadFail)
    if w / 2 ^ 24 ≠ 0 ∨ (List.range i).any (fun j => decide (word j % 2 ^ 16 = w % 2 ^ 16)) then fail rField
    else match capVersion (w % 2 ^ 16) with
      | none => fail rCapMissing
      | some v => if v < w / 2 ^ 16 % 256 then fail rCapVersion else none)

/-! ### Patches (R466, R467) -/

/-- Words 0 and 1 of PATCH entry `i`. -/
def patchAt (im : List Byte) (i : Nat) : Nat × Word :=
  (leAt im (imOff im 0x0D + 8 * i) 4, BitVec.ofNat 32 (leAt im (imOff im 0x0D + 8 * i + 4) 4))

/-- KIND and ARG of a patch. -/
def patchKind (w : Word) : Nat := fld w 28 4
def patchArg (w : Word) : Nat := fld w 24 2

/-- Bytes a patch writes. -/
def patchWidth (w : Word) : Nat := if patchKind w = 5 then 1 else 2

/-- The PATCH section. A RANK whose table does not exist is refused (log 93). -/
def patchFail (im : List Byte) : Option LoadFail :=
  firstFail ((List.range (imEntries im 0x0D)).map fun i =>
    let (t, w) := patchAt im i
    let inside := (imSects im).any fun s =>
      decide (s.type ≠ 0x01 ∧ s.type ≠ 0x0D ∧ s.type ≠ 0x0E ∧ s.off ≤ t ∧ t + patchWidth w ≤ s.off + s.size)
    let ranks := if (imSect im 0x0B).isSome then leAt im (imOff im 0x0B + 4) 1 else 0
    fieldFail 0x0D (imOff im 0x0D + 8 * i) (firstBad
      [(decide (patchKind w = 0 ∨ 5 < patchKind w ∨ fld w 26 2 ≠ 0 ∨ fld w 0 24 ≠ 0) ||
          decide (patchKind w = 4 ∧ ranks ≤ patchArg w), sParam),
       (!inside, sBound)]))

/-- Replace bytes of an image. -/
def imPut (im : List Byte) (off : Nat) (bs : List Byte) : List Byte := im.take off ++ bs ++ im.drop (off + bs.length)

/-- The offset of rank table `k` in the COLL section (R320, R321). -/
def rankOff (cs : List Byte) : (k : Nat) → Nat
  | 0 => 32
  | k + 1 => rankOff cs k + 2 + 2 * leAt cs (rankOff cs k) 2

/-- A rank table of the COLL section. -/
def rankList (cs : List Byte) (k : Nat) : List Nat :=
  (List.range (leAt cs (rankOff cs k) 2)).map fun r => leAt cs (rankOff cs k + 2 + 2 * r) 2

/-- Apply one patch (R466). -/
def Dev.patchOne (d : Dev) (c : Nat) (im : List Byte) (t : Nat) (w : Word) : List Byte :=
  let fa := d.regFld Reg.FLM_FA 0 16
  let v := match patchKind w with
    | 1 => d.fa / 0x8000 * 0x8000 + leAt im t 2 % 0x8000
    | 2 => fa
    | 3 => fa ^^^ 0x8000
    | 4 => ((rankList (imBytes im 0x0B) (patchArg w)).findIdx? (· = d.fa)).getD 0
    | _ => c
  imPut im t (bytesOf (patchWidth w) v)

/-- Apply every patch: kinds other than RANK first, in order, then RANK (R467). -/
def Dev.patched (d : Dev) (c : Nat) (im : List Byte) : List Byte :=
  let ps := (List.range (imEntries im 0x0D)).map (patchAt im)
  let run := fun (im : List Byte) (ps : List (Nat × Word)) => ps.foldl (fun im p => d.patchOne c im p.1 p.2) im
  run (run im (ps.filter fun p => decide (patchKind p.2 ≠ 4))) (ps.filter fun p => decide (patchKind p.2 = 4))

end Sys2Proof.Machine
end

