-- ==== Sys2Proof/Machine/ImageCheck.lean ====
section
/-!
DEFINITION. The loader's checks of an image's sections (R468, orders 8 and 9): mills, tiles, regions, sync objects, channels,
rings and bindings.
-/
namespace Sys2Proof.Machine

/-- The `n` words of entry `i` of a section of a type, whose entries have 4 × `n` bytes. -/
def imWords (im : List Byte) (type n i : Nat) : List Word := wordsOf n (im.drop (imOff im type + 4 * n * i))

/-- The image offset of entry `i` of `size` bytes of a section. -/
def imAt (im : List Byte) (type size i : Nat) : Nat := imOff im type + size * i

/-- Check every entry of a section in order. -/
def eachEntry (im : List Byte) (type size : Nat) (st : Nat → Option Nat) : Option LoadFail :=
  firstFail ((List.range (imEntries im type)).map fun i => fieldFail type (imAt im type size i) (st i))

/-! ### MILLS (R460) -/

/-- NMILLS and PREEMPT. -/
def imMills (im : List Byte) : Nat := fld (wordAt (imWords im 0x02 4 0) 0) 0 8
def imPreempt (im : List Byte) : Bool := bit (wordAt (imWords im 0x02 4 0) 0) 31

/-- Logical tiles of the image. -/
def imTiles (im : List Byte) : Nat := 8 * imMills im

def millsFail (im : List Byte) : Option LoadFail :=
  eachEntry im 0x02 16 fun i =>
    let w := imWords im 0x02 4 i
    firstBad [(decide (imMills im = 0 ∨ 192 < imMills im), sLen),
      (decide (fld (wordAt w 0) 8 23 ≠ 0 ∨ wordAt w 1 ≠ 0 ∨ wordAt w 2 ≠ 0 ∨ wordAt w 3 ≠ 0), sParam)]

/-! ### TILES (R461, R462) -/

/-- The words of a TILES entry. -/
def tileRec (im : List Byte) (i : Nat) : List Word := imWords im 0x03 4 i
def tKind (w : List Word) : Nat := fld (wordAt w 0) 28 4
def tCtx (w : List Word) : Nat := fld (wordAt w 0) 26 2
def tTile (w : List Word) : Nat := fld (wordAt w 0) 0 11
/-- Words 1 to 3 as numbers. -/
def tArg (w : List Word) (i : Nat) : Nat := (wordAt w i).toNat

/-- The TILES entries in order. -/
def tileRecs (im : List Byte) : List (List Word) := (List.range (imEntries im 0x03)).map (tileRec im)

/-- BASE, BOUND and PC that the section gives a hardware context of a logical tile. -/
def ctxOf (im : List Byte) (lt k : Nat) : Nat × Nat × Nat :=
  match (tileRecs im).find? fun w => decide (tKind w = 1 ∧ tTile w = lt ∧ tCtx w = k) with
  | some w => (tArg w 1, tArg w 2, tArg w 3)
  | none => (0, 0, 0)

/-- BOUND of context S of a logical tile. -/
def sBoundOf (im : List Byte) (lt : Nat) : Nat := (ctxOf im lt 0).2.1

/-- The bytes that a DATA or FILL entry writes (R461). -/
def tileData (im : List Byte) (w : List Word) : List Byte :=
  if tKind w = 2 then (im.drop (imOff im 0x03 + tArg w 2)).take (tArg w 3)
  else if tKind w = 3 then (List.replicate (tArg w 3 / 4) (bytesOf 4 (tArg w 2))).flatten
  else []

/-- The `n` bytes of a tile's memory from an offset up as the section writes them: a later entry wins, and a byte that no
entry writes counts as 0 (log 94). -/
def tileImage (im : List Byte) (lt off n : Nat) : List Byte :=
  let ws := ((tileRecs im).filter fun w => decide (tTile w = lt ∧ (tKind w = 2 ∨ tKind w = 3))).map fun w =>
    ((ctxOf im lt (tCtx w)).1 + tArg w 1, tileData im w)
  (List.range n).map fun k => (ws.reverse.findSome? fun x =>
    if x.1 ≤ off + k ∧ off + k < x.1 + x.2.length then x.2[off + k - x.1]? else none).getD 0

/-- The entries of the exchange program that an XPROG entry declares. -/
def xprogOf (im : List Byte) (w : List Word) : List (List Word) :=
  let bs := tileImage im (tTile w) ((ctxOf im (tTile w) 0).1 + tArg w 1) (32 * tArg w 2)
  (List.range (tArg w 2)).map fun i => wordsOf 8 (bs.drop (32 * i))

/-- The programs that the image declares for a logical tile. -/
def xprogsOf (im : List Byte) (lt : Nat) : List (List (List Word)) :=
  ((tileRecs im).filter fun w => decide (tKind w = 4 ∧ tTile w = lt)).map (xprogOf im)

/-- Every input of an RNODE has the node's LEN, as far as the image declares the children's programs (R223; log 94). -/
def inputsAgree (im : List Byte) (lt : Nat) (w : List Word) : Bool :=
  ((List.range (rnIn w)).map (rnChild w)).all fun l =>
    let mates := (xprogsOf im l).flatten.filter fun v => decide (xKind v = 4 ∧ xTag v = xTag w ∧ rnPtile v = lt) && !xRemote v
    mates.isEmpty || mates.any fun v => decide (rnLen v = rnLen w)

/-- The checks of R202 that do not depend on run time, for one entry of a declared program (R462). -/
def xprogEntry (im : List Byte) (lt : Nat) (ws : List (List Word)) (i : Nat) (w : List Word) : Option Nat :=
  let n := (xEarlier ws i w).length
  firstBad
    [(match xKind w with
      | 2 => decide (64 ≤ n)
      | 4 => decide (64 ≤ n ∨ 32 < xBufs ws i)
      | 5 => decide (16 ≤ n)
      | _ => false, sLen),
     (match xKind w with
      | 2 => (xEarlier ws i w).any fun v => decide (xId v = xId w)
      | 3 => !ws.any fun v => decide (xKind v = 4 ∧ xTag v = xTag w ∧ rnLen v = redLen w)
      | 4 => (xEarlier ws i w).any (fun v => decide (xTag v = xTag w)) ||
          (rnLocal w && !ws.any fun v => decide (xKind v = 3 ∧ xTag v = xTag w)) || !inputsAgree im lt w
      | 5 => (xEarlier ws i w).any fun v => decide (xId v = xId w)
      | _ => false, sParam)]

/-- An XPROG entry (R462). -/
def xprogStatus (im : List Byte) (w : List Word) : Option Nat :=
  let ws := xprogOf im w
  match firstBad [(decide (4096 < tArg w 2), sLen), (decide (tArg w 1 % 32 ≠ 0), sParam),
      (!inBound (sBoundOf im (tTile w)) (tArg w 1) (32 * tArg w 2), sBound)] with
  | some st => some st
  | none => ws.zipIdx.findSome? fun x => xprogEntry im (tTile w) ws x.2 x.1

/-- A CTX or TVEC entry repeats an earlier one. -/
def tileRepeat (im : List Byte) (i : Nat) (w : List Word) : Bool :=
  ((tileRecs im).take i).any fun v =>
    decide (tKind v = tKind w ∧ tTile v = tTile w ∧ (tKind w = 5 ∨ (tKind w = 1 ∧ tCtx v = tCtx w)))

/-- One TILES entry (R461). -/
def tileStatus (im : List Byte) (i : Nat) : Option Nat :=
  let w := tileRec im i
  let k := tKind w
  let bad := decide (fld (wordAt w 0) 11 15 ≠ 0 ∨ imTiles im ≤ tTile w ∨ k = 0 ∨ 5 < k) || tileRepeat im i w
  match k with
  | 1 => firstBad
      [(decide (tArg w 2 = 0), sLen),
       (bad || decide (tArg w 1 % 4096 ≠ 0 ∨ tArg w 2 % 4096 ≠ 0 ∨ tArg w 3 % 8 ≠ 0 ∨ 2 ^ 23 ≤ tArg w 3), sParam),
       (decide (tileSize < tArg w 1 + tArg w 2), sBound)]
  | 2 => firstBad
      [(decide (tArg w 3 = 0), sLen), (bad || decide (tArg w 3 % 8 ≠ 0), sParam),
       (decide (((imSect im 0x03).map (·.size)).getD 0 < tArg w 2 + tArg w 3) ||
          !inBound (ctxOf im (tTile w) (tCtx w)).2.1 (tArg w 1) (tArg w 3), sBound)]
  | 3 => firstBad
      [(decide (tArg w 3 = 0), sLen), (bad || decide (tArg w 3 % 8 ≠ 0 ∨ tArg w 1 % 8 ≠ 0), sParam),
       (!inBound (ctxOf im (tTile w) (tCtx w)).2.1 (tArg w 1) (tArg w 3), sBound)]
  | 4 =>
    if 4096 < tArg w 2 then some sLen
    else if bad ∨ tArg w 3 ≠ 0 then some sParam else xprogStatus im w
  | _ => firstBad [(bad || decide (tCtx w ≠ 0 ∨ tArg w 1 % 8 ≠ 0 ∨ sBoundOf im (tTile w) ≤ tArg w 1 ∨ tArg w 2 ≠ 0 ∨ tArg w 3 ≠ 0),
      sParam)]

/-- The TILES section. A tile whose context S has no CTX entry is reported at the section's start. -/
def tilesFail (im : List Byte) : Option LoadFail :=
  match eachEntry im 0x03 16 (tileStatus im) with
  | some f => some f
  | none =>
    if (List.range (imTiles im)).all fun lt => (tileRecs im).any fun w => decide (tKind w = 1 ∧ tTile w = lt ∧ tCtx w = 0) then none
    else fieldFail 0x03 (imOff im 0x03) (some sParam)

/-! ### REGIONS (R463) -/

def gHost (w : List Word) : Bool := decide (fld (wordAt w 0) 30 2 = 1)
def gW (w : List Word) : Bool := bit (wordAt w 0) 29
def gPage (w : List Word) : Nat := if bit (wordAt w 0) 28 then 0x200000 else 0x10000
def gInit (w : List Word) : Nat := fld (wordAt w 0) 26 2
def gHostIx (w : List Word) : Nat := fld (wordAt w 0) 0 6
def gVa (w : List Word) : Nat := oAddr w 1
def gSize (w : List Word) : Nat := oAddr w 3
def gOff (w : List Word) : Nat := (wordAt w 5).toNat
def gLen (w : List Word) : Nat := (wordAt w 6).toNat

/-- The REGIONS entries in order. -/
def regionsOf (im : List Byte) : List (List Word) := (List.range (imEntries im 0x04)).map (imWords im 0x04 8)

/-- Two extents share a byte. -/
def overlaps (a n b m : Nat) : Bool := decide (a < b + m ∧ b < a + n)

/-- One REGIONS entry; `hosts` is the host table. A region's host entry must be a multiple of 4 KiB (log 95). -/
def regionStatus (im : List Byte) (hosts : List (Nat × Nat)) (i : Nat) : Option Nat :=
  let w := imWords im 0x04 8 i
  let h := hosts.getD (gHostIx w) (0, 0)
  let data := !gHost w && decide (gInit w = 2)
  firstBad
    [(decide (gSize w = 0) || (data && decide (gLen w = 0 ∨ gSize w < gLen w)), sLen),
     (decide (2 ≤ fld (wordAt w 0) 30 2 ∨ fld (wordAt w 0) 6 20 ≠ 0 ∨ fld (wordAt w 2) 16 16 ≠ 0 ∨ fld (wordAt w 4) 16 16 ≠ 0 ∨
        wordAt w 7 ≠ 0 ∨ gVa w % gPage w ≠ 0 ∨ gSize w % gPage w ≠ 0 ∨ 2 ^ 48 < gVa w + gSize w) ||
      (!gHost w && decide (gInit w = 3)) ||
      ((regionsOf im).take i).any (fun v => overlaps (gVa v) (gSize v) (gVa w) (gSize w)) ||
      (gHost w && decide (hosts.length ≤ gHostIx w ∨ h.1 % 4096 ≠ 0 ∨ h.2 % 4096 ≠ 0)), sParam),
     ((gHost w && decide (h.2 < gSize w)) ||
      (data && decide (((imSect im 0x05).map (·.size)).getD 0 < gOff w + gLen w)), sBound)]

def regionsFail (im : List Byte) (hosts : List (Nat × Nat)) : Option LoadFail :=
  eachEntry im 0x04 32 (regionStatus im hosts)

/-- `SLC_VLIMc` of the image: the highest region end, rounded up to 64 KiB (R464). -/
def imVlim (im : List Byte) : Nat :=
  ((regionsOf im).map fun w => alignUp 0x10000 (gVa w + gSize w)).foldl max 0

/-! ### SYNC (R236) -/

def yVid (w : List Word) : Nat := fld (wordAt w 0) 0 12
def yShared (w : List Word) : Bool := bit (wordAt w 0) 12
def yHost (w : List Word) : Bool := bit (wordAt w 0) 13
def yNotify (w : List Word) : Bool := bit (wordAt w 0) 14
def yDomain (w : List Word) : Bool := bit (wordAt w 0) 15
def yVec (w : List Word) : Nat := fld (wordAt w 0) 16 8
def yArrs (w : List Word) : Nat := fld (wordAt w 1) 0 16
def ySigs (w : List Word) : Nat := fld (wordAt w 1) 16 16
def yLo (w : List Word) : Nat := fld (wordAt w 2) 0 8
def yHi (w : List Word) : Nat := fld (wordAt w 2) 8 8

/-- The SYNC entries in order. -/
def syncsOf (im : List Byte) : List (List Word) := (List.range (imEntries im 0x06)).map (imWords im 0x06 4)

/-- The image has an object with a virtual ID. -/
def hasVid (im : List Byte) (vid : Nat) : Bool := (syncsOf im).any fun w => decide (yVid w = vid)

def syncStatus (im : List Byte) (i : Nat) : Option Nat :=
  let w := imWords im 0x06 4 i
  firstBad
    [(decide (yArrs w = 0), sLen),
     (decide (fld (wordAt w 0) 24 8 ≠ 0 ∨ fld (wordAt w 2) 16 16 ≠ 0 ∨ yHi w < yLo w ∨ imMills im ≤ yHi w) ||
      (!yShared w && decide (wordAt w 3 ≠ 0)) || ((syncsOf im).take i).any (fun v => decide (yVid v = yVid w)), sParam)]

/-! ### CHAN, RING, BIND (R243, R257, R258, R261) -/

/-- The logical tile, the number, and whether reserved bytes are set, in the first words of a CHAN, RING or BIND entry. -/
def eTile (w : List Word) : Nat := fld (wordAt w 0) 0 16
def eNum (w : List Word) : Nat := fld (wordAt w 0) 16 8

def chansOf (im : List Byte) : List (List Word) := (List.range (imEntries im 0x07)).map (imWords im 0x07 4)
def hValid (w : List Word) : Bool := bit (wordAt w 2) 31
def hRing (w : List Word) : Bool := bit (wordAt w 2) 30
def hRemote (w : List Word) : Bool := bit (wordAt w 2) 29
def hNum (w : List Word) : Nat := fld (wordAt w 2) 24 3
def hTile (w : List Word) : Nat := fld (wordAt w 2) 0 11
def hDfa (w : List Word) : Nat := fld (wordAt w 3) 0 16

def chanStatus (im : List Byte) (i : Nat) : Option Nat :=
  let w := imWords im 0x07 4 i
  firstBad [(decide (fld (wordAt w 0) 24 8 ≠ 0 ∨ wordAt w 1 ≠ 0 ∨ fld (wordAt w 2) 27 2 ≠ 0 ∨ fld (wordAt w 2) 11 13 ≠ 0 ∨
    fld (wordAt w 3) 16 16 ≠ 0 ∨ imTiles im ≤ eTile w ∨ 63 < eNum w) ||
    (hRing w && decide (3 < hNum w)) || (hValid w && !hRemote w && decide (imTiles im ≤ hTile w)), sParam)]

def ringsOf (im : List Byte) : List (List Word) := (List.range (imEntries im 0x08)).map (imWords im 0x08 8)
def gRingSize (w : List Word) : Nat := 2 ^ (fld (wordAt w 4) 23 4 + 8)
def gRingBase (w : List Word) : Nat := fld (wordAt w 4) 0 23
def gRingCtrl (w : List Word) : Nat := fld (wordAt w 5) 0 23

/-- One RING entry. A ring or control word that overlaps the XCB is refused as one outside the bound (R261; log 95). -/
def ringStatus (im : List Byte) (i : Nat) : Option Nat :=
  let w := imWords im 0x08 8 i
  let b := sBoundOf im (eTile w)
  firstBad
    [(decide (fld (wordAt w 0) 24 8 ≠ 0 ∨ wordAt w 1 ≠ 0 ∨ wordAt w 2 ≠ 0 ∨ wordAt w 3 ≠ 0 ∨ fld (wordAt w 4) 27 5 ≠ 0 ∨
        fld (wordAt w 5) 23 9 ≠ 0 ∨ wordAt w 6 ≠ 0 ∨ wordAt w 7 ≠ 0 ∨ imTiles im ≤ eTile w ∨ 3 < eNum w ∨
        12 < fld (wordAt w 4) 23 4 ∨ gRingBase w % 256 ≠ 0 ∨ gRingCtrl w % 8 ≠ 0), sParam),
     (!inBound (b - 64) (gRingBase w) (gRingSize w) || !inBound (b - 64) (gRingCtrl w) 8, sBound)]

def bindsOf (im : List Byte) : List (List Word) := (List.range (imEntries im 0x09)).map (imWords im 0x09 2)
def nNum (w : List Word) : Nat := fld (wordAt w 1) 16 8
def nKind (w : List Word) : Nat := fld (wordAt w 1) 12 2
def nVid (w : List Word) : Nat := fld (wordAt w 1) 0 12

/-- One BIND entry: at most 16 per tile. -/
def bindStatus (im : List Byte) (i : Nat) : Option Nat :=
  let w := imWords im 0x09 2 i
  firstBad
    [(decide (16 ≤ (((bindsOf im).take i).filter fun v => decide (eTile v = eTile w)).length), sLen),
     (decide (fld (wordAt w 0) 16 16 ≠ 0 ∨ fld (wordAt w 1) 24 8 ≠ 0 ∨ fld (wordAt w 1) 14 2 ≠ 0 ∨ nKind w = 3 ∨
        imTiles im ≤ eTile w ∨ (nKind w ≠ 0 ∧ 3 < nNum w)), sParam)]

/-- Two channels of the image name one destination on this device, or a ring channel a ring that its tile lacks (R258). -/
def chanClash (im : List Byte) (i : Nat) : Option Nat :=
  let w := imWords im 0x07 4 i
  let same := fun (v : List Word) => hValid v && !hRemote v && decide (hTile v = hTile w ∧ hRing v = hRing w ∧ hNum v = hNum w)
  firstBad [(hValid w && !hRemote w && (((chansOf im).take i).any same ||
    (hRing w && !(ringsOf im).any fun r => decide (eTile r = hTile w ∧ eNum r = hNum w))), sParam)]

/-- A DOMAIN object in an image without a collective section (R424). -/
def domainClash (im : List Byte) (i : Nat) : Option Nat :=
  firstBad [(yDomain (imWords im 0x06 4 i) && (imSect im 0x0B).isNone, sParam)]

end Sys2Proof.Machine
end

