-- ==== Sys2Proof/Machine/ImageParts.lean ====
section
/-!
DEFINITION. The guard, collective and update sections of an image (R182 to R184, R320 to R324, R331, R338, R341, R350, R356, R364,
R373 to R377): the loader's checks on them, and the state they become.
-/
namespace Sys2Proof.Machine

/-! ### GUARD -/

/-- GRA, GSUM and COUNT (R182). -/
def imGra (im : List Byte) : Nat := leAt (imBytes im 0x0A) 0 4
def imGsum (im : List Byte) : Nat := leAt (imBytes im 0x0A) 4 8
def imGuards (im : List Byte) : Nat := byteAt (imBytes im 0x0A) 12

/-- The words of guard entry `g` (R183). -/
def guardWords (im : List Byte) (g : Nat) : List Word := wordsOf 4 ((imBytes im 0x0A).drop (16 + 16 * g))

/-- The guard header. The array and the summary must lie in every context S and in the virtual space (R24). -/
def guardFail (im : List Byte) : Option LoadFail :=
  match imSect im 0x0A with
  | none => none
  | some s =>
    fieldFail 0x0A s.off (firstBad
      [(decide (imGuards im = 0 ∨ 64 < imGuards im ∨ s.size ≠ 16 + 16 * imGuards im), sLen),
       (decide (leAt (imBytes im 0x0A) 13 3 ≠ 0 ∨ imGra im % 64 ≠ 0 ∨ imGsum im % 64 ≠ 0), sParam),
       ((List.range (imTiles im)).any (fun lt => !inBound (sBoundOf im lt) (imGra im) 64) ||
          decide (imVlim im < imGsum im + 2048), sBound)])

/-- PLANS is one run of bits from BASE up (R184). -/
def plansRun (plans base : Nat) : Bool :=
  (List.range 6).any fun n => decide (0 < n ∧ plans = (2 ^ n - 1) * 2 ^ base)

/-- One guard entry breaks R184. -/
def guardClash (im : List Byte) (g : Nat) : Option LoadFail :=
  let w := guardWords im g
  let base := fld (wordAt w 2) 8 3
  let plans := fld (wordAt w 2) 11 5
  fieldFail 0x0A (imOff im 0x0A + 16 + 16 * g) (firstBad
    [(decide (65536 < (wordAt w 0).toNat ∨ 65536 < (wordAt w 1).toNat ∨ 4 < base ∨ fld (wordAt w 2) 0 6 ≠ 0 ∨ wordAt w 3 ≠ 0) ||
      !plansRun plans base, sParam)])

/-- The guard section as state: every rung at BASE, clean counters 0 (R189). -/
def guardOf (im : List Byte) : Guard :=
  if (imSect im 0x0A).isNone then Guard.empty
  else
    { gra := imGra im, gsum := imGsum im, noted := []
      entries := (List.range (imGuards im)).map fun g =>
        let w := guardWords im g
        let base := fld (wordAt w 2) 8 3
        { thSat := fld (wordAt w 0) 0 17, thUfl := fld (wordAt w 1) 0 17, desc := fld (wordAt w 2) 16 16, plans := fld (wordAt w 2) 11 5
          base := base, fp8v := bit (wordAt w 2) 7, fp6v := bit (wordAt w 2) 6, rung := base, clean := 0, rungKept := base, cleanKept := 0, elems := 0, sat := 0, ftz := 0, nan := 0 } }

/-! ### COLL -/

/-- The header words, and the places of the tensor and operation tables, which follow the rank tables (log 96). -/
def collWords (im : List Byte) : List Word := wordsOf 8 (imBytes im 0x0B)
def imRanks (im : List Byte) : Nat := fld (wordAt (collWords im) 1) 0 8
def imTensors (im : List Byte) : Nat := fld (wordAt (collWords im) 0) 0 16
def imOps (im : List Byte) : Nat := fld (wordAt (collWords im) 0) 16 16
def imOvl (im : List Byte) : Bool := bit (wordAt (collWords im) 1) 8
def tensorOff (im : List Byte) : Nat := rankOff (imBytes im 0x0B) (imRanks im)
def opOff (im : List Byte) : Nat := tensorOff im + 32 * imTensors im
def tensorWords (im : List Byte) (i : Nat) : List Word := wordsOf 8 ((imBytes im 0x0B).drop (tensorOff im + 32 * i))
def opWords (im : List Byte) (i : Nat) : List Word := wordsOf 16 ((imBytes im 0x0B).drop (opOff im + 64 * i))

/-- A tensor's UPD bit, RT and SHB. -/
def nUpd (w : List Word) : Bool := bit (wordAt w 0) 31
def nRt (w : List Word) : Nat := fld (wordAt w 0) 28 2
def nShb (w : List Word) : Nat := (wordAt w 1).toNat

/-- The refusal of a place in the COLL section. -/
def collAt (im : List Byte) (off : Nat) (st : Option Nat) : Option LoadFail := fieldFail 0x0B (imOff im 0x0B + off) st

/-- The header (R320). -/
def collHeader (im : List Byte) : Option LoadFail :=
  let w := collWords im
  let resv := fld (wordAt w 1) 12 4
  collAt im 0 (firstBad
    [(decide (imOps im = 0 ∨ 512 < imOps im ∨ 1024 < imTensors im ∨ imRanks im = 0 ∨ 4 < imRanks im ∨
        (imBytes im 0x0B).length ≠ opOff im + 64 * imOps im), sLen),
     (decide (fld (wordAt w 1) 16 16 ≠ 0 ∨ fld (wordAt w 1) 9 3 ≠ 0 ∨ fld (wordAt w 4) 16 16 ≠ 0 ∨ wordAt w 5 ≠ 0 ∨ wordAt w 6 ≠ 0 ∨
        wordAt w 7 ≠ 0 ∨ oAddr w 3 % 8 ≠ 0) || (!imOvl im && decide (resv ≠ 0)), sParam)])

/-- A rank table (R321). -/
def Dev.rankFail (d : Dev) (im : List Byte) (k : Nat) : Option LoadFail :=
  let rt := rankList (imBytes im 0x0B) k
  let n := leAt (imBytes im 0x0B) (rankOff (imBytes im 0x0B) k) 2
  collAt im (rankOff (imBytes im 0x0B) k) (firstBad
    [(decide (n = 0 ∨ 8192 < n), sLen),
     ((rt.zip (rt.drop 1)).any (fun x => decide (x.2 ≤ x.1)) || rt.any (fun a => decide (a / 0x8000 ≠ d.fa / 0x8000)) ||
        !rt.contains d.fa, sParam)])

/-- A tensor entry (R322). -/
def tensorFail (im : List Byte) (i : Nat) : Option LoadFail :=
  let w := tensorWords im i
  collAt im (tensorOff im + 32 * i) (firstBad
    [(decide (nShb w = 0), sLen),
     (decide (bit (wordAt w 0) 30 ∨ fld (wordAt w 0) 0 28 ≠ 0 ∨ imRanks im ≤ nRt w ∨ nShb w % 4096 ≠ 0 ∨ oAddr w 2 % 4096 ≠ 0 ∨
        oAddr w 4 % 4096 ≠ 0 ∨ fld (wordAt w 3) 16 16 ≠ 0 ∨ fld (wordAt w 5) 16 16 ≠ 0 ∨ wordAt w 7 ≠ 0), sParam)])

/-- The bits that the kinds of operation list, word by word (R323, R331, R338, R341, R350). -/
def opListed (kind : Nat) : List Word :=
  match kind with
  | 1 => [0xF3FFFFFF, 0x07FF03FF, 0x1FFF, 0x3FFF, 0xFFFFFFFF, 0xFFFF, 0xFFFFFFFF]
  | 2 => [0xF1FFFFFF, 0x3FFF, 0xFFFFFFFF, 0, 0xFFFFFFFF, 0xFFFF, 0xFFFFFFFF, 0xFFFF, 0xFFFFFFFF]
  | 3 => [0xF7FFFFFF, 0xFF033FFF, 0xFFFFFFFF, 0, 0xFFFFFFFF, 0xFFFF, 0xFFFFFFFF, 0xFFFF, 0xFFFFFFFF, 0xFFFF, 0xFFFFFFFF, 0xFFFF,
      0xFFFFFFFF]
  | 4 => [0xF0FFFFFF, 0x33FF, 0xFFFFFFFF, 0x1FFFF, 0xFFFFFFFF, 0xFFFF, 0xFFFFFFFF, 0xFFFF, 0xFFFFFFFF, 0xFFFF, 0xFFFFFFFF]
  | _ => []

/-- The operation's table, tensor, trigger and done objects exist (R324). -/
def opNames (im : List Byte) (w : List Word) : Bool :=
  hasVid im (oTrig w) && hasVid im (oDone w) &&
  (decide (oKind w = 1) || decide (oRt w < imRanks im)) &&
  (decide (oKind w = 2 ∨ oKind w = 3) || decide (oTensor w < imTensors im))

/-- An operation entry (R323, R324, R331, R338, R341, R350), against the entries before it. -/
def opFail (im : List Byte) (i : Nat) : Option LoadFail :=
  let w := opWords im i
  let k := oKind w
  let before := (List.range i).map fun j => (opWords im j, j)
  let len := match k with
    | 1 => decide (gNsh w = 0 ∨ 8192 < gNsh w)
    | 2 => decide (oSegn w = 0)
    | 3 => decide (oSegn w = 0)
    | 4 => decide (pShb w = 0 ∨ pCount w = 0 ∨ 65536 < pCount w)
    | _ => false
  let param := match k with
    | 2 => decide (oSegn w % 128 ≠ 0)
    | 3 => decide (oSegn w % 2048 ≠ 0 ∨ xShift w ≤ -127)
    | 4 => decide (pShb w % 4096 ≠ 0 ∨ oAddr w 4 % 16 ≠ 0 ∨ oAddr w 6 % 4096 ≠ 0 ∨ oAddr w 8 % 4096 ≠ 0) ||
        (nUpd (tensorWords im (oTensor w)) && before.any fun x => decide (oKind x.1 = 4 ∧ oTensor x.1 = oTensor w))
    | _ => false
  collAt im (opOff im + 64 * i) (firstBad
    [(len, sLen),
     (decide (k = 0 ∨ 4 < k) || (List.range 16).any (fun j => decide (wordAt w j &&& ~~~(wordAt (opListed k) j) ≠ 0)) ||
        !opNames im w || param ||
        ((oBucket w i).isSome && before.any fun x => decide (oBucket x.1 x.2 = oBucket w i)), sParam)])

/-- The collective section (R324). -/
def Dev.collFail (d : Dev) (im : List Byte) : Option LoadFail :=
  if (imSect im 0x0B).isNone then none
  else firstFail (collHeader im :: ((List.range (imRanks im)).map (d.rankFail im) ++ (List.range (imTensors im)).map (tensorFail im) ++
    (List.range (imOps im)).map (opFail im)))

/-- The rules of the overlap mode (R356). -/
def Dev.ovlFail (d : Dev) (c : Nat) (im : List Byte) : Option LoadFail :=
  let resv := fld (wordAt (collWords im) 1) 12 4
  let place := fun (code st : Nat) => some ({ code := code, status := st, type := 0x0B, off := imOff im 0x0B } : LoadFail)
  if (imSect im 0x0B).isNone ∨ !imOvl im then none
  else if (capVersion 0x10).isNone then place rCapMissing sParam
  else
    match firstFail ((List.range (imOps im)).map fun i =>
      let w := opWords im i
      collAt im (opOff im + 64 * i) (firstBad
        [(decide (oKind w = 2 ∧ 0x4000000 < oSegn w * (if rBf16 w then 2 else 4)), sLen), (decide (oKind w = 3 ∨ oKind w = 4), sParam)])) with
    | some f => some f
    | none =>
      if resv = 0 ∨ 8 < resv then place rField sParam
      else if (List.range 16).any fun k => decide (k ≠ c ∧ (d.img k).state ≠ .empty) && (d.coll k).ovl then place rMode sPerm
      else none

/-- The collective section as state: CUR at GEN0, PREV_VALID 0 (R326). -/
def collOf (im : List Byte) : Coll :=
  let w := collWords im
  if (imSect im 0x0B).isNone then Coll.empty
  else
    { job := wordAt w 2, cstat := oAddr w 3, ovl := imOvl im, resv := fld (wordAt w 1) 12 4
      ranks := (List.range (imRanks im)).map (rankList (imBytes im 0x0B))
      tensors := (List.range (imTensors im)).map fun i =>
        let x := tensorWords im i
        let g : Gen :=
          { rt := nRt x, shb := nShb x, buf0 := oAddr x 2, buf1 := oAddr x 4, cur := (wordAt x 6).toNat, prevValid := false }
        Tensor.restored { upd := nUpd x, rt := 0, shb := 0, buf0 := 0, buf1 := 0, cur := 0, prevValid := false, kept := g, perm := none }
      ops := (List.range (imOps im)).map fun i =>
        { w := opWords im i, stage := .idle, started := false, start := 0, gen := 0, pend := [], bytes := 0, landed := [], summed := []
          cout := false, held := [], combined := [], frames := [], permBytes := 0 }
      heldDone := [] }

/-! ### UPDATE -/

/-- The header words (R373), and the places of windows, tables and entries. -/
def updHeader (im : List Byte) : List Word := wordsOf 16 (imBytes im 0x0C)
def imCvid (im : List Byte) : Nat := fld (wordAt (updHeader im) 0) 20 12
def imTabs (im : List Byte) : Nat := fld (wordAt (updHeader im) 0) 16 4
def imUpds (im : List Byte) : Nat := fld (wordAt (updHeader im) 0) 0 11
def imWins (im : List Byte) : Nat := fld (wordAt (updHeader im) 1) 28 4
def tabOff (im : List Byte) : Nat := 64 + 16 * imWins im
def updOff (im : List Byte) : Nat := tabOff im + 256 * imTabs im
def winWords (im : List Byte) (i : Nat) : List Word := wordsOf 4 ((imBytes im 0x0C).drop (64 + 16 * i))
def tabWords (im : List Byte) (i : Nat) : List Word := wordsOf 64 ((imBytes im 0x0C).drop (tabOff im + 256 * i))
def uRec (im : List Byte) (i : Nat) : List Word := wordsOf 16 ((imBytes im 0x0C).drop (updOff im + 64 * i))

/-- The refusal of a place in the UPDATE section. -/
def updAt (im : List Byte) (off : Nat) (st : Option Nat) : Option LoadFail := fieldFail 0x0C (imOff im 0x0C + off) st

/-- CVID names an object whose ARRS reach the tile count (R364). -/
def cvidFail (im : List Byte) : Option LoadFail :=
  if (imSect im 0x0C).isNone then none
  else updAt im 0 (firstBad
    [(!(syncsOf im).any (fun w => decide (yVid w = imCvid im ∧ imTiles im ≤ yArrs w)), sParam)])

/-- A decay factor lies in [0, 1). -/
def decayOk (w : Word) : Bool := decide (w.toNat < 0x3F800000 ∨ w = 0x80000000)

/-- The logical tiles that take part in the update. -/
def updTiles (im : List Byte) : List Nat :=
  (List.range (imTiles im)).filter fun lt => (List.range (imUpds im)).any fun i =>
    let w := uRec im i
    decide (uTile0 w ≤ lt ∧ lt < uTile0 w + uNt w)

/-- The header (R373, R376). -/
def updHeaderFail (im : List Byte) : Option LoadFail :=
  let w := updHeader im
  let jlog := fld (wordAt w 1) 23 5
  let stage := fld (wordAt w 1) 0 23
  updAt im 0 (firstBad
    [(decide (imTabs im = 0 ∨ 4 < imTabs im ∨ imUpds im = 0 ∨ 1024 < imUpds im ∨ 8 < imWins im ∨
        (imBytes im 0x0C).length ≠ updOff im + 64 * imUpds im), sLen),
     (decide (fld (wordAt w 0) 11 5 ≠ 0 ∨ fld (wordAt w 3) 16 16 ≠ 0 ∨ fld (wordAt w 5) 16 16 ≠ 0 ∨ jlog < 4 ∨ 20 < jlog ∨
        stage % 4096 ≠ 0 ∨ oAddr w 2 % 64 ≠ 0 ∨ oAddr w 4 % 64 ≠ 0) || (List.range 6).any (fun j => decide (wordAt w (10 + j) ≠ 0)) ||
        !decayOk (wordAt w 7) || !decayOk (wordAt w 8), sParam),
     ((updTiles im).any (fun lt => !inBound (sBoundOf im lt - 64) stage 0x10000) ||
        decide (imVlim im < oAddr w 2 + 64 * 2 ^ jlog ∨ ((wordAt w 6).toNat ≠ 0 ∧ imVlim im < oAddr w 4 + (wordAt w 6).toNat * 65536)),
      sBound)])

/-- A window (R374). -/
def winFail (im : List Byte) (i : Nat) : Option LoadFail :=
  let w := winWords im i
  let n := (wordAt w 2).toNat
  updAt im (64 + 16 * i) (firstBad
    [(decide (n = 0), sLen),
     (decide (n % 64 ≠ 0 ∨ oAddr w 0 % 64 ≠ 0 ∨ fld (wordAt w 1) 16 16 ≠ 0 ∨ fld (wordAt w 3) 1 31 ≠ 0), sParam),
     (decide (imVlim im < oAddr w 0 + n), sBound)])

/-- An entry of a coefficient table (R377): those up to the first without VALID. -/
def coefFail (im : List Byte) (t j : Nat) : Option LoadFail :=
  let tab := tabWords im t
  let w := wordAt tab (4 * j)
  let live := (List.range (j + 1)).all fun k => bit (wordAt tab (4 * k)) 31
  let dst := fld w 28 3
  let moms := ((List.range (imUpds im)).map (uRec im)).filter fun e => decide (uTab e = t)
  updAt im (tabOff im + 256 * t + 16 * j) (firstBad
    [(live && (decide (dst = 0 ∨ 2 ≤ fld w 20 2 ∨ 5 ≤ fld w 13 3 ∨ fld w 0 13 ≠ 0) ||
        moms.any fun e => decide ((dst = 2 ∧ uNmom e < 1) ∨ (dst = 3 ∧ uNmom e < 2))), sParam)])

/-- An update entry (R375, R376), against the entries before it. -/
def updFail (im : List Byte) (i : Nat) : Option LoadFail :=
  let w := uRec im i
  let x := tensorWords im (uTensor w)
  let n := uNent w
  let past := fun (va bytes : Nat) => decide (imVlim im < va + bytes)
  updAt im (updOff im + 64 * i) (firstBad
    [(decide (uNt w = 0 ∨ 1536 < uNt w ∨ n = 0), sLen),
     (decide (fld (wordAt w 0) 10 8 ≠ 0 ∨ fld (wordAt w 1) 27 5 ≠ 0 ∨ fld (wordAt w 1) 11 5 ≠ 0 ∨ wordAt w 14 ≠ 0 ∨ wordAt w 15 ≠ 0 ∨
        uNmom w = 3 ∨ imTabs im ≤ uTab w ∨ imTensors im ≤ uTensor w ∨ nUpd x = false ∨ n % (128 * uNt w) ≠ 0 ∨
        uCopyBytes w ≠ nShb x) ||
        [4, 6, 8, 10].any (fun j => decide (fld (wordAt w j) 16 16 ≠ 0)) || !([1, 3, 4, 5, 6, 7, 8, 9, 10].contains (uCfmt w)) ||
        (List.range i).any (fun j => decide (uTensor (uRec im j) = uTensor w)), sParam),
     (decide (imTiles im < uTile0 w + uNt w) || past (oAddr w 3) (n * uGw w) || past (oAddr w 5) (4 * n) ||
        (decide (1 ≤ uNmom w) && past (oAddr w 7) (n * uMw w)) || (decide (uNmom w = 2) && past (oAddr w 9) (n * uMw w)), sBound)])

/-- The update section (R376). -/
def updateFail (im : List Byte) : Option LoadFail :=
  if (imSect im 0x0C).isNone then none
  else
    let lacks := (List.range (imTensors im)).any fun i =>
      nUpd (tensorWords im i) && !(List.range (imUpds im)).any fun j => decide (uTensor (uRec im j) = i)
    firstFail (updHeaderFail im :: ((List.range (imWins im)).map (winFail im) ++
      (List.range (imTabs im)).flatMap (fun t => (List.range 16).map (coefFail im t)) ++ (List.range (imUpds im)).map (updFail im) ++
      [updAt im 0 (firstBad [(lacks, sParam)])]))

/-- The update section as state. -/
def updateOf (im : List Byte) : Option UpdSection :=
  if (imSect im 0x0C).isNone then none
  else some
    { header := updHeader im
      windows := (List.range (imWins im)).map fun i =>
        let w := winWords im i
        (oAddr w 0, (wordAt w 2).toNat, fld (wordAt w 3) 0 1)
      tables := (List.range (imTabs im)).map (tabWords im)
      entries := (List.range (imUpds im)).map (uRec im) }

/-! ### Orders 8 and 9 (R468) -/

/-- The SIG section's reserved bytes and key slots (R594). -/
def sigFail (im : List Byte) : Option LoadFail :=
  let b := imBytes im 0x0E
  fieldFail 0x0E (imOff im 0x0E) (firstBad [(decide (leAt b 2 2 ≠ 0 ∨ 3 < byteAt b 0 ∨ 3 < byteAt b 1) ||
    (!imEnc im && decide (byteAt b 1 ≠ 0)), sParam)])

/-- Order 8: the sections in ascending TYPE order; COLL and UPDATE are checked whole by R324 and R376. -/
def sectionsFail (im : List Byte) (hosts : List (Nat × Nat)) : Option LoadFail :=
  firstFail [millsFail im, tilesFail im, regionsFail im hosts, eachEntry im 0x06 16 (syncStatus im), eachEntry im 0x07 16 (chanStatus im),
    eachEntry im 0x08 32 (ringStatus im), eachEntry im 0x09 8 (bindStatus im), guardFail im, sigFail im]

/-- Order 9: the rules across sections. -/
def Dev.crossFail (d : Dev) (c : Nat) (im : List Byte) : Option LoadFail :=
  firstFail ((List.range (guardOf im).entries.length).map (guardClash im) ++
    [eachEntry im 0x07 16 (chanClash im), eachEntry im 0x06 16 (domainClash im), d.collFail im, d.ovlFail c im, cvidFail im,
     updateFail im])

end Sys2Proof.Machine
end

