-- ==== Sys2Proof/Machine/Place.lean ====
section
/-!
DEFINITION. What the loader does once an image has passed its checks (R464, R465, R470): HBM allocations and translation
tables, the binding of mills, the homes of sync objects (R233, R251), and the tiles' state.
-/
namespace Sys2Proof.Machine

/-! ### HBM (R464) -/

/-- The lowest multiple of `align` from which `size` bytes below `limit` are free. -/
def findFree (taken : List (Nat × Nat)) (align size limit : Nat) : Option Nat :=
  let cands := 0 :: taken.map fun t => alignUp align (t.1 + t.2)
  let ok := cands.filter fun a =>
    decide (a + size ≤ limit) && taken.all fun t => decide (a + size ≤ t.1 ∨ t.1 + t.2 ≤ a)
  ok.min?

/-- Allocate one after another. -/
def allocAll (limit : Nat) : (taken : List (Nat × Nat)) → List (AllocKind × Nat × Nat) → Option (List Alloc)
  | _, [] => some []
  | taken, (kind, align, size) :: rest =>
    match findFree taken align size limit with
    | none => none
    | some a => (allocAll limit (taken ++ [(a, size)]) rest).map ({ kind := kind, start := a, size := size } :: ·)

/-- The numbers of the blocks of 2^`sh` bytes that regions reach, ascending. -/
def blocksOf (sh : Nat) (rs : List (Nat × Nat)) : List Nat :=
  ((rs.flatMap fun r => (List.range (ceilDiv (r.1 + r.2) (2 ^ sh) - r.1 / 2 ^ sh)).map (r.1 / 2 ^ sh + ·)).mergeSort).eraseDups

/-- The tables of a context as (level, the part of the virtual address that selects the table), in the order in which they
lie in their allocation (R278). -/
def tableKeys (rs : List (List Word)) : List (Nat × Nat) :=
  let all := rs.map fun w => (gVa w, gSize w)
  let small := (rs.filter fun w => decide (gPage w = 0x10000)).map fun w => (gVa w, gSize w)
  (1, 0) :: ((blocksOf 39 all).map (2, ·) ++ (blocksOf 30 all).map (3, ·) ++ (blocksOf 21 small).map (4, ·))

/-- The allocations of an image, in order (R464). -/
def allocList (im : List Byte) : List (AllocKind × Nat × Nat) :=
  let up := alignUp 65536
  let rs := regionsOf im
  (.image, 65536, up im.length) :: ((rs.filter fun w => !gHost w).map fun w => (.region, gPage w, gSize w)) ++
    [(.tables, 65536, up (4096 * (tableKeys rs).length))] ++
    (if imPreempt im then [(.save, 65536, imMills im * 52625408 + 1048576)] else [])

/-- The allocations of a kind. -/
def ImageCtx.allocsOf (i : ImageCtx) (k : AllocKind) : List Alloc := i.allocs.filter fun a => decide (a.kind = k)

/-- Where each region leads: its device address, or the PCIe address of its host table entry (R463). -/
def regionPlaces (allocs : List Alloc) (hosts : List (Nat × Nat)) : List (List Word) → List (List Word × Nat)
  | [] => []
  | w :: rest =>
    if gHost w then (w, (hosts.getD (gHostIx w) (0, 0)).1) :: regionPlaces allocs hosts rest
    else (w, (allocs.headD { kind := .region, start := 0, size := 0 }).start) :: regionPlaces (allocs.drop 1) hosts rest

/-- The leaf of the page at `va`, if a region covers it (R279). -/
def leafAt (places : List (List Word × Nat)) (page va : Nat) : Option Nat :=
  (places.find? fun x => decide (gPage x.1 = page ∧ gVa x.1 ≤ va ∧ va < gVa x.1 + gSize x.1)).map fun x =>
    x.2 + (va - gVa x.1) + (if gHost x.1 then 16 else 0) + (if gW x.1 then 8 else 0) + (if page = 0x10000 then 4 else 2) + 1

/-- The entry `e` of the table `k` of a level: a leaf, a pointer to the next table, or 0 (R278, R279). -/
def tableEntry (keys : List (Nat × Nat)) (places : List (List Word × Nat)) (base level k e : Nat) : Nat :=
  let ptr := fun (n : Nat) => match keys.findIdx? (· = (level + 1, n)) with
    | some j => base + 4096 * j + 1
    | none => 0
  if level = 4 then (if e < 32 then (leafAt places 0x10000 (k * 2 ^ 21 + e * 2 ^ 16)).getD 0 else 0)
  else if level = 3 then (leafAt places 0x200000 ((k * 512 + e) * 2 ^ 21)).getD (ptr (k * 512 + e))
  else ptr (k * 512 + e)

/-- The bytes of every table of a context. -/
def tableBytes (keys : List (Nat × Nat)) (places : List (List Word × Nat)) (base : Nat) : List Byte :=
  keys.flatMap fun (level, k) => (List.range 512).flatMap fun e => bytesOf 8 (tableEntry keys places base level k e)

/-- The bytes that INIT gives a region (R463). -/
def initBytes (im : List Byte) (w : List Word) : List Byte :=
  if gInit w = 1 then List.replicate (gSize w) 0
  else if gInit w = 2 then
    let x := ((imBytes im 0x05).drop (gOff w)).take (gLen w)
    x ++ List.replicate (gSize w - x.length) 0
  else []

/-- Write HBM and the translation registers (R470, steps 2 and 3), whole words of each (R463, R506). -/
def Dev.placeHbm (d : Dev) (c : Nat) (im : List Byte) : Dev :=
  let i := d.img c
  let places := regionPlaces (i.allocsOf .region) i.hosts (regionsOf im)
  let copy := (i.allocsOf .image).headD { kind := .image, start := 0, size := 0 }
  let tabs := (i.allocsOf .tables).headD { kind := .tables, start := 0, size := 0 }
  let d := d.writeWords 13 copy.start (im ++ List.replicate (copy.size - im.length) 0)
  let d := places.foldl (fun d x => if gHost x.1 then d else d.writeWords 13 x.2 (initBytes im x.1)) d
  let d := d.writeWords 13 tabs.start (tableBytes (tableKeys (regionsOf im)) places tabs.start)
  let d := (d.setReg (at1 Reg.SLC_PTBc_LO 8 c) (loWord tabs.start)).setReg (at1 Reg.SLC_PTBc_HI 8 c) (hiWord tabs.start)
  (d.setReg (at1 Reg.SLC_VLIMc_LO 8 c) (loWord (imVlim im))).setReg (at1 Reg.SLC_VLIMc_HI 8 c) (hiWord (imVlim im))

/-! ### Mills (R465) -/

/-- The mills the loader binds for a context that needs `n`: the lowest enabled ones that no other context holds. -/
def Dev.chooseMills (d : Dev) (c n : Nat) : Option (List Nat) :=
  let ms := ((d.setImg c { d.img c with mills := [] }).freeMills).take n
  if ms.length = n then some ms else none

/-- A mill is bound: its cores, queues and sequencers are as after reset, its base die's PLL runs, and its clock is gated
until a context runs (R100, R138, R541, R542). Every slot word is written, the first of them with an armed flip mask (R507, R511). The
channel tables are kept for their counters until the image's replace them
(R15). -/
def Dev.bindMill (d : Dev) (p : Nat) : Dev :=
  let d := (List.range 8).foldl (fun d k =>
    let t := p * 8 + k
    (d.setTile t { Tile.reset with chans := (d.tile t).chans }).setSeq t XSeq.reset) d
  let d := (List.range 32).foldl (fun d q => d.setQueue (p * 32 + q) (d.queue (p * 32 + q)).fresh) d
  let d := ((d.setMill p Mill.reset).flipSlot p 13 0).setClk p { MillClk.reset with gate := .g2, idleSince := some d.cycle }
  let b := baseDie p
  { d with
    ecc := { d.ecc with slotUe := d.ecc.slotUe.filter fun e => decide (e.1 ≠ p) }
    gov := { d.gov with
      pll := if d.gov.pll.contains b then d.gov.pll else d.gov.pll ++ [b]
      pllIdle := d.gov.pllIdle.filter fun e => decide (e.1 ≠ b) } }

/-- Bind the context's logical mills to these physical mills; mills it held and does not keep are unbound. -/
def Dev.bindMills (d : Dev) (c : Nat) (ms : List Nat) : Dev :=
  let old := (d.img c).mills.filter fun p => decide (p < 216) && !ms.contains p
  let d := old.foldl Dev.resetMill d
  let d := d.setImg c { d.img c with mills := ms }
  let d := old.foldl Dev.unbound d
  let d := ms.zipIdx.foldl (fun d (p, l) => d.setMap c l p) d
  ms.foldl Dev.bindMill d

/-! ### Sync objects (R233, R236, R251) -/

/-- The sync unit of a level that holds a mill, as its first counter and their number (R232; log 44). -/
def unitRange (level p : Nat) : Nat × Nat :=
  if level = 0 then (32 * p, 32)
  else if level = 1 then (6912 + 128 * (p / 9), 128)
  else if level = 2 then (9984 + 512 * baseDie p, 512)
  else (14080, 2304)

/-- The lowest level whose unit holds every mill of a list. -/
def lowestLevel (ms : List Nat) : Nat :=
  ((List.range 3).find? fun v => ms.all fun p => decide (unitRange v p = unitRange v (ms.headD 0))).getD 3

/-- The home of an object: the lowest free counter of its unit, or of the next level up that has one (R233). -/
def Dev.findHome (d : Dev) (ms : List Nat) (level : Nat) : Option (Nat × Nat) :=
  ((List.range 4).drop level).findSome? fun v =>
    let (a, n) := unitRange v (ms.headD 0)
    ((List.range n).find? fun k => decide ((d.obj (a + k)).state = .free)).map fun k => (v, a + k)

/-- The level at which an object is homed. -/
def Dev.homeLevel (d : Dev) (c : Nat) (o : SyncObj) : Nat × List Nat :=
  let ms := ((d.img c).mills.drop o.millLo).take (o.millHi + 1 - o.millLo)
  (if o.domain || o.shared then 3 else lowestLevel ms, ms)

/-- Write a translation entry of a context. -/
def Dev.setXlat (d : Dev) (c vid phys : Nat) (shared : Bool) : Dev :=
  d.setReg (Reg.SYNC_XLATc_v + 0x4000 * c + 4 * vid) (packed [(1, 31), (b2n shared, 30), (phys, 0)])

/-- Place an object in its home under the present binding; the events it holds are counted there (R254). -/
def Dev.placeObj (d : Dev) (c : Nat) (o : SyncObj) : Option Dev :=
  let (level, ms) := d.homeLevel c o
  (d.findHome ms level).map fun (v, p) =>
    (d.setObj p { o with level := v, ictx := c, held := o.held.map fun e => { e with phys := p } }).setXlat c o.vid p o.shared

/-- The object that an entry of the sync section describes (R236). -/
def objOf (w : List Word) : SyncObj :=
  { SyncObj.free with
    state := .idle, host := yHost w, shared := yShared w, domain := yDomain w, notify := yNotify w, vec := yVec w, vid := yVid w
    sigs := ySigs w, arrs := yArrs w, millLo := yLo w, millHi := yHi w, key := wordAt w 3 }

/-- The shared object of another context that holds a key. -/
def Dev.sharedBy (d : Dev) (c : Nat) (key : Word) : Option (Nat × SyncObj) :=
  d.objs.find? fun e => decide (e.2.state ≠ .free ∧ e.2.shared = true ∧ e.2.key = key ∧ e.2.ictx ≠ c)

/-- Load the sync section; where it fails, the code and the entry (R468, order 10). -/
def Dev.placeSyncs (d : Dev) (c : Nat) (im : List Byte) : Dev × Option (Nat × Nat) :=
  (syncsOf im).zipIdx.foldl (fun (d, bad) (w, i) =>
    if bad.isSome then (d, bad)
    else match (if yShared w then d.sharedBy c (wordAt w 3) else none) with
      | some (p, o) =>
        if d.owner o.ictx ≠ d.owner c then (d, some (rShare, i))
        else ((d.setObj p { o with mapped := o.mapped ++ [(c, yVid w)] }).setXlat c (yVid w) p true, none)
      | none => match d.placeObj c (objOf w) with
        | some d => (d, none)
        | none => (d, some (rSync, i))) (d, none)

/-- The objects a context owns that are homed below the package unit, in ascending virtual ID (R233). -/
def Dev.lowObjs (d : Dev) (c : Nat) : List SyncObj :=
  (((d.owned c).map d.obj).filter fun o => decide (o.level ≠ 3)).mergeSort fun a b => a.vid ≤ b.vid

/-- Free the counters that a context owns below the package unit. -/
def Dev.freeLow (d : Dev) (c : Nat) : Dev :=
  ((d.owned c).filter fun p => decide ((d.obj p).level ≠ 3)).foldl (fun d p => d.setObj p SyncObj.free) d

/-- Give a list of objects their homes under the present binding; none where the pools are exhausted. -/
def Dev.placeObjs (d : Dev) (c : Nat) (os : List SyncObj) : Option Dev :=
  os.foldl (fun r o => r.bind fun d => d.placeObj c o) (some d)

/-! ### Tiles (R461, R486) -/

/-- TILE_TRAP_VEC that the image gives a logical tile (R461). -/
def tvecOf (im : List Byte) (lt : Nat) : Nat :=
  match (tileRecs im).find? fun w => decide (tKind w = 5 ∧ tTile w = lt) with
  | some w => tArg w 1
  | none => 0

/-- A hardware context with the BASE, BOUND and PC it is given, and every other register as in R632. -/
def freshCtx (base bound pc : BitVec 23) : Ctx := { Ctx.reset with base := base, bound := bound, pc := pc }

/-- The size of the ring that a channel writes: that of the destination's ring, and for another device's the one the same
image gives that tile (log 97). -/
def chanSize (im : List Byte) (w : List Word) : Nat :=
  match (ringsOf im).reverse.find? fun r => decide (eTile r = hTile w ∧ eNum r = hNum w) with
  | some r => gRingSize r
  | none => 256

/-- A channel as loaded (R257, R259, R263). -/
def chanOf (im : List Byte) (w : List Word) : Channel :=
  let size := if hRing w then chanSize im w else 0
  { ring := hRing w, remote := hRemote w, num := hNum w, dtile := hTile w, dfa := hDfa w
    state := if hValid w then .opened else .invalid, credit := if hRing w then 0 else 32, size := size, wr := 0, freed := 0
    seq := 0, msgs := 0, stalls := 0, drop := 0 }

/-- A receive ring as loaded (R261). -/
def ringOf (w : List Word) : Ring :=
  { size := gRingSize w, base := gRingBase w, ctrl := gRingCtrl w, wr := 0, freed := 0, closed := false, records := [],
    remote := none, src := 0, part := 0, payload := 0 }

/-- A tile as the image describes it. -/
def tileOf (im : List Byte) (lt : Nat) : Tile :=
  let cx := fun (k : Nat) =>
    let x := ctxOf im lt k
    freshCtx (BitVec.ofNat 23 x.1) (BitVec.ofNat 23 x.2.1) (BitVec.ofNat 23 x.2.2)
  let chans := (chansOf im).filter fun w => decide (eTile w = lt)
  let rings := (ringsOf im).filter fun w => decide (eTile w = lt)
  { Tile.reset with
    ctx := Vector.ofFn fun (k : Fin 4) => cx k.val
    trapVec := BitVec.ofNat 23 (tvecOf im lt)
    bindings := ((bindsOf im).filter fun w => decide (eTile w = lt)).map fun w => { kind := nKind w, num := nNum w, vid := nVid w }
    chans := chans.foldl (fun t w => Tab.put t (eNum w) (chanOf im w)) []
    rings := rings.foldl (fun t w => Tab.put t (eNum w) (ringOf w)) [] }

/-- A channel or ring takes its message counters over from before a restart (R486 names SEQ, WR, FREED and credits). -/
def keepCounts (old new : Tab Channel) : Tab Channel :=
  new.map fun (n, x) => match Tab.find old n with
    | some y => (n, { x with msgs := y.msgs, stalls := y.stalls, drop := y.drop })
    | none => (n, x)

/-- Write a context's tiles: channels, rings and their control words, bindings, contexts, and the bytes of TILES (R461,
R470), written as whole words (R506). -/
def Dev.placeTiles (d : Dev) (c : Nat) (im : List Byte) : Dev :=
  let tiles := (List.range (imTiles im)).filterMap fun lt => (d.physical c lt).map fun t => (lt, t)
  let d := tiles.foldl (fun d (lt, t) =>
    let tl := tileOf im lt
    let d := d.setTile t { tl with chans := keepCounts (d.tile t).chans tl.chans }
    tl.rings.foldl (fun d r => d.writeWords 13 (ctxAddr t (d.ctx t 0) r.2.ctrl) (List.replicate 8 0)) d) d
  (tileRecs im).foldl (fun d w =>
    match d.physical c (tTile w) with
    | some t =>
      if tKind w = 2 ∨ tKind w = 3 then d.writeWords 13 (tileAddr t ((ctxOf im (tTile w) (tCtx w)).1 + tArg w 1)) (tileData im w) else d
    | none => d) d

end Sys2Proof.Machine
end

