-- ==== Sys2Proof/Machine/HostCmd.lean ====
section
/-!
DEFINITION. The commands of an image context's ring and the forced operations (R449 to R451, R472 to R492): fetching, LOAD,
START and restart, STOP, UNLOAD.
-/
namespace Sys2Proof.Machine

/-! ### Fetching (R473, R474, R478) -/

/-- A reserved word or bit of a command is not 0, or its OP is reserved (R473). -/
def cmdBad (ws : List Word) : Bool :=
  let w := fun (i : Nat) => wordAt ws i
  let op := fld (w 0) 0 8
  let rest := fun (a : Nat) => (ws.drop a).any (· ≠ 0)
  decide (fld (w 0) 8 8 ≠ 0) ||
    (if op = 0 ∨ 7 < op then true
     else if op = 1 then decide (fld (w 1) 1 31 ≠ 0) || rest 8
     else if op = 3 then decide (fld (w 1) 1 31 ≠ 0) || rest 2
     else rest 1)

/-- A count of LOAD's operands that is out of range (R21, R26, R473). -/
def loadLenBad (ws : List Word) : Bool := decide (wordAt ws 4 = 0 ∨ 64 < (wordAt ws 7).toNat)

/-- A LOAD refused for its operands, or by Skeop's mode: refusal code 0, and event 0x8001 (R494, R568; log 99). -/
def Dev.loadOdd (d : Dev) (c status : Nat) : Dev := (d.event 0x8001 c 0 0 0).complete c status

/-- A command with a reserved OP completes with ERR_PARAM; the words of its completion are free (log 108). -/
def Dev.completeOdd (d : Dev) (c : Nat) (ws : List Word) : Dev :=
  let f := fun (k : Nat) => (Config.freeWord (d.freeIx + k)).toNat
  let tail := (List.range 8).map fun k => Config.freeWord (d.freeIx + 4 + k)
  let d' : Dev := { d with freeIx := d.freeIx + 12 }
  (d'.setImg c { d'.img c with cmd := none, wait := .none, busy := false }).post c
    (cplWords (fld (wordAt ws 0) 16 16) (fld (wordAt ws 0) 0 8) sParam (f 0) (f 1) (f 2) (f 3) tail)

/-- The command ring has an entry to fetch, and nothing of the context's earlier commands is outstanding (R474). -/
def Dev.mayFetch (d : Dev) (c : Nat) : Bool :=
  let cfg := d.reg (hostReg Reg.HST_CMD_CFG c)
  let idx := d.reg (hostReg Reg.HST_CMD_IDX c)
  let i := d.img c
  decide (d.stage = .ready) && bit cfg 31 && !i.cmdStop && decide (fld idx 16 16 ≠ fld idx 0 16) && i.cmd.isNone && !i.busy &&
    !(i.waiting.any fun ws => decide (fld (wordAt ws 0) 8 8 < 0xF0))

/-- Fetch the next command. A PCIe error stops the ring (R478); NOP and malformed commands complete at once. -/
def Dev.cmdFetch (d : Dev) (c : Nat) (entry : Option (List Word)) : Dev :=
  if !d.mayFetch c then d
  else
    let cons := d.regFld (hostReg Reg.HST_CMD_IDX c) 16 16
    match entry with
    | none =>
      let d := d.setFld (hostReg Reg.HST_CMD_CFG c) 30 1 1
      let d := d.setImg c { d.img c with cmdStop := true }
      (d.hostError cons 0 (d.owner c) c 1 sFault).event 0x8008 c 1 cons sFault
    | some e =>
      let ws := (List.range 16).map (wordAt e)
      let op := fld (wordAt ws 0) 0 8
      let d := d.setFld (hostReg Reg.HST_CMD_IDX c) 16 16 ((cons + 1) % 2 ^ 16)
      let d := d.setImg c { d.img c with cmd := some ws }
      if op = 0 ∨ 7 < op then d.completeOdd c ws
      else if cmdBad ws then (if op = 1 then d.loadOdd c (if loadLenBad ws then sLen else sParam) else d.complete c sParam)
      else if op = 7 then d.complete c sOk
      else d

/-- The command that the ring has fetched and not taken up yet, where its OP is `op`. LOAD, START, PREEMPT and RESUME wait
until the module is neither parking nor parked (R561). -/
def Dev.command (d : Dev) (c op : Nat) : Option (List Word) :=
  let i := d.img c
  if i.wait ≠ .none ∨ i.busy ∨ (op ∈ [1, 2, 4, 5] ∧ d.park.stage ≠ .run) then none
  else i.cmd.filter fun ws => decide (fld (wordAt ws 0) 0 8 = op)

/-! ### LOAD (R468 to R471) -/

/-- What reading the operands of a LOAD gives: the image and the host table, or the status of SOURCE, or a refusal of the
operands themselves. -/
inductive Source where
  | ok (im : List Byte) (hosts : List (Nat × Nat))
  | fail (status : Nat)
  | operands (status : Nat)
  deriving DecidableEq, Repr

/-- The entries of a host table (R473). -/
def hostTable (n : Nat) (bs : List Byte) : List (Nat × Nat) :=
  (List.range n).map fun i => (leAt bs (16 * i) 8, leAt bs (16 * i + 8) 8)

/-- Order 1: read the image and the host table. `image` and `hosts` are what PCIe reads of them bring, none where they fail. A
word of the image that HBM cannot deliver gives one of SOURCE's two statuses (log 99). -/
def Dev.loadSource (d : Dev) (ws : List Word) (image hosts : Option (List Byte)) : Dev × Source :=
  let len := (wordAt ws 4).toNat
  let at_ := (wordAt ws 2).toNat + (wordAt ws 3).toNat * 2 ^ 32
  let n := (wordAt ws 7).toNat
  if loadLenBad ws then (d, .operands sLen)
  else if (wordAt ws 5).toNat % 16 ≠ 0 then (d, .operands sParam)
  else
    let (d, im) : Dev × (Nat ⊕ List Byte) :=
      if bit (wordAt ws 1) 0 then (d, match image with
        | some bs => .inr ((bs ++ List.replicate (len - bs.length) 0).take len)
        | none => .inl sFault)
      else if !d.inHbm at_ len then (d, .inl sBound)
      else
        let r := d.read 13 at_ len
        match r.bytes with
        | some bs => (r.dev, .inr bs)
        | none => (r.dev.draw, .inl (if Config.freeBool r.dev.freeIx then sBound else sFault))
    match im with
    | .inl st => (d, .fail st)
    | .inr im =>
      if n = 0 then (d, .ok im [])
      else match hosts with
        | some bs => (d, .ok im (hostTable n bs))
        | none => (d, .fail sFault)

/-- The image signed, decrypted and patched, or the failure of orders 2 to 9, with the hash the signature covers. -/
def loadChecked (k : Skeop) (d : Dev) (c : Nat) (im : List Byte) (hosts : List (Nat × Nat)) : Except LoadFail (List Byte × List Byte) :=
  let len := im.length
  match headerFail im len with
  | some f => .error f
  | none =>
    match sigSect im len with
    | none => .error ((tableFail im len).getD { code := rSection, status := sParam, type := 0x0E, off := 64 })
    | some sig =>
      if !k.imageVerifies im sig then .error { code := rSignature, status := sPerm, type := 0x0E, off := sig.off }
      else match k.decrypt im sig with
        | none => .error { code := rDecrypt, status := sPerm, type := 0x0E, off := sig.off }
        | some plain =>
          match firstFail [tableFail plain len, capsFail plain, patchFail plain] with
          | some f => .error f
          | none =>
            let p := d.patched c plain
            match firstFail [sectionsFail p hosts, d.crossFail c p] with
            | some f => .error f
            | none => .ok (p, imHash im sig)

/-- Order 10 and the placement (R468, R470): the device with the image loaded, or what is short. -/
def Dev.loadPlace (d : Dev) (c : Nat) (im : List Byte) (hosts : List (Nat × Nat)) (digest : List Byte) : Except LoadFail Dev :=
  let n := imMills im
  match d.chooseMills c n with
  | none => .error { code := rMills, status := sLen, type := 0x02, off := imOff im 0x02 }
  | some ms =>
    match allocAll d.hbmSize d.hbmTaken (allocList im) with
    | none => .error { code := rHbm, status := sLen, type := 0, off := 0 }
    | some allocs =>
      let i := d.img c
      let i' : ImageCtx := { i with
        state := .loaded, imageId := BitVec.ofNat 32 (leAt im 8 4), nmills := n, preempt := imPreempt im, allocs := allocs
        hosts := hosts, digest := digest, lost := [], exited := [], saved := none }
      match ((d.setImg c i').bindMills c ms).placeSyncs c im with
      | (_, some (code, e)) => .error { code := code, status := if code = rShare then sPerm else sLen, type := 0x06, off := imAt im 0x06 16 e }
      | (d, none) => .ok d

/-- The memory key of an encrypted context (R597). -/
def Dev.newMemKey (d : Dev) (c : Nat) : Dev :=
  if bit (d.reg Reg.SKP_MEMENC) c then
    let d' := d.setImg c { d.img c with memKey := some d.freeIx }
    d'.draw.event 0xA009 c 1 0 0
  else d

/-- The rest of R470: HBM and translation, the guard, collective and update state, and the tiles with the rung array (R189). The
step number, step size and seed stay as the host has written them. -/
def Dev.loadWrite (d : Dev) (c : Nat) (im : List Byte) : Dev :=
  let d := ((d.newMemKey c).placeHbm c im).setGuard c (guardOf im)
  let s := d.stepOf c
  let d := (d.setColl c (collOf im)).setStep c { Step.reset with
    section_ := updateOf im, eta := s.eta, etaPend := s.etaPend, seed := s.seed, seedPend := s.seedPend
    capRegion := s.capRegion, capPos := s.capPos, capBlocks := s.capBlocks }
  let d := d.placeTiles c im
  if (guardOf im).entries = [] then d else d.writeRungs c

/-- A LOAD in the EMPTY state, in a mode that allows it. -/
def Dev.loadNow (k : Skeop) (d : Dev) (c : Nat) (ws : List Word) (image hosts : Option (List Byte)) : Dev :=
  let refuse := fun (d : Dev) (f : LoadFail) =>
    (d.event 0x8001 c f.code f.type f.off).completeWith c f.status
      (f.code + (if f.code = rField then f.status * 2 ^ 8 else 0) + f.type * 2 ^ 16) f.off 0 0
  match d.loadSource ws image hosts with
  | (d, .operands st) => d.loadOdd c st
  | (d, .fail st) => refuse d { code := rSource, status := st, type := 0, off := 0 }
  | (d, .ok im hs) =>
    match loadChecked k d c im hs with
    | .error f => refuse d f
    | .ok (p, digest) =>
      match d.loadPlace c p hs digest with
      | .error f => refuse d f
      | .ok d =>
        let d := d.loadWrite c p
        let units := (((d.img c).allocs.map (·.size)).foldl (· + ·) 0) / 65536
        let n := (d.img c).nmills
        (d.event 0x8002 c (d.img c).imageId.toNat n units).completeWith c sOk 0 0 units n

/-- LOAD (R468 to R471, R482, R568). The first LOAD that is not refused takes Skeop from START-UP to OPERATIONAL (R567); a refused one
changes nothing of it (R469; log 169). -/
def State.load (s : State) (c : Nat) (image hosts : Option (List Byte)) : State :=
  match s.dev.command c 1 with
  | none => s
  | some ws =>
    if (s.dev.img c).state ≠ .empty then { s with dev := s.dev.complete c sPerm }
    else if s.sk.mode = .recovery then { s with dev := s.dev.loadOdd c sPerm }
    else
      let d := Dev.loadNow s.sk s.dev c ws image hosts
      if s.sk.mode = .startUp ∧ (d.img c).state = .loaded then
        { s with sk := { s.sk with mode := .operational }, dev := d.event 0xA004 0 1 0 0 }
      else { s with dev := d }

/-! ### START (R483, R486) -/

/-- The check of R72 for the contexts S of a context's tiles: the first status that refuses the start. -/
def Dev.imageStartStatus (d : Dev) (c : Nat) : Nat :=
  ((d.tilesOf c).findSome? fun t =>
    let x := d.ctx t 0
    if x.bound = 0 then some sLen else if 0x600000 < x.base.toNat + x.bound.toNat then some sBound else none).getD sOk

/-- The context starts: registers as in R632, the locks, S of every tile in RUN, and the first step's latches (R388, R483). -/
def Dev.started (d : Dev) (c : Nat) : Dev :=
  let d := (d.tilesOf c).foldl (fun d t =>
    let tl := d.tile t
    let cx := tl.ctx.map fun x => freshCtx x.base x.bound x.pc
    d.setTile t { tl with ctx := cx.set 0 { cx[0] with run := .run }, inh := false, trapQ := [], pre := none }) d
  let d := d.setImg c { d.img c with state := .running, locked := true, exited := [], halted := false, withheld := false }
  let d := ((d.tilesOf c).map (· / 8)).eraseDups.foldl Dev.stirMill d
  let d := d.setStep c { d.stepOf c with start := true }
  let d := (if d.rplState c = 1 then d.replayLatch c else d.stepLatch c).twinLatch c
  let d := d.setMeasure c { Measure.reset with boundary := d.globalNs }
  d.setFld (cmtReg c) 30 2 1

/-- An owned object at a restart: IDLE at phase 0, but a shared one stays BROKEN (R486). -/
def SyncObj.restarted (o : SyncObj) : SyncObj :=
  if o.shared then o
  else { o with
    state := .idle, phase := 0, sig := 0, arr := 0, ann := 0, crd := 0, waiters := [], held := [], heldDue := false, ready := []
    reported := false }

/-- What a restart gives back of the last commit (R193, R359, R383, R486). -/
def Dev.rollBack (d : Dev) (c : Nat) : Dev :=
  let g := d.guard c
  let d := d.setGuard c { g with noted := [], entries := g.entries.map fun e => { e with
    rung := e.rungKept, clean := e.cleanKept, elems := 0, sat := 0, ftz := 0, nan := 0 } }
  let k := d.coll c
  let d := d.setColl c { k with ops := k.ops.map CxOp.fresh, tensors := k.tensors.map Tensor.restored, heldDone := [] }
  let d : Dev := { d with
    cxRun := d.cxRun.filter fun e => decide (e.1 ≠ c), cxWait := d.cxWait.filter fun e => decide (e.1 ≠ c) }
  let s := d.stepOf c
  d.setStep c { Step.reset with
    section_ := s.section_, eta := s.eta, etaPend := s.etaPend, seed := s.seed, seedPend := s.seedPend, capRegion := s.capRegion
    capPos := s.capPos, capBlocks := s.capBlocks.filter (·.complete) }

/-- Packets and sync events of a context that are still on their way are dropped. -/
def Dev.dropFlight (d : Dev) (c : Nat) : Dev :=
  { d with
    race := d.race.filter fun p => decide (p.ictx ≠ c)
    syncFly := d.syncFly.filter fun e => decide (e.ictx ≠ c) }

/-- Change every object that a device holds. -/
def Dev.mapObjs (d : Dev) (f : SyncObj → SyncObj) : Dev := d.objs.foldl (fun d e => d.setObj e.1 (f (d.obj e.1))) d

/-- A waiter, or the tile of a held event, is the context's: its tile is bound to it, or it is away with it (R254). -/
def Dev.ownWait (d : Dev) (c t : Nat) (away : Option (Nat × Nat)) : Bool :=
  match away with
  | some (k, _) => decide (k = c)
  | none => decide ((d.binding (t / 8)).map (·.1) = some c)

/-- The waits of a context end: they leave the objects of every context, and their arrivals stand (R98, R240, R486, R487). -/
def Dev.dropWaits (d : Dev) (c : Nat) : Dev :=
  d.mapObjs fun o => { o with
    waiters := o.waiters.filter fun w => !d.ownWait c w.tile w.away
    held := o.held.map fun e => if (e.tile.map fun t => d.ownWait c t e.away).getD false then { e with waiter := none } else e }

/-- The objects that a restart homes again (R486): those homed below the package unit, and those that a pre-emption has saved before a
collective error stopped the context (log 203). -/
def Dev.homeless (d : Dev) (c : Nat) : List SyncObj :=
  (d.lowObjs c ++ (((d.img c).saved.map fun v => v.objs.map (·.2)).getD [])).mergeSort fun a b => a.vid ≤ b.vid

/-- START from STOPPED (R486): the context under a new binding, or the status that refuses it. -/
def Dev.restart (d : Dev) (c : Nat) : Dev × Nat :=
  let i := d.img c
  let copy := (i.allocsOf .image).headD { kind := .image, start := 0, size := 0 }
  if bit (d.reg (cmtReg c)) 29 then (d, sPerm)
  else
    let r := d.read 13 copy.start copy.size
    match r.bytes with
    | none => (r.dev, sUe)
    | some im =>
      let d := r.dev
      match d.chooseMills c i.nmills with
      | none => (d, sLen)
      | some ms =>
        match (((d.dropWaits c).freeLow c).bindMills c ms).placeObjs c (d.homeless c) with
        | none => (d, sLen)
        | some d' =>
          let d := (d'.dropFlight c).breakShared c
          let d := d.setImg c { d.img c with saved := none }
          let d := (d.owned c).foldl (fun d p => d.setObj p (d.obj p).restarted) d
          (((d.placeTiles c im).rollBack c).started c, sOk)

/-- START (R482, R483, R486). -/
def Dev.start (d : Dev) (c : Nat) : Dev :=
  match d.command c 2 with
  | none => d
  | some _ =>
    match (d.img c).state with
    | .empty | .preempted => d.complete c sPerm
    | .running => d.complete c sOk
    | .loaded => if d.imageStartStatus c = sOk then (d.started c).complete c sOk else d.complete c (d.imageStartStatus c)
    | .stopped =>
      let (d, st) := d.restart c
      d.complete c st

/-! ### STOP (R485) -/

/-- STOP. At a boundary whose release is withheld it takes effect at once; during a commit it waits for the boundary after it
(R367; log 100). -/
def Dev.stop (d : Dev) (c : Nat) : Dev :=
  match d.command c 3 with
  | none => d
  | some ws =>
    let i := d.img c
    match i.state with
    | .empty | .preempted => d.complete c sPerm
    | .stopped => d.complete c sOk
    | .loaded => (d.stopContext c 0x01 0xFFFF sOk true).complete c sOk
    | .running =>
      if !d.commitRuns c && (i.withheld || bit (wordAt ws 1) 0) then (d.stopContext c 0x01 0xFFFF sOk (!i.withheld)).complete c sOk
      else d.setImg c { i with wait := .stopAtBoundary }

/-! ### UNLOAD and forced operations (R449, R451, R487, R492) -/

/-- Registers at `n` offsets from `lo` on return to their reset values; nothing is held of their 64-bit pairs. -/
def Dev.resetRegs (d : Dev) (lo n : Nat) : Dev :=
  { d with
    regs := d.regs.filter fun e => decide (e.1 < lo ∨ lo + n ≤ e.1)
    halves := d.halves.filter fun e => decide (e.1 < lo ∨ lo + n ≤ e.1) }

/-- The per-context registers of a context (R487): tile map, translations, watchdog, store, collective and update registers. -/
def Dev.resetCtxRegs (d : Dev) (c : Nat) : Dev :=
  [(Reg.RACE_MAPc_w + 0x100 * c, 0x100), (Reg.SYNC_XLATc_v + 0x4000 * c, 0x4000), (at1 Reg.SYNC_WDOGc 4 c, 4),
   (at1 Reg.SLC_PTBc_LO 8 c, 8), (at1 Reg.SLC_VLIMc_LO 8 c, 8), (at1 Reg.SLC_FTMOc 4 c, 4), (at1 Reg.FLM_CX_TMOc 4 c, 4),
   (at1 Reg.FLM_CX_CTLc 4 c, 4), (0x391000 + 0x100 * c, 0x100)].foldl (fun d r => d.resetRegs r.1 r.2) d

/-- A ring command that waits for a boundary, or for the save of a pre-emption, completes with ERR_PERM (R492). -/
def Dev.cancelWait (d : Dev) (c : Nat) : Dev :=
  match (d.img c).wait with
  | .stopAtBoundary | .preemptAtBoundary | .quiesce | .saving => d.complete c sPerm
  | _ => d

/-- UNLOAD begins (R487): a running context stops, after a commit that runs (R367), and the zeroing starts. `how` is that of event
0x8006. A context that is EMPTY, or already being zeroed, is left as it is. -/
def Dev.beginUnload (d : Dev) (c how : Nat) : Dev :=
  let i := d.img c
  match i.state, i.wait with
  | .empty, _ => d
  | _, .zeroing _ => d
  | _, _ =>
    if i.state = .running && d.commitRuns c then d.stopLater c { cause := 0x02, force := decide (how = 1), unload := some how }
    else
      let d := if i.state = .running then d.stopContext c 0x02 0xFFFF sOk true else d
      d.setImg c { d.img c with busy := true, wait := .zeroing how }

/-- UNLOAD (R482). -/
def Dev.unload (d : Dev) (c : Nat) : Dev :=
  match d.command c 6 with
  | none => d
  | some _ =>
    match (d.img c).state with
    | .empty => d.complete c sOk
    | .running => d.complete c sPerm
    | _ => d.beginUnload c 0

/-- Zeroes over a mill's tile memories (R487, R532). -/
def Dev.zeroMill (d : Dev) (p : Nat) : Dev :=
  (List.range 8).foldl (fun d k => d.writeWords 13 (tileAddr (p * 8 + k) 0) (List.replicate tileSize 0)) d

/-- Free every counter a context owns, and unmap it from those of others (R487, R251). -/
def Dev.freeObjs (d : Dev) (c : Nat) : Dev :=
  let d := (d.owned c).foldl (fun d p => d.setObj p SyncObj.free) d
  d.objs.foldl (fun d e =>
    let o := d.obj e.1
    d.setObj e.1 { o with mapped := o.mapped.filter fun m => decide (m.1 ≠ c) }) d

/-- Every byte the context had is zero: everything is freed (R487, R506, R600). -/
def Dev.unloadDone (d : Dev) (c how : Nat) : Dev :=
  let i := d.img c
  let bound := i.mills.filter (· < 216)
  let d := (bound ++ i.lost).foldl Dev.zeroMill d
  let d := i.allocs.foldl (fun d a => d.writeWords 13 a.start (List.replicate a.size 0)) d
  let d := (((d.breakShared c).dropWaits c).freeObjs c).dropFlight c
  let d := bound.foldl Dev.resetMill d
  let i := d.img c
  let d := d.setImg c { ImageCtx.reset with cmdStop := i.cmdStop, cmd := i.cmd, waiting := i.waiting, phase := i.phase }
  let d := (bound.foldl Dev.unbound d).resetCtxRegs c
  let d := (((d.setGuard c Guard.empty).setColl c Coll.empty).setStep c Step.reset).setMeasure c Measure.reset
  let d := { d with
    xcache := d.xcache.filter fun x => decide (x.ictx ≠ c)
    cxRun := d.cxRun.filter fun e => decide (e.1 ≠ c)
    cxWait := d.cxWait.filter fun e => decide (e.1 ≠ c)
    park := { d.park with atPoint := d.park.atPoint.filter (· ≠ c) } }
  let d := if i.memKey.isSome then d.event 0xA009 c 0 0 0 else d
  let d := d.event 0x8006 c how 0 0
  if how = 0 then d.complete c sOk else if how = 1 then d.setFld Reg.LDR_FORCE 31 1 0 else d

/-- UNLOAD_COMPLETE (R487). -/
def Dev.unloadComplete (d : Dev) (c : Nat) : Dev :=
  match (d.img c).wait with
  | .zeroing how => d.unloadDone c how
  | _ => d

/-- A forced STOP (R492); one requested during a commit waits for the boundary after it (R367). -/
def Dev.forceStop (d : Dev) (c : Nat) : Dev :=
  let d := d.cancelWait c
  match (d.img c).state with
  | .running =>
    if d.commitRuns c then (d.stopLater c { cause := 0x02, force := true, unload := none }).setFld Reg.LDR_FORCE 31 1 1
    else d.stopContext c 0x02 0xFFFF sOk true
  | .loaded => d.stopContext c 0x02 0xFFFF sOk true
  | _ => d

/-- A forced UNLOAD (R492). LDR_FORCE stays BUSY until the context is EMPTY; where a ring's UNLOAD is zeroing it already, there is
nothing to force (log 104). -/
def Dev.forceUnload (d : Dev) (c : Nat) : Dev :=
  let d := (d.cancelWait c).beginUnload c 1
  if (d.img c).wait = .zeroing 1 ∨ (d.img c).due.bind (·.unload) = some 1 then d.setFld Reg.LDR_FORCE 31 1 1 else d

/-- The context page of a function that is reset (R493): its registers, its rings, and what they held. -/
def Dev.resetPage (d : Dev) (c : Nat) : Dev :=
  let d := d.resetRegs (0x100000 + 0x1000 * c) 0x1000
  d.setImg c { d.img c with cmdStop := false, cmd := none, waiting := [], phase := true }

/-- A function level reset takes a context away from its function (R451): no ring command is completed. -/
def Dev.flrContext (d : Dev) (c how : Nat) : Dev :=
  let i := d.img c
  let d := d.setImg c { i with cmd := none, wait := match i.wait with
    | .zeroing n => .zeroing n
    | _ => .none }
  (d.beginUnload c how).resetPage c

/-- An FLR of a virtual function (R451). -/
def Dev.vfFlr (d : Dev) (v : Nat) : Dev := if 0 < v ∧ v ≤ d.numVf then d.flrContext (v - 1) 2 else d

/-- An FLR of the PF (R451): every context, VF Enable, and the shared host registers (R493). -/
def Dev.pfFlr (d : Dev) : Dev :=
  let d := (List.range 16).foldl (fun d c => d.flrContext c 2) d
  { (d.resetRegs 0x110000 0x1000).resetRegs Reg.LDR_FORCE 4 with numVf := 0 }

/-- VF Enable and NumVFs become such that `n` virtual functions exist (R449). -/
def Dev.vfChange (d : Dev) (n : Nat) : Dev :=
  let moved := (List.range 16).filter fun c => decide (c < n) != decide (c < d.numVf)
  { moved.foldl (fun d c => (d.cancelWait c).beginUnload c 3) d with numVf := n }

end Sys2Proof.Machine
end

