-- ==== Sys2Proof/Machine/PowerOps.lean ====
section
/-!
DEFINITION. Resets and supplies (R535 to R538, R617 to R624), the comparators and inputs of the Lehr domain (R538, R539, R555 to
R557, R615), and parking (R558 to R564).
-/
namespace Sys2Proof.Machine

/-! ### Fundamental reset (R498, R504, R523, R531, R535, R617, R623) -/

/-- What a fundamental reset leaves of Skeop: what the fuses and the NOR hold. A firmware update that it cuts off leaves its
slot unbootable (R623; log 118). -/
def Skeop.rebooted (k : Skeop) : Skeop :=
  let cut := fun (n : Nat) (f : FwSlot) => if k.updating ∧ k.slot ≠ n then { f with invalid := true } else f
  { Skeop.reset with
    owner := k.owner, fusedSvn := k.fusedSvn, slotA := cut 0 k.slotA, slotB := cut 1 k.slotB, active := k.active
    imgV := k.imgV, imgD := k.imgD }

/-- What it leaves of memory integrity: the NOR's maps, which start-up applies, and the HBM mode it brings into force. -/
def Ecc.rebooted (e : Ecc) : Ecc :=
  { Ecc.reset with
    hbmMode := e.hbmNext, hbmNext := e.hbmNext, hbmPend := e.hbmPend, norRows := e.norRows, norDies := e.norDies
    norFenced := e.norFenced }

/-- What it leaves of the park state: a module reset while it parks or is parked parks again (R620). -/
def Park.rebooted (p : Park) : Park :=
  { p with
    stage := if p.stage = .parked then .parking else p.stage
    atPoint := [], stopped := 0, begun := false }

/-- What it leaves of global time (R426). -/
def Dev.timeRebooted (d : Dev) : GTime := { GTime.reset with base := d.global1024, at_ := d.cycle }

/-- A register that a fundamental reset keeps: those of the Lehr domain (R535) and the recorder's counters (R606). -/
def keptReg (off : Nat) : Bool :=
  decide (0x400600 ≤ off ∧ off < 0x400620) || decide (off = Reg.EVR_LOST) || decide (off = Reg.EVR_COALESCED)

/-- The device after a fundamental reset (R617). -/
def Dev.rebooted (d : Dev) : Dev :=
  let e := d.evr.cut
  let d' : Dev := { Dev.reset with
    cycle := d.cycle, freeIx := d.freeIx, out := d.out, lehr := d.lehr, ecc := d.ecc.rebooted, park := d.park.rebooted
    evr := e, regs := d.regs.filter fun x => keptReg x.1, flume := { Flume.reset with time := d.timeRebooted } }
  d'.count Reg.EVR_LOST (e.lostCount - d.evr.lostCount)

/-- A fundamental reset. -/
def State.rebooted (s : State) : State := { s with sk := s.sk.rebooted, dev := s.dev.rebooted }

/-! ### Supplies (R535 to R538, R608, R617, R621 to R624) -/

/-- The Lehr domain is powered (R535). -/
def Dev.lehrOn (d : Dev) : Bool := d.lehr.aux || d.lehr.main

/-- OFF (R538, R623): hold-up lets a NOR write that is in progress complete; everything the 50 V domain held is lost. The
events are the caller's. -/
def State.off (s : State) : State :=
  let d := s.dev
  let d : Dev := if Config.freeBool d.freeIx then { d with evr := d.evr.copyOne } else d
  let d := d.draw
  let ms := d.opMs
  let s' := { s with dev := d }.rebooted
  { s' with dev := { s'.dev with
    stage := .off, lehr := { s'.dev.lehr with dom50 := false, latched := true, opBase := ms, opSince := s'.dev.cycle } } }

/-- SUPPLY_50V_OFF: below 40 V or above 60 V (R538). -/
def State.supplyOff (s : State) (mv : Nat) : State :=
  if !s.dev.lehr.dom50 ∨ (40000 ≤ mv ∧ mv ≤ 60000) then s
  else onDev (fun d => d.event 0x9008 0 mv 0 0) s.off

/-- TRIP (R538, R624): THERM_TRIP_N, OFF with its event, whose voltage the manual does not say, and event 0x9007. -/
def State.trip (s : State) (die temp : Nat) : State :=
  if !s.dev.lehr.dom50 ∨ temp < 115 ∨ 150 < temp then s
  else
    onDev (fun d =>
      let (mv, d) := ({ d with lehr := { d.lehr with thermTrip := true } } : Dev).freeWord
      (d.event 0x9008 0 mv 0 0).event 0x9007 die temp 0 0) s.off

/-- The 50 V input falls away (R623). Its absence, once it has lasted 1 s, ends what R624 holds against a power-up. -/
def State.loss50 (s : State) : State :=
  let gone := onDev fun d => { d with lehr := { d.lehr with main := false, lostAt := if d.lehr.main then d.cycle else d.lehr.lostAt } }
  if !s.dev.lehr.dom50 then gone s
  else gone (onDev (fun d =>
    let (mv, d) := d.freeWord
    d.event 0x9008 0 mv 0 0) s.off)

/-- Global time advances by whole crystal ticks while the 50 V domain is unpowered (R536): 30,517.578125 ns each. -/
def Dev.crystalTime (d : Dev) : GTime :=
  let g := d.flume.time
  { g with base := g.base + ((d.cycle - g.at_) * 640 / 31250000) * 31250000, at_ := d.cycle }

/-- The Lehr buffer moves into the recorder, before any other record; where it overflowed, event 0x900C (R537). -/
def Dev.moveBuffer (d : Dev) : Dev :=
  let l := d.lehr
  let d : Dev := { d with lehr := { l with buffer := [], bufLost := 0 } }
  let d := l.buffer.foldl (fun d ws => d.writeRecord (fld (wordAt ws 0) 28 4) ws) d
  if l.bufLost = 0 then d else d.event 0x900C l.bufLost l.powerCycles 0 0

/-- OFF or TRIP still holds against a power-up: the input has not been absent for 1 s (R624). -/
def Dev.heldOff (d : Dev) : Bool := d.lehr.latched && !(!d.lehr.main && decide (cyclesOfMs 1000 ≤ d.cycle - d.lehr.lostAt))

/-- The 50 V input is there, and its domain powers up (R536, R537, R617, R619, R624): THERM_TRIP_N is released, the power cycle is
counted, and the fundamental reset stands until MOD_RST_N is released. Where OFF or TRIP still holds, the input alone is back. -/
def State.powerUp (s : State) : State :=
  if s.dev.lehr.dom50 then s
  else if s.dev.heldOff then onDev (fun d => { d with lehr := { d.lehr with main := true } }) s
  else onDev (fun d =>
    let l := d.lehr
    let d : Dev := { d with
      stage := .inReset
      flume := { d.flume with time := d.crystalTime }
      lehr := { l with
        main := true, dom50 := true, latched := false, thermTrip := false, powerCycles := sat 0xFFFFFFFF (l.powerCycles + 1), opSince := d.cycle } }
    d.moveBuffer) s

/-- Both inputs are absent (R535): the Lehr registers return to their reset values, and the 50 V domain is unpowered. -/
def State.lehrLoss (s : State) : State :=
  let s := if s.dev.lehr.dom50 then s.off else s
  onDev (fun d =>
    { d.resetRegs 0x400600 0x20 with
      park := Park.reset
      lehr := { Lehr.reset with aux := false, main := false, dom50 := false, refclk := d.lehr.refclk, opSince := d.cycle }
      flume := { d.flume with time := { GTime.reset with at_ := d.cycle } } }) s

/-- An input appears while both were absent (R535). Which one is the 12 V input's doing here; POWER_UP_50V brings the other
(log 119). -/
def Dev.lehrUp (d : Dev) : Dev := if d.lehrOn then d else { d with lehr := { d.lehr with aux := true } }

/-! ### MOD_RST_N and start-up (R513 to R517, R531, R569, R617 to R620) -/

/-- The input is held for chatter (R556). -/
def Dev.heldInput (d : Dev) (n : Nat) : Bool := d.lehr.held.any fun h => decide (h.1 = n)

/-- An accepted assertion of MOD_RST_N (R555, R617). With the 50 V domain unpowered it lets the domain power up again,
where the input lies within 42 V to 58 V (R624). -/
def State.modReset (s : State) : State :=
  match s.dev.stage with
  | .off => onDev (fun d =>
      if d.lehr.main ∧ !d.lehr.active.toNat.testBit 0 then { d with lehr := { d.lehr with latched := false } } else d) s
  | .inReset => s
  | .waitRefclk | .boot | .poisoning | .poisoned | .ready => s.rebooted

/-- The rise of MOD_RST_N is accepted: t1 (R619). Without REFCLK, start-up holds there (R620). -/
def Dev.modRelease (d : Dev) : Dev :=
  if d.stage ≠ .inReset ∨ d.heldInput 2 then d
  else if d.lehr.refclk then { d with stage := .boot }
  else { d with stage := .waitRefclk, lehr := { d.lehr with holdSince := some d.cycle } }

/-- What event 0x9009 says of REFCLK: absent, or out of range where the crystal can tell (R615); the figures are not the
manual's. -/
def Dev.refclkEvent (d : Dev) : Dev :=
  let (k, d) := d.freeWord
  let (ppm, d) := d.freeWord
  d.event 0x9009 (if d.lehr.crystal then k % 2 else 0) ppm 0 0

/-- Start-up has held for 100 ms (R620). -/
def Dev.refclkHold (d : Dev) : Dev :=
  match d.stage, d.lehr.holdSince with
  | .waitRefclk, some t =>
    if d.cycle - t < cyclesOfMs 100 then d
    else ({ d with lehr := { d.lehr with holdSince := none } } : Dev).refclkEvent
  | _, _ => d

/-- REFCLK is in range again. -/
def Dev.refclkBack (d : Dev) : Dev :=
  if d.lehr.refclk then d
  else { d with lehr := { d.lehr with refclk := true, refclkSince := d.cycle, active := d.lehr.active &&& 0x3BF } }

/-- REFCLK has been in range for 1 ms at t1 (R620). -/
def Dev.refclkStart (d : Dev) : Dev :=
  if d.stage ≠ .waitRefclk then d else { d.refclkBack with stage := .boot, lehr := { d.refclkBack.lehr with holdSince := none } }

/-- Why a firmware slot is not bootable (R569): 0 its signature, 1 its SVN. -/
def Skeop.slotFault (k : Skeop) (f : FwSlot) : Option Nat :=
  let (svn, _, n) := Config.firmwareHeader f.image
  if f.invalid || !Config.ecdsaVerify Config.vendorKey (Config.sha384 (f.image.take n)) ((f.image.drop n).take 96) then some 0
  else if svn.val < k.fusedSvn then some 1
  else none

/-- The contents of slot 0 (A) or 1 (B). -/
def Skeop.slotOf (k : Skeop) (n : Nat) : FwSlot := if n = 0 then k.slotA else k.slotB

/-- The slot the boot ROM boots (R569). -/
def Skeop.bootSlot (k : Skeop) : Option Nat :=
  let svn := fun n => (Config.firmwareHeader (k.slotOf n).image).1.val
  match k.slotFault k.slotA, k.slotFault k.slotB with
  | none, none => if svn 1 < svn 0 then some 0 else if svn 0 < svn 1 then some 1 else some (k.active.getD 0)
  | none, some _ => some 0
  | some _, none => some 1
  | some _, some _ => none

/-- Event 0xA002 for a slot that is not bootable (R569, R605). -/
def Dev.slotEvent (d : Dev) (k : Skeop) (n : Nat) : Dev :=
  match k.slotFault (k.slotOf n) with
  | some why => d.event 0xA002 n why (Config.firmwareHeader (k.slotOf n).image).1.val 0
  | none => d

/-- The boot ROM verifies the slots and boots one, or enters RECOVERY (R567, R569). -/
def State.boot (s : State) : State :=
  let d := (s.dev.slotEvent s.sk 0).slotEvent s.sk 1
  match s.sk.bootSlot with
  | some n =>
    let (svn, v, _) := Config.firmwareHeader (s.sk.slotOf n).image
    { s with sk := { s.sk with slot := n, svnRun := svn.val, versionRun := v }, dev := d.event 0xA001 n svn.val s.sk.fusedSvn v }
  | none => { s with sk := { s.sk with mode := .recovery, rom := true }, dev := (d.event 0xA003 0 0 0 0).event 0xA004 0 3 0 0 }

/-- A fence that takes effect at start-up; a request for a mill that is fenced already changes nothing else (R525). -/
def Dev.fenceAtStart (d : Dev) (p trigger : Nat) : Dev :=
  let again := d.isFenced p
  let d := d.event 0xB007 p trigger 0xF 0
  if again then d else d.fenceNow { mill := p, trigger := trigger, ictx := 0xF, since := d.cycle }

/-- The route of one dimension order between two routers avoids a set of routers (R217). -/
def routeAvoids (escape : Bool) (bad : List Nat) : (fuel at_ dst : Nat) → Bool
  | 0, _, _ => false
  | n + 1, at_, dst =>
    if at_ = dst then true
    else
      let t := nextHop escape at_ dst
      !bad.contains t && routeAvoids escape bad n t dst

/-- The exception table may hold this set of routers (R217): every pair of the others keeps a route, and no mill that can be
bound has one of them. -/
def Dev.admits (d : Dev) (bad : List Nat) : Bool :=
  bad.all (fun t => d.isFenced (t / 8)) &&
  ((List.range 1728).filter (!bad.contains ·)).all fun a =>
    ((List.range 1728).filter (!bad.contains ·)).all fun b => routeAvoids false bad 128 a b || routeAvoids true bad 128 a b

/-- Skeop writes the exception table; the mill of a router that it cannot admit is fenced (R217, R525; log 116). -/
def Dev.exceptions (d : Dev) : Dev :=
  let go := fun (x : Dev × List Nat) (t : Nat) =>
    let bad := x.2 ++ [t]
    if bad.length ≤ 16 ∧ x.1.admits bad then
      (x.1.setReg (at1 Reg.RACE_EXCn 4 x.2.length) (packed [(1, 31), (t, 0)]), bad)
    else (x.1.fenceAtStart (t / 8) 3, x.2)
  (Config.blockedRouters.foldl go (d, [])).1

/-- The pending repairs of one stack: a row whose bank has a spare is repaired, another stays in use (R516). -/
def Dev.repairStack (d : Dev) (k : Nat) : Dev :=
  let rows := d.ecc.hbmPend.filter fun r => decide (r.unit / 64 = k)
  let go := fun (x : Dev × Nat) (r : RowId) =>
    let d := x.1
    if d.sparesLeft r = 0 then
      (({ d with ecc := { d.ecc with exhausted := d.ecc.exhausted ++ [r] } } : Dev).event 0xB005 r.code r.bank r.row 0, x.2)
    else
      ({ d with ecc := { d.ecc with rowMap := d.ecc.rowMap ++ [r], norRows := d.ecc.norRows ++ [r] } }, x.2 + 1)
  if rows.isEmpty then d
  else
    let (d, n) := rows.foldl go (d, 0)
    ({ d with ecc := { d.ecc with hbmPend := d.ecc.hbmPend.filter fun r => decide (r.unit / 64 ≠ k) } } : Dev).event
      0xB00A k n (rows.length - n) 0

/-- Start-up applies what the NOR keeps (R516, R517, R531): the row map and failed-die marks, the fence map, the exception
table, and the pending repairs. -/
def Dev.applyMaps (d : Dev) : Dev :=
  let d : Dev := { d with ecc := { d.ecc with rowMap := d.ecc.norRows, dieFailed := d.ecc.norDies } }
  let d := (d.ecc.norFenced.mergeSort fun a b => decide (a ≤ b)).foldl (fun d p => d.fenceAtStart p 4) d
  (List.range 12).foldl Dev.repairStack d.exceptions

/-- FIRMWARE_BOOT: firmware starts, losses are reported (R623), and the maps are applied (R619). -/
def State.firmwareBoot (s : State) : State :=
  if s.dev.stage ≠ .boot then s
  else onDev (fun d => { d.reportLost.applyMaps with stage := .poisoning }) s.boot

/-- Every word of tile memory and HBM becomes poison (R504). -/
def Dev.poisonAll (d : Dev) : Dev :=
  if d.stage ≠ .poisoning then d else { d with mem := [], ecc := { d.ecc with flips := [] }, stage := .poisoned }

/-- The loader is ready (R619). -/
def Dev.loaderReady (d : Dev) : Dev := if d.stage ≠ .poisoned then d else { d with stage := .ready }

/-! ### Requesting a park (R558 to R560) -/

/-- Running contexts. -/
def Dev.runningCtxs (d : Dev) : List Nat := (List.range 16).filter fun c => decide ((d.img c).state = .running)

/-- Event 0x9003, whose cause bit is the bit's number in LEHR_PARK (log 120). -/
def Dev.parkEvent (d : Dev) (cause : Nat) : Dev :=
  let w := d.reg Reg.LEHR_ALERT_CTL
  d.event 0x9003 (16 + cause) (b2n (bit w 30)) d.runningCtxs.length (b2n (bit w 31))

/-- A park is requested (R558): 0 SITE, 1 temperature, 2 coolant, 3 REFCLK, 4 HOST. While the module parks or is parked, the
request adds its cause only; one made while it unparks makes it park again (log 121). -/
def Dev.requestPark (d : Dev) (cause : Nat) : Dev :=
  let p := { d.park with causes := d.park.causes ||| BitVec.ofNat 5 (2 ^ cause) }
  match p.stage with
  | .parking | .parked => { d with park := p }
  | .run | .unparking =>
    ({ d with park := { p with stage := .parking, since := d.cycle, stopped := 0, begun := false } } : Dev).parkEvent cause

/-- A park's forced STOP of a context (R559, R560): as a forced STOP of R492, it waits for a commit that is running (R367). The
capture's status is not the manual's. -/
def Dev.parkStop (d : Dev) (c source : Nat) : Dev :=
  let d := d.cancelWait c
  let d := if d.commitRuns c then d.stopLater c { cause := 0x02, force := false, unload := none } else d.stopContext c 0x02 0xFFFF sOk true
  let (st, d) := d.freeWord
  ({ d with park := { d.park with stopped := d.park.stopped + 1 } } : Dev).capture Reg.GOV_ERR_ADDR_LO d.park.causes.toNat c
    (source * 256 + st % 12)

/-- A context has not reached its park point within the bound (R560). -/
def Dev.parkBound (d : Dev) (c : Nat) : Dev :=
  let p := d.park
  let field := d.regFld Reg.LEHR_ALERT_CTL 0 16
  let ms := if p.causes.toNat.testBit 1 || p.causes.toNat.testBit 2 then 100 else field
  if p.stage ≠ .parking ∨ (d.img c).state ≠ .running ∨ p.atPoint.contains c ∨ (d.img c).due.isSome ∨ d.cycle - p.since < cyclesOfMs ms
  then d
  else (d.parkStop c 1).event 0x9006 c (d.stepLow c) field p.causes.toNat

/-! ### Comparators and inputs (R538, R539, R555 to R557, R615) -/

/-- Set or clear a bit of LEHR_CMP_STAT.ACTIVE. -/
def Dev.setActive (d : Dev) (n : Nat) (v : Bool) : Dev :=
  let m := BitVec.ofNat 10 (2 ^ n)
  { d with lehr := { d.lehr with active := if v then d.lehr.active ||| m else d.lehr.active &&& ~~~m } }

def Dev.isActive (d : Dev) (n : Nat) : Bool := d.lehr.active.toNat.testBit n

/-- A PlatformEventMessage for a sensor that has crossed a threshold (R581, R582). -/
def Dev.crossed (d : Dev) (sensor : Nat) : Dev :=
  { d with out := d.out ++ (d.evr.receiver.map fun eid => Output.platformEvent eid [BitVec.ofNat 32 sensor]).toList }

/-- The sensor of a die in the order of R581, or of an HBM stack (40 and up). -/
def dieSensor (die : Nat) : Nat := if die < 40 then 0x0100 + die else 0x0140 + (die - 40)

/-- A comparator warning (R538, R565): the comparator is numbered as its bit of LEHR_CMP_STAT.ACTIVE (log 122). -/
def Dev.supplyWarn (d : Dev) (cmp sensor mv lo hi : Nat) : Dev :=
  if !d.lehrOn ∨ d.isActive cmp ∨ (lo ≤ mv ∧ mv ≤ hi) then d
  else ((d.setActive cmp true).event 0x9001 cmp mv (if mv < lo then lo else hi) 0).crossed sensor

/-- The hottest valid reading. -/
def hottest (t : List (Nat × Nat)) : Nat := (t.map (·.2)).foldl max 0

/-- A reading passes a level, up or down. -/
def passes (level old new : Nat) : Bool := decide (level ≤ old) != decide (level ≤ new)

/-- A die's sensor passes one of its levels: a threshold crossing (R581, R582). -/
def Dev.diePasses (d : Dev) (die level old new : Nat) : Dev := if passes level old new then d.crossed (dieSensor die) else d

/-- A die's reading; one beyond 150 °C is ignored (R539). -/
def Dev.dieReading (d : Dev) (die temp : Nat) : Dev :=
  if 150 < temp then d
  else
    let old := (Tab.find d.lehr.dieTemp die).getD 0
    let t := Tab.put d.lehr.dieTemp die temp
    let d : Dev := { d with lehr := { d.lehr with dieTemp := t, tjMax := hottest t } }
    (d.diePasses die (d.regFld Reg.LEHR_TJ_CFG 0 8) old temp).diePasses die (d.regFld Reg.LEHR_TJ_CFG 8 8) old temp

/-- THROTTLE starts or ends: event 0x9002 (R547, R565). -/
def Dev.throttleSet (d : Dev) (v : Bool) (cause : Nat) : Dev :=
  if d.gov.throttle = v then d
  else ({ d with gov := { d.gov with throttle := v, cause := cause } } : Dev).event 0x9002 (b2n v) cause d.gov.watts d.lehr.tjMax

/-- A die reaches LEHR_TJ_CFG.THR (R538, R547). A reading below it is only noted. `higher`: an action of higher precedence falls
due in the same cycle, and is taken instead (R539). -/
def Dev.dieThrottle (d : Dev) (die temp : Nat) (higher : Bool) : Dev :=
  if !d.lehr.dom50 then d
  else
    let d := d.dieReading die temp
    if 150 < temp ∨ temp < d.regFld Reg.LEHR_TJ_CFG 0 8 ∨ d.isActive 2 then d
    else
      let d := d.setActive 2 true
      if higher then d else d.throttleSet true 1

/-- A die without a valid sensor counts as at its PARK level, which reaches THR as well (R539). -/
def Dev.sensorless (d : Dev) (temp : Option Nat) : Dev :=
  if temp.isNone ∧ d.regFld Reg.LEHR_TJ_CFG 0 8 ≤ d.regFld Reg.LEHR_TJ_CFG 8 8 then d.setActive 2 true else d

/-- A die reaches LEHR_TJ_CFG.PARK, or has had no valid sensor for 10 ms (R538, R539). `higher` as in `dieThrottle`. -/
def Dev.diePark (d : Dev) (die : Nat) (temp : Option Nat) (higher : Bool) : Dev :=
  if !d.lehr.dom50 then d
  else
    let l := d.lehr.dieTemp.filter fun x => decide (x.1 ≠ die)
    let hit := match temp with
      | some t => decide (t ≤ 150 ∧ d.regFld Reg.LEHR_TJ_CFG 8 8 ≤ t)
      | none => true
    let d : Dev := match temp with
      | some t => d.dieReading die t
      | none => ({ d with lehr := { d.lehr with dieTemp := l, tjMax := hottest l } } : Dev).diePasses die
          (d.regFld Reg.LEHR_TJ_CFG 8 8) ((Tab.find d.lehr.dieTemp die).getD 0) (d.regFld Reg.LEHR_TJ_CFG 8 8)
    let d := d.sensorless temp
    if !hit ∨ d.isActive 3 then d
    else
      let d := d.setActive 3 true
      if higher then d else d.requestPark 1

/-- The coolant inlet reaches LEHR_COOL_CFG.WARN, or its sensor reads outside its range (R538, R539). -/
def Dev.coolantWarn (d : Dev) (temp : Option Nat) : Dev :=
  let warn := d.regFld Reg.LEHR_COOL_CFG 0 8
  if !d.lehrOn then d
  else match temp with
    | some t =>
      if 90 < t then d.event 0x9001 4 t warn 1
      else
        let d : Dev := { d with lehr := { d.lehr with tCool := t } }
        if t < warn ∨ d.isActive 4 then d else ((d.setActive 4 true).event 0x9001 4 t warn 0).crossed 0x0005
    | none =>
      let (v, d) := d.freeWord
      d.event 0x9001 4 v warn 1

/-- The coolant inlet reaches LEHR_COOL_CFG.PARK (R538). `higher` as in `dieThrottle`. -/
def Dev.coolantPark (d : Dev) (t : Nat) (higher : Bool) : Dev :=
  if !d.lehrOn ∨ 90 < t then d
  else
    let d : Dev := { d with lehr := { d.lehr with tCool := t } }
    if t < d.regFld Reg.LEHR_COOL_CFG 8 8 ∨ d.isActive 5 then d
    else
      let d := (d.setActive 5 true).crossed 0x0005
      if higher then d else d.requestPark 2

/-- REFCLK fails (R538, R559): event 0x9009, a forced STOP of every running context, and the park request. Before t1, and while
start-up is held there, nothing is requested (R620; log 123). `higher` as in `dieThrottle`: the event stays. -/
def Dev.refclkFault (d : Dev) (higher : Bool) : Dev :=
  if !d.lehrOn ∨ !d.lehr.refclk then d
  else
    let d := ({ d with lehr := { d.lehr with refclk := false } } : Dev).setActive 6 true
    match d.stage with
    | .off | .inReset | .waitRefclk => d
    | .boot | .poisoning | .poisoned | .ready =>
      let d := d.refclkEvent
      if higher then d else (d.runningCtxs.foldl (fun d c => d.parkStop c 2) d).requestPark 3

/-- SITE_ALERT_N is asserted (R557). `higher` as in `dieThrottle`. -/
def Dev.siteAssert (d : Dev) (higher : Bool) : Dev :=
  if !d.lehrOn ∨ d.lehr.siteAlert then d
  else
    let d := ({ d with lehr := { d.lehr with siteAlert := true, siteSince := d.cycle } } : Dev).setActive 7 true
    if higher then d else if bit (d.reg Reg.LEHR_ALERT_CTL) 31 then d.requestPark 0 else d.parkEvent 0

/-- SITE_ALERT_N is high again (R557, R563). Under a chatter hold it stays asserted (R556). -/
def Dev.siteRelease (d : Dev) : Dev :=
  if !d.lehr.siteAlert ∨ d.heldInput 0 then d
  else ({ d with lehr := { d.lehr with siteAlert := false, siteSince := d.cycle } } : Dev).setActive 7 false

/-- TRIP falls due at a reading, OFF at a voltage (R538). -/
def Dev.tripDue (d : Dev) (temp : Nat) : Bool := d.lehr.dom50 && decide (115 ≤ temp ∧ temp ≤ 150)
def Dev.offDue (d : Dev) (mv : Nat) : Bool := d.lehr.dom50 && decide (mv < 40000 ∨ 60000 < mv)

/-- OFF or TRIP falls due in this cycle: it has been taken, or a command that waits takes it (log 205). It takes precedence over a
park and over THROTTLE (R539). -/
def State.powerGoes (s : State) : Bool :=
  (s.dev.lehr.latched && decide (s.dev.stage = .off ∧ s.dev.lehr.opSince = s.dev.cycle)) ||
  s.pending.any fun i => match i with
    | .thermalTrip _ temp => s.dev.tripDue temp
    | .supply50vOff mv => s.dev.offDue mv
    | _ => false

/-- A park falls due in this cycle: it has been requested in it, or a command that waits requests it (R539; log 205). -/
def State.parkGoes (s : State) : Bool :=
  let d := s.dev
  (decide (d.park.stage = .parking) && decide (d.park.since = d.cycle)) ||
  s.pending.any fun i => match i with
    | .dieTempPark _ temp => !d.isActive 3 && (match temp with
      | some t => decide (t ≤ 150 ∧ d.regFld Reg.LEHR_TJ_CFG 8 8 ≤ t)
      | none => true)
    | .coolantPark t => !d.isActive 5 && decide (t ≤ 90 ∧ d.regFld Reg.LEHR_COOL_CFG 8 8 ≤ t)
    | .refclkFault => d.lehr.refclk
    | .siteAlertAssert => !d.lehr.siteAlert && bit (d.reg Reg.LEHR_ALERT_CTL) 31
    | _ => false

/-- An input chatters (R556): it is held in its asserted state, SYNC_PPS at its last state. The ninth change is the one that
holds it (log 124). -/
def State.chatterHold (s : State) (n : Nat) : State :=
  if !s.dev.lehrOn ∨ s.dev.heldInput n then s
  else
    let s := onDev (fun d =>
      ((({ d with lehr := { d.lehr with held := d.lehr.held ++ [(n, d.cycle)] } } : Dev).setActive 8 true).count
        Reg.GOV_CHATTER 1).event 0x900B n 9 0 0) s
    if n = 0 then onDev (fun d => d.siteAssert s.powerGoes) s
    else if n = 2 then s.modReset
    else if n = 3 then onDev Dev.pfFlr s
    else s

/-- A held input has kept one level for 10 s (R556). -/
def Dev.chatterEnd (d : Dev) (n : Nat) : Dev :=
  if d.lehr.held.any fun h => decide (h.1 = n ∧ cyclesOfMs 10000 ≤ d.cycle - h.2) then
    let l := d.lehr.held.filter fun h => decide (h.1 ≠ n)
    ({ d with lehr := { d.lehr with held := l } } : Dev).setActive 8 !l.isEmpty
  else d

/-- Readings at or above a level, once the comparator says that they lie below it: each is below it now, and its value is open. -/
def Dev.cooled (d : Dev) (level : Nat) : Dev :=
  let now := fun (x : Nat × Nat) => Config.freeNat (d.freeIx + x.1) % min level 151
  let t := d.lehr.dieTemp.map fun (x : Nat × Nat) => if level ≤ x.2 then (x.1, now x) else x
  let thr := d.regFld Reg.LEHR_TJ_CFG 0 8
  let park := d.regFld Reg.LEHR_TJ_CFG 8 8
  let d' : Dev := { d with freeIx := d.freeIx + 64, lehr := { d.lehr with dieTemp := t, tjMax := hottest t } }
  (d.lehr.dieTemp.filter fun x => decide (level ≤ x.2)).foldl (fun e x =>
    (e.diePasses x.1 thr x.2 (now x)).diePasses x.1 park x.2 (now x)) d'

/-- A comparator's condition has been absent for its time (R538). SITE_ALERT_N, the chatter holds and PPS_LOST end by commands
of their own. A temperature that stood at the level is below it now, and its value is open. -/
def Dev.withdraw (d : Dev) (n : Nat) : Dev :=
  if !d.isActive n then d
  else
    let d' := d.setActive n false
    if n = 0 then d'.crossed 0x0002
    else if n = 1 then d'.crossed 0x0004
    else if n = 2 then d'.cooled (d.regFld Reg.LEHR_TJ_CFG 0 8)
    else if n = 3 then d'.cooled (d.regFld Reg.LEHR_TJ_CFG 8 8)
    else if n = 4 ∨ n = 5 then
      let level := d.regFld Reg.LEHR_COOL_CFG (if n = 4 then 0 else 8) 8
      let t := if level ≤ d.lehr.tCool then Config.freeNat d.freeIx % level else d.lehr.tCool
      ({ d'.draw with lehr := { d'.lehr with tCool := t } } : Dev).crossed 0x0005
    else if n = 6 then d.refclkBack
    else d

/-- The crystal stops, or is back (R615): event 0x900D. -/
def Dev.crystalSet (d : Dev) (v : Bool) : Dev :=
  if !d.lehrOn ∨ d.lehr.crystal = v then d
  else ({ d with lehr := { d.lehr with crystal := v, crystalSince := d.cycle } } : Dev).event 0x900D (b2n v) 0 0 0

/-! ### Parking and unparking (R561 to R564) -/

/-- Every context is at its park point or stopped (R562). -/
def Dev.allParked (d : Dev) : Bool := d.runningCtxs.all fun c => d.park.atPoint.contains c

/-- The park sequence starts quiescing (R562). -/
def Dev.parkBegin (d : Dev) : Dev :=
  if d.stage = .ready ∧ d.park.stage = .parking ∧ d.allParked then { d with park := { d.park with begun := true } } else d

/-- The module is quiet (R562): mill and Sluice queues, collective operations, packets, events and frames. -/
def Dev.moduleQuiet (d : Dev) : Bool :=
  d.mills.all (fun m => m.2.queue.isEmpty && m.2.running.isEmpty) && (List.range 1728).all (fun t => d.queuesQuiet t) &&
  (List.range 16).all (fun c => (d.coll c).ops.all fun o => decide (o.stage ≠ .running ∧ o.stage ≠ .waiting)) &&
  d.race.isEmpty && d.syncFly.isEmpty && (List.range 18).all fun n => (d.port n).retry.isEmpty && (d.port n).waiting.isEmpty

/-- Links go down, mills and PLLs stop, and the module is PARKED (R562). -/
def Dev.parkComplete (d : Dev) : Dev :=
  if d.stage ≠ .ready ∨ d.park.stage ≠ .parking ∨ !d.park.begun ∨ !d.allParked ∨ !d.moduleQuiet then d
  else
    let d := (List.range 18).foldl (fun d n => d.portDown n 2) d
    let d := (List.range 216).foldl (fun d p =>
      let k := d.clk p
      if (d.binding p).isSome then d.setClk p { k with gate := .g2, level := 0, target := 0, granted := 0, lend := false, wake := none }
      else d.setClk p { k with gate := .g3 }) d
    let us := (d.cycle - d.park.since) / 1600
    let d : Dev := { d with
      gov := { d.gov with pll := [], pllIdle := [] }
      park := { d.park with stage := .parked, parkedAt := d.cycle, begun := false } }
    d.event 0x9004 d.park.causes.toNat us d.park.atPoint.length d.park.stopped

/-- The conditions of an unpark (R563). -/
def Dev.unparkAllowed (d : Dev) : Bool :=
  let l := d.lehr
  !(d.isActive 3) && !(d.isActive 5) && l.refclk && decide (cyclesOfMs 1000 ≤ d.cycle - l.refclkSince) &&
  !l.siteAlert && decide (cyclesOfMs (1000 * d.regFld Reg.LEHR_ALERT_CTL 16 8) ≤ d.cycle - l.siteSince) &&
  decide (l.tjMax + 5 ≤ d.regFld Reg.LEHR_TJ_CFG 8 8) && decide (l.tCool + 2 ≤ d.regFld Reg.LEHR_COOL_CFG 8 8)

/-- An unpark starts. One that the host asks for while the module still parks ends the park (log 125). -/
def Dev.unparkStart (d : Dev) (byHost : Bool) : Dev :=
  let p := d.park
  match p.stage with
  | .parked => { d with park := { p with stage := .unparking, byHost := byHost } }
  | .parking => { d with park := { p with stage := .unparking, byHost := byHost, parkedAt := d.cycle, begun := false } }
  | .run | .unparking => d

/-- With AUTO, the conditions come to hold (R563). -/
def Dev.autoUnpark (d : Dev) : Dev :=
  if bit (d.reg Reg.LEHR_ALERT_CTL) 29 ∧ d.park.stage = .parked ∧ d.unparkAllowed then d.unparkStart false else d

/-- What a park point withheld goes on: actions 8 and 9, or the boundary (R559, R564). -/
def Dev.parkRelease (d : Dev) (c : Nat) : Dev :=
  if (d.img c).state ≠ .running then d
  else if (d.stepOf c).action = 8 then d.commitEnd c
  else d.atBoundary c

/-- The unpark has run (R564): clocks, links and time are back, what was withheld is released, and STATE is RUN. -/
def Dev.unparkComplete (d : Dev) : Dev :=
  if d.stage ≠ .ready ∨ d.park.stage ≠ .unparking then d
  else
    let p := d.park
    let dies := (List.range 8).filter fun b => (List.range 27).any fun k => (d.binding (b * 27 + k)).isSome
    let d := { d with gov := { d.gov with pll := dies } }
    let d := (List.range 216).foldl (fun d m =>
      if (d.binding m).isSome ∧ (d.clk m).gate = .g2 then d.setClk m { d.clk m with wake := some d.cycle } else d) d
    let d := (List.range 18).foldl (fun d n => if (d.port n).state = .down then d.commandRetrain n else d) d
    let d := d.timeState 1 (BitVec.ofNat 16 (d.regFld Reg.FLM_TIME_STAT 0 16)).toInt
    let d : Dev := { d with park := { p with stage := .run, causes := 0, atPoint := [] } }
    (p.atPoint.foldl Dev.parkRelease d).event 0x9005 p.causes.toNat ((d.cycle - p.parkedAt) / 1600000) (b2n p.byHost) 0

end Sys2Proof.Machine
end

