-- ==== Sys2Proof/Machine/PowerRun.lean ====
section
/-!
DEFINITION. The commands of the Lehr domain, of parking and of start-up but for register writes (chapters 13 and 15), and of the
mill clocks and the Governor (R540 to R549).
-/
namespace Sys2Proof.Machine

/-! ### Mill clocks (R540 to R542, R548) -/

/-- The mill is idle (R542). -/
def Dev.millIdle (d : Dev) (p : Nat) : Bool :=
  let m := d.mill p
  m.queue.isEmpty && m.running.isEmpty && (List.range 8).all fun k =>
    let t := d.tile (p * 8 + k)
    t.memEng.isNone && (List.finRange 4).all fun c => decide (t.ctx[c].run ≠ .run)

/-- Race cycles for which the mill has been idle. -/
def Dev.idleFor (d : Dev) (p : Nat) : Nat :=
  match (d.clk p).idleSince with
  | some t => if d.millIdle p then d.cycle - t else 0
  | none => 0

/-- The image context that holds a mill, where it is running. -/
def Dev.runningOn (d : Dev) (p : Nat) : Option Nat :=
  match d.binding p with
  | some (c, _) => if (d.img c).state = .running then some c else none
  | none => none

/-- A context of the mill has been in WAIT for `n` Race cycles. -/
def Dev.waitsFor (d : Dev) (p n : Nat) : Bool :=
  (List.range 8).any fun k =>
    (List.finRange 4).any fun c =>
      let x := (d.tile (p * 8 + k)).ctx[c]
      decide (x.run = .wait) && (x.wait.map fun w => decide (n ≤ d.cycle - w.since)).getD false

/-- The mill starts lending after 2,000 ns (R544, R549). -/
def Dev.millLend (d : Dev) (p : Nat) : Dev :=
  let k := d.clk p
  let n := cyclesOfNs 2000
  match d.runningOn p with
  | some c =>
    if k.lend ∨ d.idleFor p < n ∨ !d.waitsFor p n then d
    else (d.setClk p { k with lend := true }).setMeasure c { d.measure c with lent := true }
  | none => d

/-- The clock is gated after 256 idle mill-clock cycles (R542). -/
def Dev.millGate (d : Dev) (p : Nat) : Dev :=
  let k := d.clk p
  if k.gate ≠ .g0 ∨ d.millCycles p (d.idleFor p) < 256 then d else d.setClk p { k with gate := .g1 }

/-- The mill is power-gated (R542): unbound, in a context that is not RUNNING, parked, or idle for GOV_PG_US with PG_RUN. -/
def Dev.millPowerGate (d : Dev) (p : Nat) : Dev :=
  let k := d.clk p
  let us := d.idleFor p / 1600
  let due := (d.runningOn p).isNone || decide (d.park.stage = .parked) ||
    (bit (d.reg Reg.GOV_CTL) 30 && decide (d.regFld Reg.GOV_PG_US 0 16 ≤ us))
  if (k.gate = .g0 ∨ k.gate = .g1) ∧ d.millIdle p ∧ due then d.setClk p { k with gate := .g2 } else d

/-- The number of the 8 ns window of the current cycle (R548). -/
def Dev.window (d : Dev) : Nat := d.cycle * 5 / 64

/-- A mill whose clock is due to restart, and since when. -/
def Dev.dueSince (d : Dev) (p : Nat) : Option Nat :=
  let k := d.clk p
  if k.gate = .g1 ∨ k.gate = .g2 then k.wake.or (if (d.runningOn p).isSome ∧ !d.millIdle p then some d.cycle else none) else none

/-- The clock of a mill restarts at level 0 (R542, R546, R548): at most 24 in a window of 8 ns, first those that fell due in an
earlier window, in ascending order. -/
def Dev.millRestart (d : Dev) (p : Nat) : Dev :=
  match d.dueSince p with
  | none => d
  | some t =>
    let before := (List.range 216).any fun q =>
      match d.dueSince q with
      | some u => decide (u * 5 / 64 < t * 5 / 64 ∨ (u * 5 / 64 = t * 5 / 64 ∧ q < p))
      | none => false
    let n := if d.gov.window = d.window then d.gov.started else 0
    if before ∨ 24 ≤ n then d
    else
      let k := d.clk p
      ({ d with gov := { d.gov with window := d.window, started := n + 1 } } : Dev).setClk p { k with
        gate := .g0, level := 0, target := 0, granted := 0, wake := none }

/-- The generator moves one level toward its target (R540); a level above 0 is noted for the ledger (R549). -/
def Dev.levelStep (d : Dev) (p : Nat) : Dev :=
  let k := d.clk p
  if k.gate ≠ .g0 ∨ k.level = k.target then d
  else
    let l := if k.level < k.target then k.level + 1 else k.level - 1
    let d := d.setClk p { k with level := l }
    match d.binding p with
    | some (c, _) => if 0 < l then d.setMeasure c { d.measure c with boosted := true } else d
    | none => d

/-- The mill PLL of a base die stops 10 ms after its last mill has been unbound (R541); its unbound mills are off (R542). -/
def Dev.pllStop (d : Dev) (b : Nat) : Dev :=
  match d.gov.pllIdle.find? fun e => decide (e.1 = b) with
  | none => d
  | some (_, t) =>
    if d.cycle - t < cyclesOfMs 10 then d
    else
      let d : Dev := { d with gov := { d.gov with
        pll := d.gov.pll.filter (· ≠ b), pllIdle := d.gov.pllIdle.filter fun e => decide (e.1 ≠ b) } }
      (List.range 27).foldl (fun d k => d.setClk (b * 27 + k) { d.clk (b * 27 + k) with gate := .g3 }) d

/-! ### The Governor (R543 to R547) -/

/-- Boost steps granted. -/
def Dev.granted (d : Dev) : Nat := (d.gov.mills.map fun e => e.2.granted).foldl (· + ·) 0

/-- Mills that lend. -/
def Dev.lenders (d : Dev) : Nat := (d.gov.mills.filter fun e => e.2.lend).length

/-- The mills that may be raised (R545): in G0, of a running context, below level 16. -/
def Dev.raisable (d : Dev) : List Nat :=
  (List.range 216).filter fun p =>
    decide ((d.clk p).gate = .g0) && (d.runningOn p).isSome && decide ((d.clk p).target < 16)

/-- The mill of a list with the lowest level, and of those the lowest number. -/
def Dev.lowest (d : Dev) : List Nat → Option Nat
  | [] => none
  | p :: ps => match d.lowest ps with
    | some q => if (d.clk q).target < (d.clk p).target then some q else some p
    | none => some p

/-- The mill of a list with the highest level, and of those the highest number. -/
def Dev.highest (d : Dev) : List Nat → Option Nat
  | [] => none
  | p :: ps => match d.highest ps with
    | some q => if (d.clk q).target < (d.clk p).target then some p else some q
    | none => some p

/-- Grant up to `n` steps, one at a time (R545). -/
def Dev.grant : Nat → Dev → Dev
  | 0, d => d
  | n + 1, d =>
    match d.lowest d.raisable with
    | some p => Dev.grant n (d.setClk p { d.clk p with target := (d.clk p).target + 1, granted := (d.clk p).granted + 1 })
    | none => d

/-- Withdraw `n` granted steps, one at a time (R546). -/
def Dev.withdrawSteps : Nat → Dev → Dev
  | 0, d => d
  | n + 1, d =>
    match d.highest ((List.range 216).filter fun p => decide (0 < (d.clk p).granted)) with
    | some p => Dev.withdrawSteps n (d.setClk p { d.clk p with target := (d.clk p).target - 1, granted := (d.clk p).granted - 1 })
    | none => d

/-- Throttling moves the level of every mill that runs by one (R547). -/
def Dev.throttleMills (d : Dev) : Dev :=
  (List.range 216).foldl (fun d p =>
    let k := d.clk p
    if k.gate ≠ .g0 then d
    else if d.gov.throttle then
      if -16 < k.target then d.setClk p { k with target := k.target - 1, granted := k.granted - 1 } else d
    else if k.target < 0 then d.setClk p { k with target := k.target + 1 } else d) d

/-- The Governor's loop of 1 µs (R543 to R547), given the average over the last 1 ms. How many steps fit its estimate of the
average is open. -/
def Dev.governor (d : Dev) (watts : Nat) : Dev :=
  let d : Dev := { d with gov := { d.gov with watts := watts } }
  if !d.lehr.dom50 then d
  else
    let hot := d.isActive 2
    let much := decide (d.regFld Reg.GOV_CTL 0 12 < watts)
    let d := if hot then d.throttleSet true 1
      else if much && decide (d.granted = 0) then d.throttleSet true 0
      else if much then d
      else d.throttleSet false d.gov.cause
    let d := d.throttleMills
    let funded := d.lenders * d.regFld Reg.GOV_CTL 16 8
    let back := max d.gov.reclaim (d.granted - funded)
    let d := Dev.withdrawSteps back { d with gov := { d.gov with reclaim := 0 } }
    if d.gov.throttle then d.count Reg.GOV_THROTTLE 1
    else if !bit (d.reg Reg.GOV_CTL) 31 ∨ much ∨ funded ≤ d.granted then d
    else
      let fits := Config.freeNat d.freeIx
      Dev.grant (min (funded - d.granted) fits) d.draw

/-! ### Comparators and inputs -/

/-- SUPPLY_50V_WARN (R538, R608). -/
def execSupply50vWarn (mv : Nat) (s : State) : Res := .next (onDev (fun d => d.supplyWarn 0 0x0002 mv 42000 58000) s)

/-- SUPPLY_50V_OFF (R538, R608). -/
def execSupply50vOff (mv : Nat) (s : State) : Res := .next (s.supplyOff mv)

/-- SUPPLY_12V_WARN (R538). -/
def execSupply12vWarn (mv : Nat) (s : State) : Res := .next (onDev (fun d => d.supplyWarn 1 0x0004 mv 11400 12600) s)

/-- DIE_TEMP_THROTTLE (R538, R539, R547). -/
def execDieTempThrottle (die temp : Nat) (s : State) : Res := .next (onDev (fun d => d.dieThrottle die temp (s.powerGoes || s.parkGoes)) s)

/-- DIE_TEMP_PARK (R538, R539). -/
def execDieTempPark (die : Nat) (temp : Option Nat) (s : State) : Res := .next (onDev (fun d => d.diePark die temp s.powerGoes) s)

/-- THERMAL_TRIP (R538, R624). -/
def execThermalTrip (die temp : Nat) (s : State) : Res := .next (s.trip die temp)

/-- COOLANT_WARN (R538, R539). -/
def execCoolantWarn (temp : Option Nat) (s : State) : Res := .next (onDev (fun d => d.coolantWarn temp) s)

/-- COOLANT_PARK (R538, R539). -/
def execCoolantPark (temp : Nat) (s : State) : Res := .next (onDev (fun d => d.coolantPark temp s.powerGoes) s)

/-- REFCLK_FAULT (R538, R539, R559). -/
def execRefclkFault (s : State) : Res := .next (onDev (fun d => d.refclkFault s.powerGoes) s)

/-- SITE_ALERT_ASSERT (R539, R557, R558). -/
def execSiteAlertAssert (s : State) : Res := .next (onDev (fun d => d.siteAssert s.powerGoes) s)

/-- SITE_ALERT_DEASSERT (R557, R563). -/
def execSiteAlertDeassert (s : State) : Res := .next (onDev Dev.siteRelease s)

/-- COMPARATOR_WITHDRAW (R538). -/
def execComparatorWithdraw (b : Fin 10) (s : State) : Res := .next (onDev (fun d => d.withdraw b) s)

/-- INPUT_CHATTER_HOLD (R556). -/
def execInputChatterHold (input : Fin 4) (s : State) : Res := .next (s.chatterHold input)

/-- CHATTER_HOLD_END (R556). -/
def execChatterHoldEnd (input : Fin 4) (s : State) : Res := .next (onDev (fun d => d.chatterEnd input) s)

/-- CRYSTAL_LOST (R615). -/
def execCrystalLost (s : State) : Res := .next (onDev (fun d => d.crystalSet false) s)

/-- CRYSTAL_RESTORED (R615). -/
def execCrystalRestored (s : State) : Res := .next (onDev (fun d => d.crystalSet true) s)

/-! ### Clocks and the Governor -/

/-- GOVERNOR_TICK (R543 to R547). -/
def execGovernorTick (watts : Nat) (s : State) : Res := .next (onDev (fun d => d.governor watts) s)

/-- MILL_LEND (R544). -/
def execMillLend (m : MillIx) (s : State) : Res := .next (onDev (fun d => d.millLend m) s)

/-- MILL_CLOCK_GATE (R542). -/
def execMillClockGate (m : MillIx) (s : State) : Res := .next (onDev (fun d => d.millGate m) s)

/-- MILL_POWER_GATE (R542). -/
def execMillPowerGate (m : MillIx) (s : State) : Res := .next (onDev (fun d => d.millPowerGate m) s)

/-- MILL_CLOCK_RESTART (R542, R548). -/
def execMillClockRestart (m : MillIx) (s : State) : Res := .next (onDev (fun d => d.millRestart m) s)

/-- MILL_LEVEL_STEP (R540, R549). -/
def execMillLevelStep (m : MillIx) (s : State) : Res := .next (onDev (fun d => d.levelStep m) s)

/-- MILL_PLL_STOP (R541). -/
def execMillPllStop (bd : Fin 8) (s : State) : Res := .next (onDev (fun d => d.pllStop bd) s)

/-! ### Parking -/

/-- PARK_BOUND_EXPIRE (R560). -/
def execParkBoundExpire (c : ICtx) (s : State) : Res := .next (onDev (fun d => d.parkBound c) s)

/-- PARK_BEGIN (R562). -/
def execParkBegin (s : State) : Res := .next (onDev Dev.parkBegin s)

/-- PARK_COMPLETE (R562). -/
def execParkComplete (s : State) : Res := .next (onDev Dev.parkComplete s)

/-- AUTO_UNPARK (R563). -/
def execAutoUnpark (s : State) : Res := .next (onDev Dev.autoUnpark s)

/-- UNPARK_COMPLETE (R564). -/
def execUnparkComplete (s : State) : Res := .next (onDev Dev.unparkComplete s)

/-! ### Supplies, reset and start-up -/

/-- POWER_UP_50V (R536, R537, R617, R619, R624). -/
def execPowerUp50v (s : State) : Res := .next s.powerUp

/-- POWER_LOSS_50V (R623). -/
def execPowerLoss50v (s : State) : Res := .next s.loss50

/-- LEHR_POWER_LOSS (R535). -/
def execLehrPowerLoss (s : State) : Res := .next s.lehrLoss

/-- LEHR_POWER_UP (R535). -/
def execLehrPowerUp (s : State) : Res := .next (onDev Dev.lehrUp s)

/-- MOD_RST_ASSERT (R555, R617). -/
def execModRstAssert (s : State) : Res := .next (if s.dev.heldInput 2 then s else s.modReset)

/-- MOD_RST_RELEASE (R619, R620). -/
def execModRstRelease (s : State) : Res := .next (onDev Dev.modRelease s)

/-- REFCLK_STARTUP_HOLD (R620). -/
def execRefclkStartupHold (s : State) : Res := .next (onDev Dev.refclkHold s)

/-- STARTUP_REFCLK_IN_RANGE (R620). -/
def execStartupRefclkInRange (s : State) : Res := .next (onDev Dev.refclkStart s)

/-- FIRMWARE_BOOT (R516, R517, R567, R569, R619, R623). -/
def execFirmwareBoot (s : State) : Res := .next s.firmwareBoot

/-- POISON_INIT_DONE (R504). -/
def execPoisonInitDone (s : State) : Res := .next (onDev Dev.poisonAll s)

/-- LOADER_READY (R619). -/
def execLoaderReady (s : State) : Res := .next (onDev Dev.loaderReady s)

end Sys2Proof.Machine
end

