-- ==== Sys2Proof/Machine/EccOps.lean ====
section
/-!
DEFINITION. The patrol scrubber (R510), fences that take effect (R526 to R528), and the tick of an idle step.
-/
namespace Sys2Proof.Machine

/-! ### The scrubber (R510) -/

/-- Words of tile memory, over every physical tile, and the address of one of them. -/
def tileWords : Nat := 1728 * (tileSize / 8)
def tileWordAddr (n : Nat) : Nat := tileAddr (n / (tileSize / 8)) (n % (tileSize / 8) * 8)

/-- A scrub period ends: the corrected words of R513 are counted anew. -/
def Dev.scrubPeriod (d : Dev) (hbm : Bool) : Dev :=
  { d with ecc := { d.ecc with rowCe := d.ecc.rowCe.filter fun e => e.1.hbm != hbm } }

/-- The scrubber reads its next word of tile memory or of HBM. It rests while memories are not initialised (R504), and HBM in
self-refresh is left alone (R562). -/
def Dev.scrub (d : Dev) (hbm : Bool) : Dev :=
  if d.stage ≠ .ready ∨ (hbm ∧ d.park.stage = .parked) then d
  else
    let n := if hbm then d.ecc.scrubHbm else d.ecc.scrubTile
    let total := if hbm then d.hbmSize / 8 else tileWords
    let next := if n + 1 < total then n + 1 else 0
    let d := (d.readWord 14 (if hbm then 8 * n else tileWordAddr n) true).1
    let d : Dev := if hbm then { d with ecc := { d.ecc with scrubHbm := next } } else { d with ecc := { d.ecc with scrubTile := next } }
    if next = 0 then d.scrubPeriod hbm else d

/-! ### Fences (R526 to R528) -/

/-- A fence is requested by the PF or Skeop, and takes effect at once where it can (R525, R526). -/
def Dev.fenceCommand (d : Dev) (p : Nat) : Dev := (d.requestFence p 0).settleFences

/-- The mill of a deferred fence is still bound to a running context, which is stopped (R526), after a commit that runs (R367). -/
def Dev.fenceExpire (d : Dev) (f : PendingFence) : Dev :=
  match d.ecc.pending.find? fun g => decide (g.mill = f.mill), d.binding f.mill with
  | some _, some (c, _) =>
    if !d.commitRuns c ∧ f.since + cyclesOfUs (d.reg Reg.ECC_FENCE_TMO).toNat ≤ d.cycle then d.deviceStop c 0x0C 0xFFFF sOk else d
  | _, _ => d

/-- Deferred fences beyond ECC_FENCE_TMO (R526). -/
def Dev.fenceTimeout (d : Dev) : Dev := d.ecc.pending.foldl Dev.fenceExpire d

/-! ### An idle step -/

/-- Note from when each bound mill has been idle without a break (R542). -/
def Dev.noteIdle (d : Dev) : Dev :=
  ((List.range 16).flatMap fun c => (d.img c).mills.filter (· < 216)).foldl (fun d p =>
    let k := d.clk p
    match d.millIdle p, k.idleSince with
    | true, none => d.setClk p { k with idleSince := some d.cycle }
    | false, some _ => d.setClk p { k with idleSince := none }
    | _, _ => d) d

/-- A combining node of an open exchange phase holds back a credit (R222). -/
def Dev.redHeld (d : Dev) : Bool := d.seqs.any fun e => decide (e.2.stage = .opened) && e.2.entries.any (·.holdsCredit)

/-- One Race cycle passes: it counts as one of combining back-pressure (R222), repeat records of an ended millisecond are written
(R591), idle mills are noted, and fences that have fallen due take effect (log 1). -/
def Dev.tick (d : Dev) : Dev :=
  let d : Dev := { d with cycle := d.cycle + 1 }
  let d := if d.redHeld then d.count Reg.RACE_RED_HOLD 1 else d
  let d := if d.lehr.dom50 then d.flushPairs else d
  let d : Dev := { d with evr := { d.evr with cycleHead := d.evr.head } }
  d.noteIdle.settleFences

/-! ### Rows -/

/-- SCRUB_READ. -/
def execScrubRead (hbm : Bool) (s : State) : Res := .next (onDev (Dev.settling fun d => d.scrub hbm) s)

/-- FENCE_TIMEOUT. -/
def execFenceTimeout (s : State) : Res := .next (onDev Dev.fenceTimeout s)

end Sys2Proof.Machine
end

