-- ==== Sys2Proof/Machine/Bar2.lean ====
section
/-!
DEFINITION. BAR2 (R452 to R454, R524, R562, R599): the PF's window onto device addresses, and a virtual function's onto the
context virtual space of its context.
-/
namespace Sys2Proof.Machine

/-- Host accesses reach the device: its loader is ready (R619; log 113). -/
def Dev.hostUp (d : Dev) : Bool := decide (d.stage = .ready)

/-- A BAR2 access is refused: logged, and recorded as event 0x8009 (R454). -/
def Dev.bar2Refuse (d : Dev) (f off : Nat) (write : Bool) (status : Nat) : Dev :=
  let c := if f = 0 then 0 else f - 1
  (d.hostError (off % 2 ^ 32) (off / 2 ^ 32 % 2 ^ 16) f c (if write then 4 else 3) status).event 0x8009 f (off % 2 ^ 32) status
    (b2n write)

/-- The device address is in an allocation of an encrypted context (R599). -/
def Dev.inEncrypted (d : Dev) (a n : Nat) : Bool :=
  (List.range 16).any fun c => (d.img c).memKey.isSome && (d.img c).allocs.any fun x => overlaps a n x.start x.size

/-- The device address is in a capture region (R392). -/
def Dev.inCapture (d : Dev) (a n : Nat) : Bool :=
  (List.range 16).any fun c => match (d.stepOf c).capRegion with
    | some r => overlaps a n r.1 r.2
    | none => false

/-- The status of a PF access to `n` bytes at device address `a`. -/
def Dev.pfStatus (d : Dev) (a n : Nat) (write : Bool) : Nat :=
  if d.park.stage = .parked then sPerm
  else match d.place a, d.place (a + n - 1) with
    | .hbm, .hbm => if d.inEncrypted a n || (write && d.inCapture a n) then sPerm else sOk
    | .tile t _, .tile u _ => if t ≠ u then sBound else if write && d.isFenced (t / 8) then sFenced else sOk
    | _, _ => sBound

/-- The device address of an offset in the PF's BAR2 (R453). -/
def Dev.pfBar2 (d : Dev) (off : Nat) : Nat := d.regFld Reg.HST_BAR2_BASE 0 18 * 2 ^ 30 + off

/-- The number that stands for the host in the table of cached translations (R281; log 114). -/
abbrev hostCache : Nat := 216

/-- Translate one piece of a virtual function's access (R453, R454). -/
def Dev.vfXlat (d : Dev) (c va n : Nat) (write : Bool) : Dev × Xlat :=
  if d.vlim c < va + n then (d, .refused sBound)
  else if d.park.stage = .parked then (d, .refused sPerm)
  else d.walk hostCache c va write

/-- The context virtual address of an offset in a virtual function's BAR2. -/
def Dev.vfBar2 (d : Dev) (c off : Nat) : Nat := d.regFld (hostReg Reg.HST_VWIN c) 0 14 * 2 ^ 34 + off

/-- A virtual function's read: its bytes, or the status that refuses it. Bytes of host memory are free. -/
def Dev.vfRead (d : Dev) (c va n : Nat) : Dev × List Byte × Option Nat :=
  (piecesOf va n).foldl (fun (d, bs, bad) (a, m) =>
    if bad.isSome then (d, bs, bad)
    else match d.vfXlat c a m false with
      | (d, .ok true _) => (d.draw, bs ++ freeTail d.freeIx m, none)
      | (d, .ok false addr) =>
        let r := d.read 9 addr m
        match r.bytes with
        | some x => (r.dev, bs ++ x, none)
        | none => (r.dev, bs, some sUe)
      | (d, x) => (d, bs, some (xlatStatus x))) (d, [], none)

/-- A virtual function's write: the status that refuses it. -/
def Dev.vfWrite (d : Dev) (c va : Nat) (bs : List Byte) : Dev × Option Nat :=
  (piecesOf va bs.length).foldl (fun (d, bad) (a, m) =>
    let part := (bs.drop (a - va)).take m
    if bad.isSome then (d, bad)
    else match d.vfXlat c a m true with
      | (d, .ok true addr) => ((d.emit (.hostWrite (d.owner c) addr part)).foldHost c a part, none)
      | (d, .ok false addr) =>
        match d.write 9 addr part with
        | (d, none) => (d.foldWrite addr m, none)
        | (d, some _) => (d, some sUe)
      | (d, x) => (d, some (xlatStatus x))) (d, none)

/-- Answer a read. -/
def Dev.answerRead (d : Dev) (bs : List Byte) (status : Nat) : Dev := { d with reply := some { data := bs, status := status } }

/-- A BAR2 read (R453, R454): all-ones where it cannot complete. -/
def Dev.bar2Read (d : Dev) (f off n : Nat) : Dev :=
  if !d.hostUp || d.numVf < f || n = 0 then d
  else
    let (d, bs, bad) : Dev × List Byte × Option Nat :=
      if f = 0 then
        let a := d.pfBar2 off
        let st := d.pfStatus a n false
        if st ≠ sOk then (d, [], some st)
        else
          let r := d.read 9 a n
          match r.bytes with
          | some x => (r.dev, x, none)
          | none => (r.dev, [], some sUe)
      else d.vfRead (f - 1) (d.vfBar2 (f - 1) off) n
    match bad with
    | none => d.answerRead bs sOk
    | some st => (d.bar2Refuse f off false st).answerRead (List.replicate n 0xFF) st

/-- A BAR2 write (R453, R454): discarded where it cannot complete. -/
def Dev.bar2Write (d : Dev) (f off : Nat) (bs : List Byte) : Dev :=
  if !d.hostUp || d.numVf < f || bs = [] then d
  else
    let (d, bad) : Dev × Option Nat :=
      if f = 0 then
        let a := d.pfBar2 off
        let st := d.pfStatus a bs.length true
        if st ≠ sOk then (d, some st)
        else match d.write 9 a bs with
          | (d, none) => (d.foldWrite a bs.length, none)
          | (d, some _) => (d, some sUe)
      else d.vfWrite (f - 1) (d.vfBar2 (f - 1) off) bs
    match bad with
    | none => d
    | some st => d.bar2Refuse f off true st

end Sys2Proof.Machine
end

