-- ==== Sys2Proof/Machine/MillExec.lean ====
section
/-!
DEFINITION. The execution of mill commands (R111, R112, R121 to R148): order, weight sets, slot memory, passes, drains and
slot clears. Only the order of R111 is modelled, not the cycles of R133 to R147 (R33).
-/
namespace Sys2Proof.Machine

/-! ### Order (R111, R112) -/

/-- A running command touches the slot. -/
def Mill.busySlot (m : Mill) (slot : Nat) : Bool := m.running.any fun r => decide (r.cmd.slot = slot)

/-- A running drain or slot clear touches the slot. -/
def Mill.writerOn (m : Mill) (slot : Nat) : Bool :=
  m.running.any fun r => decide (r.cmd.slot = slot ∧ r.cmd.kind ≠ .pass)

/-- Commands not finished, in queue order. -/
def Mill.unfinished (m : Mill) : List MillCmd := m.running.map (·.cmd) ++ m.queue

/-- The head of the queue starts (R105, R111). -/
def Dev.startHead (d : Dev) (p : Nat) : Dev :=
  let m := d.mill p
  match m.queue with
  | [] => d
  | q :: rest =>
    d.setMill p { m with queue := rest, running := m.running ++ [{ cmd := q, start := d.cycle, mode := (m.slot q.slot).execMode }] }

/-- Remove a command from the queue and from execution. -/
def Mill.drop (m : Mill) (num : Nat) : Mill :=
  { m with queue := m.queue.filter fun q => decide (q.num ≠ num), running := m.running.filter fun r => decide (r.cmd.num ≠ num) }

/-- The oldest running command of a kind. -/
def Mill.oldest (m : Mill) (k : MillKind) : Option MillRun := m.running.find? fun r => decide (r.cmd.kind = k)

/-- An earlier drain that is not finished writes what the command `q` reads at the extents `xs` (R111). -/
def Dev.drainAhead (d : Dev) (p : Nat) (q : MillCmd) (xs : List (Nat × Nat)) : Bool :=
  (d.mill p).unfinished.any fun r =>
    decide (r.kind = .drain ∧ r.num < q.num) && d.extentsMeet p r.ctx (drainWrites r) q.ctx xs

/-- An earlier pass that is not finished still reads what the drain `q` writes (R112). -/
def Dev.passAhead (d : Dev) (p : Nat) (q : MillCmd) : Bool :=
  let m := d.mill p
  m.unfinished.any fun r =>
    decide (r.kind = .pass ∧ r.num < q.num) &&
    (d.extentsMeet p r.ctx (passReads r false) q.ctx (drainWrites q) ||
     (passWld r.w0 && decide (m.loadedFor < r.num ∨ m.loading.any (fun x => x.2 = r.num)) &&
       d.extentsMeet p r.ctx (passReads r true) q.ctx (drainWrites q)))

/-! ### Slot memory (R137, R495, R507) -/

/-- The number of a slot element (R137). -/
def elemNo (slot row col : Nat) : Nat := slot * 32768 + row * 256 + col

/-- What an element reads as; in a slot whose contents are unspecified, a free value (R148). -/
def Mill.elem (m : Mill) (slot row col : Nat) : Word :=
  match (m.slot slot).bad with
  | some ix => Config.freeElem ix (row * 256 + col)
  | none => Tab.get (fun _ => (0 : Word)) m.elems (elemNo slot row col)

/-- The 64-bit word that holds an element. -/
def Mill.elemPair (m : Mill) (w : Nat) : DWord :=
  let g := fun i => (Tab.get (fun _ => (0 : Word)) m.elems i).toNat
  BitVec.ofNat 64 (g (2 * w) + g (2 * w + 1) * 2 ^ 32)

/-- What the check code makes of a slot word: its value and whether it counts as corrected; none where it is
uncorrectable (R495). -/
def Mill.checkPair (m : Mill) (p w : Nat) : Option (DWord × Bool) :=
  let f := Tab.get (fun _ => (0 : BitVec 80)) m.flips w
  let n := popCount 80 f.toNat
  let v := m.elemPair w
  if n = 0 then some (v, false)
  else if n ≤ 2 then some (v, true)
  else if n = 3 then none
  else Config.flipOutcome (2 ^ 60 + p * 2 ^ 32 + w) v f

/-- Store a slot word and clear its check state. -/
def Mill.putPair (m : Mill) (w : Nat) (v : DWord) : Mill :=
  { m with elems := Tab.set (fun _ => (0 : Word)) (Tab.set (fun _ => (0 : Word)) m.elems (2 * w) (v.extractLsb' 0 32)) (2 * w + 1)
             (v.extractLsb' 32 32)
           flips := Tab.set (fun _ => (0 : BitVec 80)) m.flips w 0 }

/-- Read the slot words `w` to `w + n - 1`: corrected ones are counted and written back (R496); the first uncorrectable
one is answered. -/
def Dev.readPairs (d : Dev) (p : Nat) : (n w : Nat) → Dev × Option Nat
  | 0, _ => (d, none)
  | n + 1, w =>
    match (d.mill p).checkPair p w with
    | none => (d, some w)
    | some (_, false) => d.readPairs p n (w + 1)
    | some (v, true) =>
      (((d.setMill p ((d.mill p).putPair w v)).flipSlot p 14 w).count Reg.ECC_TM_CE 1).readPairs p n (w + 1)

/-- Write an element list from column `c0` of a slot row, applying an armed flip mask to the first word (R511). -/
def Dev.writeRow (d : Dev) (p slot row c0 : Nat) (vs : List Word) : Dev :=
  let m := d.mill p
  let e0 := elemNo slot row c0
  let elems := vs.zipIdx.foldl (fun t v => Tab.set (fun _ => (0 : Word)) t (e0 + v.2) v.1) m.elems
  let flips := (List.range (vs.length / 2)).foldl (fun t i => Tab.set (fun _ => (0 : BitVec 80)) t (e0 / 2 + i) 0) m.flips
  let d := d.setMill p { m with elems := elems, flips := flips }
  if vs = [] then d else d.flipSlot p 4 (e0 / 2)

/-! ### Uncorrectable reads (R148, R149, R509, R525) -/

/-- The command that met an uncorrectable read stops: its slot is unspecified, and the queue enters FAULT. -/
def Dev.stopCmd (d : Dev) (p : Nat) (q : MillCmd) : Dev :=
  let m := (d.mill p).drop q.num
  let m := m.setSlot q.slot { m.slot q.slot with bad := some d.freeIx }
  d.draw.setMill p ((m.enterFault q.tile sUe).fail q.tile q.num sUe)

/-- An uncorrectable band read of tile `i` at device address `wa`: event 0x2002. -/
def Dev.bandUe (d : Dev) (p : Nat) (q : MillCmd) (i wa : Nat) : Dev :=
  let off := (wa - tileAddr (p * 8 + i) 0) % 2 ^ 23
  ((d.stopCmd p q).millError p (i, off) q.tile 3 sUe).eventSrc 0x2002 (srcMill p) i off q.slot q.kind.code

/-- What the check block makes of an uncorrectable slot read (R509): the capture and its location, event 0xB001, the count, and the
fence of R525 at the second one of a row. `a` and `l` are the address and the location, which are given nowhere (log 39). -/
def Dev.slotUeEcc (d : Dev) (p slot row agent a l : Nat) : Dev :=
  let fresh := !bit (d.reg Reg.ECC_ERR_INFO) 31
  let d := d.capture Reg.ECC_ERR_ADDR_LO a (p * 2 ^ 16) (1 * 256 + sUe)
  let d := if fresh then d.setReg Reg.ECC_ERR_LOC (BitVec.ofNat 32 l) else d
  let d := (d.event 0xB001 (0x8000 + p) a agent 0).count Reg.ECC_TM_UE 1
  let key := (p, slot * 128 + row)
  if d.ecc.slotUe.contains key then d.requestFence p 2
  else { d with ecc := { d.ecc with slotUe := d.ecc.slotUe ++ [key] } }

/-- An uncorrectable slot read at slot word `w` by agent `agent`: events 0x2003 and 0xB001, and the fence of R525 at the
second one of a row. The slot word's address, its column group and its location are given nowhere (log 39). Event 0x2003 has the
SOURCE of the mill, as 0x2001 and 0x2002 do (DESIGN CHOICE, log 186). -/
def Dev.slotUeRead (d : Dev) (p : Nat) (q : MillCmd) (agent w : Nat) : Dev :=
  let row := 2 * w / 256 % 128
  let (a, d) := d.freeWord
  let (g, d) := d.freeWord
  let (l, d) := d.freeWord
  let d := d.stopCmd p q
  let d := d.millError p (a / 2 ^ 24 % 8, a % 2 ^ 23) q.tile 4 sUe
  (d.eventSrc 0x2003 (srcMill p) q.slot row g q.kind.code).slotUeEcc p q.slot row agent a l

/-! ### Weights (R119, R121, R134) -/

/-- Whether a set holds the weights numbered `wn`. -/
def Mill.holds (m : Mill) (i : Fin 2) (wn : Nat) : Bool :=
  decide (m.sets[i].pass = wn) && (decide (i.val = m.active) || decide (m.sets[Fin.ofNat 2 m.active].pass ≠ wn))

/-- The set that holds the weights numbered `wn`. -/
def Mill.setOf (m : Mill) (wn : Nat) : Option WeightSet :=
  ((List.finRange 2).find? fun i => m.holds i wn).map fun i => m.sets[i]

/-- Read the same context extent in the eight tiles of a mill; the first tile that fails is answered with the word: the
lowest-numbered one (DESIGN CHOICE, log 185). -/
def Dev.readBands (d : Dev) (p k a n : Nat) : (todo : Nat) → Dev × List (List Byte) × Option (Nat × Nat)
  | 0 => (d, [], none)
  | m + 1 =>
    let i := 7 - m
    let r := d.read 4 (ctxAddr (p * 8 + i) (d.bandCtx p i k) a) (alignUp 8 n)
    match r.bytes with
    | none => (r.dev, [], some (i, r.bad.getD 0))
    | some bs =>
      let rest := r.dev.readBands p k a n m
      (rest.1, bs :: rest.2.1, rest.2.2)

/-- The pass for which a load comes next, and the inactive set, where the load may begin (R134). -/
def Dev.nextLoad (d : Dev) (p : Nat) : Option (Nat × MillCmd) :=
  let m := d.mill p
  if m.loading.isSome then none
  else match m.unfinished.find? fun q => decide (q.kind = .pass) && passWld q.w0 && decide (m.loadedFor < q.num) with
    | none => none
    | some q =>
      let i : Fin 2 := Fin.ofNat 2 (1 - m.active)
      let used := m.unfinished.any fun r => decide (r.kind = .pass) && m.holds i r.wnum
      if used || d.drainAhead p q (passReads q true) then none else some (i.val, q)

/-- The operand of element (k, n) of a band's weights (R121). -/
def weightElem (pr : Pair2) (w0 : Word) (bs : List Byte) (k n : Nat) : Elem :=
  let code := packedElem pr.w bs (k * pr.cols + n)
  if pr.scaled then
    elemOf pr.w (passMx w0) code (byteAt bs (pr.depth * pr.cols * pr.w.width / 8 + k / passBlock w0 * pr.cols + n))
  else elemUnscaled pr.w code

/-- The operand of element (r, k) of a band's activations (R122), of `m` rows. -/
def actElem (pr : Pair2) (w0 : Word) (bs : List Byte) (m r k : Nat) : Elem :=
  let code := packedElem pr.a bs (r * pr.depth + k)
  if pr.scaled then
    let n := pr.depth / passBlock w0
    elemOf pr.a (passMx w0) code (byteAt bs (m * (pr.depth * pr.a.width / 8) + r * n + k / passBlock w0))
  else elemUnscaled pr.a code

/-- Format errors among the weights of eight bands. -/
def weightErrs (pr : Pair2) (w0 : Word) (bands : List (List Byte)) : Nat :=
  (bands.map fun bs => ((List.range (pr.depth * pr.cols)).filter fun i =>
    (weightElem pr w0 bs (i / pr.cols) (i % pr.cols)).fmtErr).length).foldl (· + ·) 0

/-- Format errors among the activations of eight bands. -/
def actErrs (pr : Pair2) (w0 : Word) (m : Nat) (bands : List (List Byte)) : Nat :=
  (bands.map fun bs => ((List.range (m * pr.depth)).filter fun i =>
    (actElem pr w0 bs m (i / pr.depth) (i % pr.depth)).fmtErr).length).foldl (· + ·) 0

/-- The weights of the load in progress have been read and become active; an uncorrectable word stops their pass. -/
def Dev.loadDone (d : Dev) (p : Nat) : Dev :=
  let m := d.mill p
  match m.loading with
  | none => d
  | some (i, num) =>
    match m.unfinished.find? fun q => decide (q.num = num) with
    | none => d.setMill p { m with loading := none }
    | some q =>
      match passPair (passFmtW q.w0) (passFmtA q.w0) with
      | none => d
      | some pr =>
        let (d, bands, bad) := d.readBands p q.ctx (passWaddr q.w0) (weightBytes pr (passBlock q.w0)) 8
        let m := d.mill p
        let bands' := if bad.isNone then bands else []
        let d := d.setMill p { m with
          loading := none, active := i, sets := m.sets.set (Fin.ofNat 2 i) { w0 := q.w0, bands := bands', pass := num } }
        match bad with
        | some (t, wa) => d.bandUe p q t wa
        | none => d.count (millReg Reg.MILL_FMT_ERR p) (weightErrs pr q.w0 bands)

/-! ### Passes (R128 to R132, R139, R140) -/

/-- A value with a saturation met on the way to it. -/
structure Acc where
  val : FVal
  sat : Bool

/-- The exact sum of one band's products for row `r` and column `n` (R128, R129). -/
def bandSum (pr : Pair2) (w0 : Word) (wb ab : List Byte) (m r n : Nat) : FVal :=
  ((List.range pr.depth).map fun k => (weightElem pr w0 wb k n).val.mul (actElem pr w0 ab m r k).val).foldl FVal.add
    (.fin false 0 0)

/-- `rne` to FP32 with saturation (R129, R132). -/
def rneAcc (x : FVal) : Acc :=
  let c := Fmt.fp32.narrow1 .rne x
  { val := f32 (BitVec.ofNat 32 c.code), sat := c.sat }

/-- y(r, c) of a pass: exact, or the FP32 chain of BF16 and FP16 (R128, R129). -/
def passY (pr : Pair2) (w0 : Word) (wbs abs : List (List Byte)) (m r n : Nat) : Acc :=
  let sums := (wbs.zip abs).map fun b => bandSum pr w0 b.1 b.2 m r n
  if pr.scaled then { val := sums.foldl FVal.add (.fin false 0 0), sat := false }
  else match sums with
    | [] => { val := .fin false 0 0, sat := false }
    | s :: rest => rest.foldl (fun c x => let y := rneAcc (c.val.add x); { y with sat := y.sat || c.sat }) (rneAcc s)

/-- What a pass makes of one element: its word, and what it counts. -/
structure Added where
  word : Word
  sat : Bool
  nan : Bool

/-- SUM and SUMSQ (R130, R139): `old` plus y or its square, rounded once; an exact zero is +0. -/
def addElem (mode : Nat) (rnd : Rnd) (old : Word) (y : Acc) : Added :=
  let inc := if mode = 1 then y.val.mul y.val else y.val
  match y.val, f32 old with
  | .nan, _ => { word := nan32, sat := y.sat, nan := true }
  | _, .nan => { word := nan32, sat := y.sat, nan := false }
  | _, o =>
    match o.add inc with
    | .fin _ 0 _ => { word := 0, sat := y.sat, nan := false }
    | s =>
      let c := Fmt.fp32.narrow1 rnd s
      { word := BitVec.ofNat 32 c.code, sat := c.sat || y.sat, nan := false }

/-- The three statistics of a column (R140) with the saturations of mean and m2. -/
structure Stat where
  n : Word
  mean : Word
  m2 : Word
  satMean : Bool
  satM2 : Bool
  nan : Bool

/-- `rne` to an FP32 word. -/
def rneWord (x : FVal) : Word × Bool := let c := Fmt.fp32.narrow1 .rne x; (BitVec.ofNat 32 c.code, c.sat)

/-- One sample (R140). -/
def Stat.sample (s : Stat) (y : Acc) : Stat :=
  let n := f32Add s.n 0x3F800000
  let (dv, s1) := rneWord (y.val.add (f32 s.mean).neg)
  let (mean, s2) := rneWord ((f32 s.mean).add (f32 (f32Div dv n)))
  let (e, s3) := rneWord (y.val.add (f32 mean).neg)
  let (g, s4) := rneWord ((f32 dv).mul (f32 e))
  let (m2, s5) := rneWord ((f32 s.m2).add (f32 g))
  { n := n, mean := mean, m2 := m2, satMean := s.satMean || y.sat || s1 || s2
    satM2 := s.satM2 || s1 || s3 || s4 || s5, nan := s.nan || decide (y.val = .nan) }

/-- Columns of the slot that a pass writes: the first, and their number (R114). -/
def passCols (pr : Pair2) (w0 : Word) : Nat × Nat := (if pr.cols = 256 then 0 else 128 * passColh w0, pr.cols)

/-- The rows of a slot that a pass reads and writes (R130, R140). -/
def passRows (mode m : Nat) : Nat := if mode = 2 then 3 else m

/-- Read the slot rows of a pass; the first uncorrectable word is answered. -/
def Dev.readRows (d : Dev) (p slot c0 n : Nat) : List Nat → Dev × Option Nat
  | [] => (d, none)
  | r :: rs =>
    match d.readPairs p (n / 2) (elemNo slot r c0 / 2) with
    | (d, some w) => (d, some w)
    | (d, none) => d.readRows p slot c0 n rs

/-- The slot adds of a SUM or SUMSQ pass. -/
def Dev.passSum (d : Dev) (p c : Nat) (run : MillRun) (pr : Pair2) (wbs abs : List (List Byte)) : Dev :=
  let q := run.cmd
  let rows := passM q.w1
  let (c0, n) := passCols pr q.w0
  let seed := d.stepSeed c
  let ms := d.mill p
  let added := (List.range rows).map fun r => (List.range n).map fun j =>
    let idx := q.w2.toNat + r * 256 + (c0 + j)
    addElem run.mode (rndOf (passRnd q.w0) seed q.tid.toNat idx 1) (ms.elem q.slot r (c0 + j))
      (passY pr q.w0 wbs abs rows r j)
  let d := added.zipIdx.foldl (fun d row => d.writeRow p q.slot row.2 c0 (row.1.map (·.word))) d
  let all := added.flatten
  d.slotTally p (all.filter (·.sat)).length (all.filter (·.nan)).length

/-- The samples of a STATS pass. A NaN sample sets two output elements of its column, mean and m2; saturations count once per
element and pass (R132, R177; log 40), those of the chain on the mean (DESIGN CHOICE, log 183). -/
def Dev.passStats (d : Dev) (p : Nat) (run : MillRun) (pr : Pair2) (wbs abs : List (List Byte)) : Dev :=
  let q := run.cmd
  let rows := passM q.w1
  let (c0, n) := passCols pr q.w0
  let ms := d.mill p
  let stats := (List.range n).map fun j =>
    let s0 : Stat :=
      { n := ms.elem q.slot 0 (c0 + j), mean := ms.elem q.slot 1 (c0 + j), m2 := ms.elem q.slot 2 (c0 + j)
        satMean := false, satM2 := false, nan := false }
    (List.range rows).foldl (fun s r => s.sample (passY pr q.w0 wbs abs rows r j)) s0
  let d := d.writeRow p q.slot 0 c0 (stats.map (·.n))
  let d := d.writeRow p q.slot 1 c0 (stats.map (·.mean))
  let d := d.writeRow p q.slot 2 c0 (stats.map (·.m2))
  d.slotTally p ((stats.filter (·.satMean)).length + (stats.filter (·.satM2)).length) (2 * (stats.filter (·.nan)).length)

/-- How many rows of a pass had entered band 0 when it stopped at slot word `w` (R133): row r enters sixteen cycles before slot
row r is read (log 187). -/
def rowsEntered (rows w : Nat) : Nat := min rows (2 * w / 256 % 128 + 17)

/-- A pass ends (R133): operands read, slot rows read, results written. A slot whose contents were unspecified stays
so, with other free values. How many rows had entered band 0 when an activation reads uncorrectable is given nowhere (log 187). -/
def Dev.passFinish (d : Dev) (p : Nat) : Dev :=
  match (d.mill p).oldest .pass, d.binding p with
  | some run, some (c, _) =>
    let q := run.cmd
    match passPair (passFmtW q.w0) (passFmtA q.w0), (d.mill p).setOf q.wnum with
    | some pr, some ws =>
      if d.drainAhead p q (passReads q false) || (passWld q.w0 && decide ((d.mill p).loadedFor < q.num)) then d
      else
        let rows := passM q.w1
        let (d, abs, bad) := d.readBands p q.ctx (passAaddr q.w1) (actBytes pr (passBlock q.w0) rows) 8
        match bad with
        | some (t, wa) =>
          (d.draw.count (millReg Reg.MILL_ROWS p) (Config.freeNat d.freeIx % (rows + 1))).bandUe p q t wa
        | none =>
          let (c0, n) := passCols pr q.w0
          let wasBad := ((d.mill p).slot q.slot).bad.isSome
          let (d, badWord) := d.readRows p q.slot c0 n (List.range (passRows run.mode rows))
          match badWord with
          | some w => (d.count (millReg Reg.MILL_ROWS p) (rowsEntered rows w)).slotUeRead p q 4 w
          | none =>
            let d := d.count (millReg Reg.MILL_ROWS p) rows
            let d := d.count (millReg Reg.MILL_FMT_ERR p) (actErrs pr q.w0 rows abs)
            let unknown := wasBad || ws.bands.isEmpty
            let d := if ws.bands.isEmpty then d
              else if run.mode = 2 then d.passStats p run pr ws.bands abs
              else d.passSum p c run pr ws.bands abs
            let m := (d.mill p).drop q.num
            if unknown then d.draw.setMill p (m.setSlot q.slot { m.slot q.slot with bad := some d.freeIx })
            else d.setMill p m
    | _, _ => d
  | _, _ => d

/-! ### Drains (R141 to R147) -/

/-- The row whose values a drain takes, by mode and OUT (R141). -/
def drainedRows (mode out row : Nat) : List Nat :=
  if mode = 2 then (if out = 0 then [1] else if out = 2 then [0] else [0, 2]) else [row]

/-- The value of column `c` that a drain takes (R141). -/
def Mill.drained (m : Mill) (slot mode out row c : Nat) : Word :=
  if mode = 2 then
    if out = 0 then m.elem slot 1 c
    else if out = 2 then m.elem slot 0 c
    else
      let n := m.elem slot 0 c
      if n = 0 then 0 else f32Div (m.elem slot 2 c) n
  else m.elem slot row c

/-- The slot row of R127's element index; for a variance it is given nowhere (log 41). -/
def drainIdxRow (mode out row : Nat) : Nat :=
  if mode = 2 then (if out = 0 then 1 else if out = 2 then 0 else Config.varianceRow % 128) else row

/-- What a drain writes of one row in one tile: the data bytes, the scale bytes, and the tally (R143 to R146). -/
def drainRow (f : Fmt) (w1 : Word) (rnd : Nat → Rnd) (vals : List Word) : List Byte × List Byte × Tally :=
  let xs := vals.map f32
  if f = .fp32 then
    (bytesOfWords vals, [], { sat := 0, ftz := 0, nan := (xs.filter (· = .nan)).length, fmt := 0 })
  else if !drainScaled f then
    let cs := xs.zipIdx.map fun x => f.narrow1 (rnd x.2) x.1
    (packElems f (cs.map (·.code)), [], tally cs)
  else
    let n := drainBlock w1
    let bl := (List.range (32 / n)).map fun j =>
      narrowBlock f (drainMx w1) (fun i => rnd (j * n + i)) ((xs.drop (j * n)).take n)
    let cs := bl.flatMap (·.2)
    (packElems f (cs.map (·.code)), bl.map fun b => BitVec.ofNat 8 b.1, tally cs)

/-- Add two tallies. -/
def Tally.add (a b : Tally) : Tally :=
  { sat := a.sat + b.sat, ftz := a.ftz + b.ftz, nan := a.nan + b.nan, fmt := a.fmt + b.fmt }

/-- A drain in progress: the device, the scale bytes per tile, the rows written and their tally, and the slot word that stopped
it. -/
structure Draining where
  dev : Dev
  scales : List (List Byte)
  rows : Nat
  y : Tally
  bad : Option Nat

/-- Drain one slot row to the eight tiles (R143), in whole words (R506). A drain that meets an uncorrectable row has written every row before it
(DESIGN CHOICE, log 184). -/
def Draining.row (g : Draining) (p seed : Nat) (run : MillRun) (f : Fmt) (i : Nat) : Draining :=
  let q := run.cmd
  let out := drainOut q.w1
  let row := drainRow0 q.w0 + i
  if g.bad.isSome then g
  else match g.dev.readRows p q.slot 0 256 (drainedRows run.mode out row) with
  | (d, some w) => { g with dev := d, bad := some w }
  | (d, none) =>
    let m := d.mill p
    let irow := drainIdxRow run.mode out row
    let parts := (List.range 8).map fun t =>
      drainRow f q.w1 (fun j => rndOf (drainRnd q.w1) seed q.tid.toNat (drainDidx q.w1 * 32768 + irow * 256 + (32 * t + j)) 0)
        ((List.range 32).map fun j => m.drained q.slot run.mode out row (32 * t + j))
    let d := parts.zipIdx.foldl (fun d x =>
      d.writeWords 5 (ctxAddr (p * 8 + x.2) (d.bandCtx p x.2 q.ctx) (drainDst q.w0 + i * drainPitch f)) x.1.1) d
    { dev := d, scales := (g.scales.zip parts).map fun x => x.1 ++ x.2.2.1, rows := g.rows + 1
      y := parts.foldl (fun y x => y.add x.2.2) g.y, bad := none }

/-- A drain ends: rows, then the padded scales, and its counts (R143 to R146). -/
def Dev.drainFinish (d : Dev) (p : Nat) : Dev :=
  match (d.mill p).oldest .drain, d.binding p with
  | some run, some (c, _) =>
    let q := run.cmd
    match fmtOf (drainFmt q.w1) with
    | none => d
    | some f =>
      if d.passAhead p q then d
      else
        let rows := drainRows q.w0
        let g0 : Draining :=
          { dev := d, scales := List.replicate 8 [], rows := 0, y := { sat := 0, ftz := 0, nan := 0, fmt := 0 }, bad := none }
        let g := (List.range rows).foldl (fun g i => g.row p (d.stepSeed c) run f i) g0
        match g.bad with
        | some w => ((g.dev.drainTally p g.y).guardTally c q.tid p (g.rows * 256) g.y).slotUeRead p q 5 w
        | none =>
          let d := if drainScaled f then
              g.scales.zipIdx.foldl (fun d x =>
                let n := drainScaleBytes f q.w1 rows
                d.writeWords 5 (ctxAddr (p * 8 + x.2) (d.bandCtx p x.2 q.ctx) (drainDst q.w0 + rows * drainPitch f))
                  (x.1 ++ List.replicate (n - x.1.length) 0)) g.dev
            else g.dev
          let d := (d.drainTally p g.y).guardTally c q.tid p (rows * 256) g.y
          d.setMill p ((d.mill p).drop q.num)
  | _, _ => d

/-! ### Slot clears (R125) -/

/-- A `mill.smode` ends: every element of its slot is +0, and the slot has its mode. -/
def Dev.smodeFinish (d : Dev) (p : Nat) : Dev :=
  match (d.mill p).oldest .smode with
  | none => d
  | some run =>
    let q := run.cmd
    let m := (d.mill p).drop q.num
    let out := fun (k : Nat) => decide (k < q.slot * 32768 ∨ (q.slot + 1) * 32768 ≤ k)
    let m : Mill := { m with elems := m.elems.filter fun e => out e.1, flips := m.flips.filter fun e => out (2 * e.1) }
    let d := d.setMill p (m.setSlot q.slot { m.slot q.slot with execMode := fld q.w0 0 2, bad := none })
    d.writeRow p q.slot 0 0 [0, 0]

end Sys2Proof.Machine
end

