-- ==== Sys2Proof/Machine/Preempt.lean ====
section
/-!
DEFINITION. Pre-emption and resume (R488 to R491, R150, R193, R254, R303, R358).
-/
namespace Sys2Proof.Machine

/-! ### Request and quiesce (R488, R489) -/

/-- Virtual ID 0 of a context, its own object or a shared one it is mapped to, has DOMAIN = 1 (R488). -/
def Dev.domainBarrier (d : Dev) (c : Nat) : Bool :=
  let (st, p) := d.translate c 0
  decide (st = sOk) && (d.obj p).domain

/-- PREEMPT (R482, R488): the context keeps running to its next boundary. -/
def Dev.preempt (d : Dev) (c : Nat) : Dev :=
  match d.command c 4 with
  | none => d
  | some _ =>
    let i := d.img c
    match i.state with
    | .preempted => d.complete c sOk
    | .running =>
      if !i.preempt || d.domainBarrier c then d.complete c sPerm
      else d.setImg c { i with wait := if i.withheld && !d.commitRuns c then .quiesce else .preemptAtBoundary }
    | _ => d.complete c sPerm

/-- No frame of the context's job is queued or unacknowledged on a port. A HOP or RING frame's own answer comes when its reader frees
the entry (R259, R266), which a save does not wait for; its delivery is what the link acknowledges (DEDUCED, log 195). -/
def Dev.framesQuiet (d : Dev) (c : Nat) : Bool :=
  let job := (d.coll c).job
  decide ((d.coll c).ranks = []) || (List.range 18).all fun n =>
    (d.port n).retry.all (fun f => decide (f.job ≠ job)) && (d.port n).waiting.all fun f => decide (f.1.job ≠ job)

/-- What the quiesce waits for has come (R489): mill queues IDLE, the packets, events and frames of its tiles answered,
collective operations finished, Sluice queues EMPTY or in HALT. -/
def Dev.ctxQuiet (d : Dev) (c : Nat) : Bool :=
  (d.img c).mills.all (fun p => (d.mill p).queue.isEmpty && (d.mill p).running.isEmpty) &&
  d.race.all (fun p => decide (p.ictx ≠ c)) && d.syncFly.all (fun e => decide (e.ictx ≠ c)) && d.framesQuiet c &&
  (d.coll c).ops.all (fun o => decide (o.stage ≠ .running)) &&
  (d.tilesOf c).all fun t => d.queuesQuiet t

/-- The context is quiet and the save begins; a mill queue that has failed meanwhile stops the context instead, the boundary
still standing (R109). -/
def Dev.quiesced (d : Dev) (c : Nat) : Dev :=
  if (d.img c).wait ≠ .quiesce then d
  else match d.millFault c with
  | some (t, st) => d.deviceStop c 0x04 t st
  | none => if d.ctxQuiet c then d.setImg c { d.img c with wait := .saving } else d

/-! ### The save (R150, R254, R490) -/

/-- The first byte and the length of the windows of a mill's tiles (R37). -/
def millWindow (p : Nat) : Nat := tileAddr (8 * p) 0
abbrev millSpan : Nat := 8 * tileWindow

/-- The save reads the memory of a mill's tiles: a word with an error is corrected or reported as at any read (R496, R509). Poison is
carried as poison, and is no read (log 110). -/
def Dev.saveRead (d : Dev) (p : Nat) : Dev :=
  let a := millWindow p
  ((d.ecc.flips.map (·.1)).filter fun w => decide (a ≤ w ∧ w < a + millSpan)).foldl (fun d w => (d.readWord 13 w true).1) d

/-- And its slots: an uncorrectable word is reported, and stays uncorrectable, in the saved slots too
(R496, R509; DEDUCED, log 204). -/
def Dev.saveSlots (d : Dev) (p : Nat) : Dev :=
  ((d.mill p).flips.map (·.1)).foldl (fun d w =>
    match d.readPairs p 1 w with
    | (d, none) => d
    | (d, some w) =>
      let (a, d) := d.freeWord
      let (l, d) := d.freeWord
      d.slotUeEcc p (w / 16384) (w / 128 % 128) 13 a l) d

/-- The memory of a mill's tiles by offset in its windows: the words that can be read, corrected where the code allows
(R496); an uncorrectable word is not carried over. -/
def Dev.saveMem (d : Dev) (p : Nat) : List Host.Cell :=
  let a := millWindow p
  (d.mem.filter fun x => decide (a ≤ x.1 ∧ x.1 < a + millSpan)).filterMap fun x =>
    let w := alignDown 8 x.1
    match d.checkWord w with
    | .ok v => some (x.1 - a, v.getD (x.1 - w) 0)
    | .corrected v => some (x.1 - a, v.getD (x.1 - w) 0)
    | .ue _ => none

/-- A Sluice queue as the save holds it: its limit, CODE and state (R303), and the number of its next fault (R305). -/
def SQueue.saved (q : SQueue) : SQueue := { SQueue.reset with limit := q.limit, code := q.code, halt := q.halt, faultId := q.faultId }

/-- A Sluice queue that takes what a save holds of another. -/
def SQueue.resumed (q s : SQueue) : SQueue := { q.fresh with limit := s.limit, code := s.code, halt := s.halt, faultId := s.faultId }

/-- The page offsets of a tile's conversion counters. -/
def cvtCounters : List Nat := [0x20, 0x24, 0x28, 0x2C]

/-- What R150 saves of a mill: its slots and its weights. Its queue is empty and not in FAULT when it is resumed (R138). -/
def Mill.saved (m : Mill) : Mill := { m with queue := [], running := [], fault := none, failed := [] }

/-- One mill's part of the save area. -/
def Dev.saveMill (d : Dev) (p : Nat) : SavedMill :=
  { mem := d.saveMem p
    tiles := (List.range 8).map fun k => d.tile (8 * p + k)
    seqs := (List.range 8).map fun k => d.seq (8 * p + k)
    mill := (d.mill p).saved
    queues := (List.range 32).map fun q => (d.queue (32 * p + q)).saved
    cvt := (List.range 8).map fun k => cvtCounters.map fun o => d.reg (tileOff (8 * p + k) o) }

/-- The save area is written (R489, R490): its layout is internal to the stepping, so its bytes are free (log 196). -/
def Dev.saveArea (d : Dev) (c : Nat) : Dev :=
  ((d.img c).allocsOf .save).foldl (fun d a =>
    let n := a.size / 4
    let bs := (List.range n).flatMap fun k => bytesOf 4 (Config.freeWord (d.freeIx + k)).toNat
    ({ d with freeIx := d.freeIx + n } : Dev).writeWords 13 a.start bs) d

/-- Waiters and held events of a context's tiles in an object: while it is away, they name its logical tiles (R254). -/
def Dev.sendAway (d : Dev) (c : Nat) (o : SyncObj) : SyncObj :=
  let mark := fun (t : Nat) (a : Option (Nat × Nat)) =>
    match a, d.binding (t / 8) with
    | none, some (k, l) => if k = c then some (c, 8 * l + t % 8) else none
    | a, _ => a
  { o with
    waiters := o.waiters.map fun w => { w with away := mark w.tile w.away }
    held := o.held.map fun e => { e with away := match e.tile with
      | some t => mark t e.away
      | none => e.away } }

/-- The reverse: on resume they name the tiles of the new binding. -/
def Dev.callBack (d : Dev) (c : Nat) (o : SyncObj) : SyncObj :=
  let back := fun (a : Option (Nat × Nat)) => match a with
    | some (k, lt) => if k = c then d.physical c lt else none
    | none => none
  { o with
    waiters := o.waiters.map fun w => match back w.away with
      | some t => { w with tile := t, away := none }
      | none => w
    held := o.held.map fun e => match back e.away with
      | some t => { e with tile := some t, away := none }
      | none => e }

/-- The mill is released with its state saved: its queues do not close (log 111). -/
def Dev.releaseMill (d : Dev) (p : Nat) : Dev :=
  let d := (List.range 8).foldl (fun d k => (d.setTile (8 * p + k) Tile.reset).setSeq (8 * p + k) XSeq.reset) d
  let d := (List.range 32).foldl (fun d q => d.setQueue (32 * p + q) (d.queue (32 * p + q)).fresh) d
  d.setMill p Mill.reset

/-- The save is complete (R489), the context being quiet still (R270): objects homed below the package unit leave their counters, the mills are unbound, and the
context is PREEMPTED. -/
def Dev.saveDone (d : Dev) (c : Nat) : Dev :=
  if (d.img c).wait ≠ .saving ∨ !d.ctxQuiet c then d
  else
    let d := d.breakShared c
    let d := d.mapObjs (d.sendAway c)
    let i := d.img c
    let d := (i.mills.foldl (fun d p => (d.saveRead p).saveSlots p) d).saveArea c
    let d := (d.tilesOf c).foldl (fun d t => (List.finRange 4).foldl (fun d k => d.pauseStall t k) d) d
    let low := (d.owned c).filter fun p => decide ((d.obj p).level ≠ 3)
    let saved : Saved :=
      { mills := i.mills.map d.saveMill, objs := low.map fun p => ((d.obj p).vid, d.obj p) }
    let exited := i.exited.filterMap d.logical
    let d := low.foldl (fun d p => (d.setReg (Reg.SYNC_XLATc_v + 0x4000 * c + 4 * (d.obj p).vid) 0).setObj p SyncObj.free) d
    let d := i.mills.foldl Dev.releaseMill d
    let d := i.mills.zipIdx.foldl (fun d (_, l) => d.setMap c l 0xFF) d
    let d := d.setImg c { d.img c with
      state := .preempted, locked := false, mills := [], exited := exited, saved := some saved, wait := .none }
    let d := i.mills.foldl Dev.unbound d
    let (us, d) := d.freeWord
    ((d.event 0x8004 c (d.stepLow c) (803 * i.nmills + 16) us).complete c sOk).settleFences

/-! ### Resume (R491) -/

/-- The cells of a mill's tiles become those of the save: every other word of them is poison, and no word has an error but the first
of a tile that an armed flip mask waits for (R511). -/
def Dev.restoreMem (d : Dev) (p : Nat) (cells : List Host.Cell) : Dev :=
  let a := millWindow p
  let d : Dev := { d with
    mem := d.mem.filter (fun x => decide (x.1 < a)) ++ cells.map (fun x => (x.1 + a, x.2)) ++
      d.mem.filter fun x => decide (a + millSpan ≤ x.1)
    ecc := { d.ecc with flips := d.ecc.flips.filter fun e => decide (e.1 < a ∨ a + millSpan ≤ e.1) } }
  (List.range 8).foldl (fun d k => d.written 13 1 (tileAddr (8 * p + k) 0)) d

/-- A stall goes on, counted from now (R259). -/
def Ctx.stallsFrom (c : Ctx) (now : Nat) : Ctx :=
  { c with hold := match c.hold with
    | some (.stall a b _) => some (.stall a b now)
    | h => h }

/-- A tile of the save under the new binding: its waits name the counters that its objects now have. -/
def Dev.restoreTile (d : Dev) (c t : Nat) (tl : Tile) : Tile :=
  let fix := fun (w : Option Wait) => w.map fun x => { x with phys := (d.translate c x.vid).2 }
  { tl with
    ctx := tl.ctx.map fun x => { x.stallsFrom d.cycle with wait := fix x.wait }
    pre := fix tl.pre
    heldArr := tl.heldArr.map fun e => { e with tile := some t, phys := (d.translate c e.vid).2 } }

/-- Give a mill the state of the save. -/
def Dev.restoreMill (d : Dev) (c p : Nat) (m : SavedMill) : Dev :=
  let d := d.restoreMem p m.mem
  let d := m.tiles.zipIdx.foldl (fun d (tl, k) => d.setTile (8 * p + k) (d.restoreTile c (8 * p + k) tl)) d
  let d := m.seqs.zipIdx.foldl (fun d (q, k) =>
    d.setSeq (8 * p + k) { q with waiters := q.waiters.map fun w => { w with tile := 8 * p + k } }) d
  let d := m.queues.zipIdx.foldl (fun d (q, k) => d.setQueue (32 * p + k) ((d.queue (32 * p + k)).resumed q)) d
  let d := m.cvt.zipIdx.foldl (fun d (ws, k) =>
    (cvtCounters.zip ws).foldl (fun d (o, w) => d.setReg (tileOff (8 * p + k) o) w) d) d
  ((d.setMill p m.mill).flipSlot p 13 0).stirMill p

/-- The context returns on mills `ms` with its objects in their new homes: the restored state, the locks, the held DONE signals,
and the withheld boundary (R358, R491). -/
def Dev.resumed (d : Dev) (c : Nat) (saved : Saved) : Dev :=
  let i := d.img c
  let d := d.mapObjs (d.callBack c)
  let d := (i.mills.zip saved.mills).foldl (fun d (p, m) => d.restoreMill c p m) d
  let d := d.setImg c { d.img c with
    state := .running, locked := true, saved := none, exited := i.exited.filterMap (d.physical c) }
  let k := d.coll c
  let d := k.heldDone.foldl (fun d v => d.engineSignal c v) (d.setColl c { k with heldDone := [] })
  let (us, d) := (d.releaseBoundary c).freeWord
  d.event 0x8005 c (d.stepLow c) i.nmills us

/-- RESUME (R482, R491). -/
def Dev.resume (d : Dev) (c : Nat) : Dev :=
  match d.command c 5, (d.img c).saved with
  | some _, some saved =>
    if (d.img c).state ≠ .preempted then d.complete c sPerm
    else match d.chooseMills c (d.img c).nmills with
      | none => d.complete c sLen
      | some ms =>
        match (d.bindMills c ms).placeObjs c ((saved.objs.map (·.2)).mergeSort fun a b => a.vid ≤ b.vid) with
        | none => d.complete c sLen
        | some d => (d.resumed c saved).complete c sOk
  | some _, none => d.complete c sPerm
  | none, _ => d

end Sys2Proof.Machine
end

