-- ==== Sys2Proof/Machine/HostRun.lean ====
section
/-!
DEFINITION. The commands of images and the host interface (chapter 11) that are no register accesses.
-/
namespace Sys2Proof.Machine

/-- CMD_FETCH (R473, R474, R478). -/
def execCmdFetch (c : ICtx) (entry : Option (List Word)) (s : State) : Res := .next (onDev (fun d => d.cmdFetch c entry) s)

/-- LOAD (R468 to R471, R567, R568). -/
def execLoad (c : ICtx) (image hosts : Option (List Byte)) (s : State) : Res := .next (s.load c image hosts)

/-- START (R483, R486). -/
def execStart (c : ICtx) (s : State) : Res := .next (onDev (fun d => d.start c) s)

/-- STOP (R485). -/
def execStop (c : ICtx) (s : State) : Res := .next (onDev (fun d => d.stop c) s)

/-- PREEMPT (R488, R489). -/
def execPreempt (c : ICtx) (s : State) : Res := .next (onDev (fun d => d.preempt c) s)

/-- RESUME (R491). -/
def execResume (c : ICtx) (s : State) : Res := .next (onDev (fun d => d.resume c) s)

/-- UNLOAD (R487). -/
def execUnload (c : ICtx) (s : State) : Res := .next (onDev (fun d => d.unload c) s)

/-- UNLOAD_COMPLETE (R487, R600). -/
def execUnloadComplete (c : ICtx) (s : State) : Res := .next (onDev (fun d => d.unloadComplete c) s)

/-- PREEMPT_QUIESCED (R489). -/
def execPreemptQuiesced (c : ICtx) (s : State) : Res := .next (onDev (fun d => d.quiesced c) s)

/-- PREEMPT_SAVE_DONE (R489, R490). -/
def execPreemptSaveDone (c : ICtx) (s : State) : Res := .next (onDev (fun d => d.saveDone c) s)

/-- VF_FLR (R451). -/
def execVfFlr (v : Fin 17) (s : State) : Res := .next (onDev (fun d => d.vfFlr v) s)

/-- PF_FLR (R451). -/
def execPfFlr (s : State) : Res := .next (onDev Dev.pfFlr s)

/-- VF_ENABLE_CHANGE (R449). -/
def execVfEnableChange (enable : Bool) (num : Fin 17) (s : State) : Res :=
  .next (onDev (fun d => d.vfChange (if enable then num else 0)) s)

/-- PERST_ASSERT (R617). Under a chatter hold the input is asserted already (R556). -/
def execPerstAssert (s : State) : Res := .next (onDev (fun d => if d.lehr.held.any (fun h => decide (h.1 = 3)) then d else d.pfFlr) s)

/-- BAR2_READ (R453, R454). -/
def execBar2Read (f : Fin 17) (off len : Nat) (s : State) : Res := .next (onDev (Dev.settling fun d => d.bar2Read f off len) s)

/-- BAR2_WRITE (R453, R454). -/
def execBar2Write (f : Fin 17) (off : Nat) (data : List Byte) (s : State) : Res :=
  .next (onDev (Dev.settling fun d => d.bar2Write f off data) s)

end Sys2Proof.Machine
end

