-- ==== Sys2Proof/Machine/MillRun.lean ====
section
/-!
DEFINITION. What a mill does without an instruction (R111, R125, R133, R134, R147). A command that the order of R111 does
not allow changes nothing (log 12).
-/
namespace Sys2Proof.Machine

/-- A pass starts (R111, R133). -/
def execPassStart (m : MillIx) (s : State) : Res :=
  .next (onDev (fun d =>
    match (d.mill m.val).queue with
    | q :: _ => if q.kind = .pass ∧ !(d.mill m.val).writerOn q.slot then d.startHead m.val else d
    | [] => d) s)

/-- A weight load begins into the inactive set (R134). -/
def execWeightLoadStart (m : MillIx) (s : State) : Res :=
  .next (onDev (fun d =>
    match d.nextLoad m.val with
    | some (i, q) => d.setMill m.val { d.mill m.val with loading := some (i, q.num), loadedFor := q.num }
    | none => d) s)

/-- The loaded weight set becomes active (R133, R134). -/
def execWeightSetActive (m : MillIx) (s : State) : Res := .next (onDev (Dev.settling (·.loadDone m.val)) s)

/-- A pass writes its last slot row and finishes (R133). -/
def execPassFinish (m : MillIx) (s : State) : Res := .next (onDev (Dev.settling (·.passFinish m.val)) s)

/-- A drain starts: one at a time, and after every earlier command on its slot (R111, R147). -/
def execDrainStart (m : MillIx) (s : State) : Res :=
  .next (onDev (fun d =>
    match (d.mill m.val).queue with
    | q :: _ =>
      if q.kind = .drain ∧ !(d.mill m.val).busySlot q.slot ∧ ((d.mill m.val).oldest .drain).isNone then d.startHead m.val
      else d
    | [] => d) s)

/-- A drain ends (R143 to R147). -/
def execDrainFinish (m : MillIx) (s : State) : Res := .next (onDev (Dev.settling (·.drainFinish m.val)) s)

/-- A slot clear starts, after every earlier command on its slot (R111, R125). -/
def execSmodeStart (m : MillIx) (s : State) : Res :=
  .next (onDev (fun d =>
    match (d.mill m.val).queue with
    | q :: _ => if q.kind = .smode ∧ !(d.mill m.val).busySlot q.slot then d.startHead m.val else d
    | [] => d) s)

/-- A slot clear writes its last row (R125). -/
def execSmodeFinish (m : MillIx) (s : State) : Res := .next (onDev (·.smodeFinish m.val) s)

end Sys2Proof.Machine
end

