-- ==== Sys2Proof/Machine/SysOps.lean ====
section
/-!
DEFINITION. The memory engine (R76 to R80), the supervisor instructions (R97 to R99), and blocks of `cvt.st` and `cvt.ld`
(R95, R96, R172 to R175).
-/
namespace Sys2Proof.Machine

/-! ### Tile registers by `sys.csrr` and `sys.csrw` (R99) -/

/-- The page offset lies among the registers that a worker may reach: `TILE_ID` and those of its own context
(log 23). -/
def workerReach (k : HCtx) (off : Nat) : Bool :=
  decide (off < 4) || (decide (k.val * 0x100 + 0x100 ≤ off) && decide (off < k.val * 0x100 + 0x12C))

/-- The register table at a page offset of a tile, where a register lies there. -/
def tileDesc (t off : Nat) : Option RegDesc :=
  if off < 0x1000 ∧ off % 4 = 0 then (regFind (tileOff t off)).map (·.1) else none

/-- The trap of a `sys.csrr` or `sys.csrw` (R64, R99): an offset out of a worker's reach, or a write to a locked RWL
field. -/
def Dev.csrTrap (d : Dev) (t : Nat) (k : HCtx) (off : Nat) (write : Bool) : Option Trap :=
  if k ≠ 0 ∧ !workerReach k off then some (.priv off)
  else match tileDesc t off with
    | some r => if write && hasLock r && d.tileLocked t then some (.priv off) else none
    | none => none

/-- A register access violation of R99: captured and recorded in the tile's block (R633), and as every violation of a register access
(R521) with the offset in BAR0; a tile bears no function, so that parameter is free (log 22). -/
def Dev.csrViolation (d : Dev) (t : Nat) (k : HCtx) (off : Nat) : Dev :=
  let (f, d) := (d.tileViolation t k k.val sParam).freeWord
  d.event 0xB00B f (tileOff t off) sParam 4

/-- `sys.csrr`: the value, and the violation of R99 where no register lies at the offset. -/
def Dev.csrRead (d : Dev) (t : Nat) (k : HCtx) (off : Nat) : Dev × Word :=
  match tileDesc t off with
  | some _ => (d, d.tileReg t off)
  | none => (d.csrViolation t k off, 0)

/-- `sys.csrw` (R9 to R11, R99): refused values change nothing, a reserved bit is discarded, and each is a violation.
Clearing TILE_ERR_INFO.VALID clears COUNT with it. -/
def Dev.csrWrite (d : Dev) (t : Nat) (k : HCtx) (off : Nat) (v : Word) : Dev :=
  match tileDesc t off with
  | none => d.csrViolation t k off
  | some r =>
    if tileRegBad off v then d.csrViolation t k off
    else
      let w := fieldsWrite r.fields (d.tileLocked t) (d.tileReg t off) v
      let d := d.putTileReg t off (if off = 0x18 ∧ bit v 31 then putFld w 16 15 0 else w)
      if setsReserved r v then d.csrViolation t k off else d

/-! ### Supervisor instructions (R98) -/

/-- A captured outcome of R98: SOURCE 0, event 0x1004. -/
def Dev.sysViolation (d : Dev) (t status : Nat) : Dev := d.tileViolation t 0 0 status

/-- The status of `sys.start` (R72, R98). -/
def Dev.startStatus (d : Dev) (t : Nat) (ra rb : Word) : Nat :=
  if ra = 0 ∨ 3 < ra.toNat ∨ rb.toNat % 8 ≠ 0 then sParam
  else
    let c := d.ctx t (Fin.ofNat 4 ra.toNat)
    if c.run ≠ .idle then sPerm
    else if c.bound = 0 then sLen
    else if 0x600000 < c.base.toNat + c.bound.toNat then sBound
    else sOk

/-- `sys.start` (R98): the worker runs from rb, in the low 23 bits (log 36). -/
def Dev.sysStart (d : Dev) (t : Nat) (ra rb : Word) (rc : Nat) : Dev :=
  let st := d.startStatus t ra rb
  let d := d.putS t 0 rc (BitVec.ofNat 32 st)
  if st ≠ sOk then d
  else
    let k : HCtx := Fin.ofNat 4 ra.toNat
    d.setCtx t k { d.ctx t k with pc := rb.setWidth 23, run := .run, wait := none, hold := none }

/-- `sys.resume` (R98): the worker leaves TRAPPED; `skip` passes over the trapped bundle. -/
def Dev.sysResume (d : Dev) (t : Nat) (ra : Word) (skip : Bool) : Dev :=
  if ra = 0 ∨ 3 < ra.toNat then d.sysViolation t sParam
  else
    let k : HCtx := Fin.ofNat 4 ra.toNat
    let c := d.ctx t k
    if c.run ≠ .trapped then d.sysViolation t sPerm
    else
      let tl := d.tile t
      let d := d.setTile t { tl with trapQ := tl.trapQ.filter (· ≠ k.val) }
      d.setCtx t k { d.ctx t k with run := .run, pc := if skip then c.pc + 8 else c.pc }

/-- `sys.stop` (R98). -/
def Dev.sysStop (d : Dev) (t : Nat) (ra : Word) : Dev :=
  if ra = 0 ∨ 3 < ra.toNat then d.sysViolation t sParam
  else
    let k : HCtx := Fin.ofNat 4 ra.toNat
    if (d.ctx t k).run = .idle then d else d.stopWorker t k

/-- Every tile of the context has exited (R484). -/
def Dev.allExited (d : Dev) (c : Nat) : Bool := (d.tilesOf c).all fun t => (d.img c).exited.contains t

/-- `sys.exit` (R94, R484): this context becomes IDLE; in S the workers stop, the queues close, and the image context
stops once every tile has exited. -/
def Dev.sysExit (d : Dev) (c t : Nat) (k : HCtx) : Dev :=
  let d := d.setCtx t k { d.ctx t k with run := .idle }
  if k ≠ 0 then d
  else
    let stop := fun (d : Dev) (j : HCtx) => if (d.ctx t j).run = .idle then d else d.stopWorker t j
    let d := (stop (stop (stop d 1) 2) 3).closeQueues t 1 false
    let i := d.img c
    let d := d.setImg c { i with exited := if i.exited.contains t then i.exited else i.exited ++ [t] }
    if d.allExited c then d.deviceStop c 0x0D 0xFFFF sOk else d

/-! ### The memory engine -/

/-- The refusal of a `mem.*` operation (R24 to R26, R76): its status, and for `ERR_BOUND` the lowest byte outside. -/
def memRefusal (bound : Nat) (o : MemOp) : Option (Nat × Option Nat) :=
  if o.len = 0 then some (sLen, none)
  else if o.dst % 8 ≠ 0 ∨ o.len % 8 ≠ 0 ∨ (o.copy ∧ o.src % 8 ≠ 0) then some (sParam, none)
  else if !inBound bound o.dst o.len then some (sBound, some (lowestOut bound o.dst))
  else if o.copy ∧ !inBound bound o.src o.len then some (sBound, some (lowestOut bound o.src))
  else none

/-- Read `n` words from word address `wa` up, stopping at an uncorrectable one: the bytes before it, and its
address. -/
def Dev.readUntil (d : Dev) (agent : Nat) : (n wa : Nat) → Dev × List Byte × Option Nat
  | 0, _ => (d, [], none)
  | n + 1, wa =>
    let r := d.readWord agent wa true
    match r.2.1 with
    | none => (r.1, [], some wa)
    | some v =>
      let rest := r.1.readUntil agent n (wa + 8)
      (rest.1, v ++ rest.2.1, rest.2.2)

/-- The bytes of a 32-bit pattern over `n` bytes (R77, R291). -/
def patternBytes (w : Word) (n : Nat) : List Byte := (List.replicate (n / 4) (bytesOf 4 w.toNat)).flatten

/-- The bytes of a memory-engine operation move (R77, R78, R80), whole words at a fill (R506): the context address of the word that stopped a copy. -/
def Dev.memRun (d : Dev) (t : Nat) (o : MemOp) : Dev × Option Nat :=
  let c := d.ctx t (Fin.ofNat 4 o.ctx)
  if o.copy then
    let (d, bs, bad) := d.readUntil 8 (o.len / 8) (ctxAddr t c o.src)
    (d.writeWords 8 (ctxAddr t c o.dst) bs, bad.map (· - ctxAddr t c 0))
  else (d.writeWords 8 (ctxAddr t c o.dst) (patternBytes o.pattern o.len), none)

/-! ### Blocks of `cvt.st` and `cvt.ld` -/

/-- The combinations of `TILE_CVT_CFG` that R172 allows: the format. -/
def cvtFormat (cfg : Word) : Option Fmt :=
  let mx := bit cfg 6
  match fmtOf (fld cfg 0 4) with
  | some .fp32 => none
  | some .bf16 => none
  | some .fp16 => none
  | some .int4 => if mx then none else some .int4
  | some .t2 => if mx then none else some .t2
  | some f => if mx && decide (fld cfg 4 2 ≠ 1) then none else some f
  | none => none

/-- Values in a block (R96). -/
def cvtBlock (cfg : Word) : Nat := 16 * groupSize cfg

/-- Bytes of a block's data. -/
def cvtBytes (cfg : Word) : Nat :=
  match cvtFormat cfg with
  | some f => cvtBlock cfg * f.width / 8
  | none => 0

/-- The FP32 values of a group of vector registers. -/
def groupVals (c : Ctx) (first n : Nat) : List FVal :=
  (List.range n).flatMap fun i => (lanesOf 32 (c.vreg (first + i))).map fun l => f32 (BitVec.ofNat 32 l)

/-- What `cvt.st` stores (R164 to R166, R173): the packed elements, the scale, and the tally. `rnd` is the rounding field
and `idx` the index of lane 0. -/
def cvtStore (c : Ctx) (seed first idx rnd : Nat) : List Byte × Nat × Tally :=
  match cvtFormat c.cvtCfg with
  | none => ([], 0, { sat := 0, ftz := 0, nan := 0, fmt := 0 })
  | some f =>
    let xs := groupVals c first (groupSize c.cvtCfg)
    let (scale, cs) := narrowBlock f (bit c.cvtCfg 6) (fun i => rndOf rnd seed c.cvtTid.toNat (idx + i) 0) xs
    (packElems f (cs.map (·.code)), scale, tally cs)

/-- One element of `cvt.ld` as FP32 (R174). -/
def cvtWiden (e : Elem) : Conv := Fmt.fp32.narrow1 .rne e.val

/-- What `cvt.ld` writes (R174): the lanes of its group, and the tally. An element under a NaN scale counts as NaN only (R177). -/
def cvtLoad (cfg : Word) (data : List Byte) (scale : Nat) : List Nat × Tally :=
  match cvtFormat cfg with
  | none => ([], { sat := 0, ftz := 0, nan := 0, fmt := 0 })
  | some f =>
    let es := (List.range (cvtBlock cfg)).map fun i => elemOf f (bit cfg 6) (packedElem f data i) scale
    let cs := es.map cvtWiden
    (cs.map (·.code), { tally cs with fmt := (es.filter fun e => e.fmtErr && decide (e.val ≠ .nan)).length })

/-- The conversions of `cvt.bf`, lane by lane (R175). -/
def cvtNarrow (c : Ctx) (seed va idx rnd : Nat) : List Conv :=
  (groupVals c va 2).zipIdx.map fun x => Fmt.bf16.narrow1 (rndOf rnd seed c.cvtTid.toNat (idx + x.2) 0) x.1

/-- Widen a BF16 code to FP32 exactly; a NaN becomes the canonical one (R156, R175). -/
def widenBf16 (l : Nat) : Nat := (toF32 (Fmt.bf16.decode false l)).toNat

/-- Write the lanes of consecutive vector registers. -/
def setGroup (c : Ctx) (first : Nat) : List Nat → (n : Nat) → Ctx
  | _, 0 => c
  | ls, n + 1 => setGroup (c.setV first (ofLanes 32 (ls.take 16))) (first + 1) (ls.drop 16) n

end Sys2Proof.Machine
end

