-- ==== Sys2Proof/Machine/Sluice.lean ====
section
/-!
DEFINITION. The Sluice engines: requests and their arbitration, completion, page faults and their resume, and HALT
(R287, R291 to R308, R631).
-/
namespace Sys2Proof.Machine

/-- Change the queue of a key. -/
def Dev.upQueue (d : Dev) (key : Nat) (f : SQueue → SQueue) : Dev := d.setQueue key (f (d.queue key))

/-- The current descriptor of a queue. -/
def SQueue.cur (q : SQueue) : List Word := match q.descs with
  | [] => []
  | x :: _ => x.w

/-- The need time of stream byte `pos` in 1/1,024 ns; none for a background stream (R297, R298). -/
def SQueue.need (q : SQueue) (pos : Nat) : Option Nat :=
  let w := q.cur
  if sRate w = 0 then none else some (q.t0 + sLead w * 1024 + 1000 * pos * 1024 / sRate w)

/-- A queue has a request pending at its mill's issue port (R293, R294, R304, R308); after a STOP without NOW the descriptors queued
still complete (R485). -/
def Dev.pendingAt (d : Dev) (key : Nat) : Bool :=
  let q := d.queue key
  match d.binding (key / 32) with
  | none => false
  | some (c, _) =>
    let i := d.img c
    decide (i.state = .running ∨ i.state = .stopped) && !i.halted && !q.descs.isEmpty && q.halt.isNone && q.faultSince.isNone &&
    q.failed.isNone && q.failPos.isNone && decide (q.pos < sBytes q.cur) && decide (q.reqs.length < q.limit)

/-- The place of a queue in the arbitration of R298: rated before background, then by need time; a request that has
waited 4 µs takes the current time. -/
def Dev.arbKey (d : Dev) (key : Nat) : Nat × Nat :=
  let q := d.queue key
  if q.since + 6400 ≤ d.cycle then (0, d.global1024)
  else match q.need q.pos with
    | some t => (0, t)
    | none => (1, 0)

/-- `x` goes before `y`, the numbers of the queues deciding between equals (R298). -/
def arbBefore (x y : Nat × Nat) (kx ky : Nat) : Bool :=
  decide (x.1 < y.1) || (decide (x.1 = y.1) && (decide (x.2 < y.2) || (decide (x.2 = y.2) && decide (kx ≤ ky))))

/-- The queue wins the issue port of its mill (R298). The arbitration behind it, at stack controllers and the PCIe requester, orders
requests in time alone and is not held (log 207). -/
def Dev.wins (d : Dev) (key : Nat) : Bool :=
  d.pendingAt key && (List.range 32).all fun j =>
    let k := key / 32 * 32 + j
    !d.pendingAt k || arbBefore (d.arbKey key) (d.arbKey k) key k

/-! ### The end of a descriptor -/

/-- The completed prefix of the current descriptor (R296, R304, R308). -/
def SQueue.prefix_ (q : SQueue) : Nat :=
  (q.reqs.map (·.pos)).foldl min (match q.failPos with
    | some f => min f q.pos
    | none => q.pos)

/-- A descriptor of an exchange STREAM entry has ended (R196, R226, R228). -/
def Dev.streamEnd (d : Dev) (key : Nat) (x : SDesc) (status : Nat) : Dev :=
  let t := key / 4
  match x.entry, d.tileCtx t with
  | some i, some c => if status = sOk then d.entryDone c t i else d.xchFail c t status i
  | _, _ => d

/-- The queue enters HALT (R287, R307, R308): its descriptors go, and event 0x5005 where a request has failed. -/
def Dev.haltQueue (d : Dev) (key status addr : Nat) : Dev :=
  let q := d.queue key
  let d := d.setQueue key { q with
    halt := some status, code := if q.code = sOk then status else q.code, descs := [], reqs := [], failed := none
    faultSince := none, faultDue := none, credited := [] }
  let d := if status = sFault then d else d.event 0x5005 (key / 32) (key % 32) status (addr % 2 ^ 32)
  q.descs.foldl (fun d x => d.streamEnd key x status) d

/-- The words of a fault record (R305). -/
def faultRecord (mill mq c : Nat) (q : SQueue) (f : SFault) : List Word :=
  let w := q.cur
  let n := f.pos / sEsize w
  let ix := fun i => sIndex w n i
  [BitVec.ofNat 32 (mill * 2 ^ 24 + mq * 2 ^ 19 + c * 2 ^ 15 + f.reason * 2 ^ 13 + f.level * 2 ^ 10 +
      (if f.write then 2 ^ 9 else 0)),
   BitVec.ofNat 32 (q.faultId % 2 ^ 16 * 2 ^ 16 + f.pos % sEsize w),
   BitVec.ofNat 32 f.va, BitVec.ofNat 32 (f.va / 2 ^ 32 % 2 ^ 16),
   BitVec.ofNat 32 (ix 1 * 2 ^ 16 + ix 0), BitVec.ofNat 32 (ix 3 * 2 ^ 16 + ix 2),
   BitVec.ofNat 32 (q.done / 2 ^ 32 % 2 ^ 16 * 2 ^ 16 + ix 4), BitVec.ofNat 32 q.done]

/-- Fill and post the fault record (R304, R305). -/
def Dev.postFault (d : Dev) (key : Nat) (f : SFault) : Dev :=
  let q := d.queue key
  let c := ((d.binding (key / 32)).map (·.1)).getD 0
  let rec_ := faultRecord (key / 32) (key % 32) c q f
  let id := q.faultId % 2 ^ 16
  let d := d.setQueue key { q with record := rec_, faultDue := none, faultId := q.faultId + 1 }
  let d := (d.count Reg.SLC_FAULTS 1).post c (cplWords 0xFFFF 0xF1 0 0 0 0 0 rec_)
  d.event 0x5003 (key / 32) (key % 32) (f.va % 2 ^ 32) (id * 2 ^ 16 + f.reason)

/-- What follows a change of a queue's requests (R296, R297, R304, R308): DONE, and once no request is outstanding the
end of the descriptor, HALT, or the fault record. -/
def Dev.slcProgress (d : Dev) (key : Nat) : Dev :=
  let d := d.upQueue key fun q =>
    let p := q.prefix_
    { q with done := p, credited := q.credited.filter fun r => decide (p < r.1 + r.2) }
  let q := d.queue key
  if !q.reqs.isEmpty then d
  else match q.failed, q.faultDue, q.descs with
    | some (st, addr), _, _ => d.haltQueue key st addr
    | none, some f, _ => d.postFault key f
    | none, none, x :: rest =>
      if q.faultSince.isNone ∧ sBytes x.w ≤ q.pos then
        let q' : SQueue := { q with descs := rest }
        let d := d.setQueue key (if rest.isEmpty then q' else q'.head d.global1024 d.cycle)
        d.streamEnd key x sOk
      else d
    | none, none, [] => d

/-! ### Issue (R293) -/

/-- The length of the request that begins at stream byte `pos`. -/
def cutLength (w : List Word) (pos va : Nat) : Nat := min (sEsize w - pos % sEsize w) (4096 - va % 4096)

/-- The engine issues the next request of a queue, translating it. -/
def Dev.slcRequest (d : Dev) (key : Nat) : Dev :=
  if !d.wins key then d
  else
    let q := d.queue key
    let w := q.cur
    let c := ((d.binding (key / 32)).map (·.1)).getD 0
    let va := sElemVa w (q.pos / sEsize w) + q.pos % sEsize w
    let n := cutLength w q.pos va
    let write := decide (sDir w ≠ 0)
    let (d, x) := d.walk (key / 32) c va write
    match x with
    | .ok host addr =>
      let r : SReq := { pos := q.pos, len := n, va := va, host := host, addr := addr, need := q.need q.pos }
      d.upQueue key fun q => { q with reqs := q.reqs ++ [r], pos := q.pos + n, since := d.cycle }
    | .fault reason level =>
      let f : SFault := { reason := reason, level := level, va := va, pos := q.pos, write := write }
      (d.upQueue key fun q => { q with faultSince := some d.cycle, faultDue := some f }).slcProgress key
    | .refused st =>
      ((d.slcError false va c 2 st).upQueue key fun q => { q with failed := some (st, va) }).slcProgress key

/-! ### Completion (R296, R299, R308, R631) -/

/-- How a request's bytes moved. -/
inductive Moved where
  | ok
  /-- the host refused or did not answer (REASON 2 of R305) -/
  | hostError
  /-- an uncorrectable read, with the SOURCE, and the address captured: a tile-memory offset or a virtual address -/
  | ue (tile : Bool) (addr : Nat)
  deriving DecidableEq, Repr

/-- Bytes the host answered, free where it gave too few. -/
def hostBytes (ix : Nat) (data : List Byte) (n : Nat) : List Byte := (data ++ freeTail ix n).take n

/-- Move the bytes of a request (R289, R291), in whole words (R506). `data` is what the host answers to a read, and `ok` whether it answered
without error. -/
def Dev.moveReq (d : Dev) (key : Nat) (x : SDesc) (r : SReq) (data : List Byte) (ok : Bool) : Dev × Moved :=
  let t := key / 4
  let w := x.w
  let tile := tileAddr t (x.base + sTaddr w + r.pos)
  let c := ((d.binding (key / 32)).map (·.1)).getD 0
  if r.host && !ok then (d, .hostError)
  else if sDir w = 0 then
    if r.host then (d.draw.writeWords 7 tile (hostBytes d.freeIx data r.len), .ok)
    else
      let g := d.read 7 r.addr r.len
      match g.bytes with
      | some bs => (g.dev.writeWords 7 tile bs, .ok)
      | none => (g.dev, .ue false (r.va + (g.bad.getD r.addr - r.addr)))
  else
    let g : ReadResult := if sDir w = 1 then d.read 7 tile r.len
      else { dev := d, bytes := some (patternBytes (sPattern w) r.len), bad := none }
    match g.bytes with
    | none => (g.dev, .ue true (g.bad.getD tile - tileAddr t 0))
    | some bs => if r.host then ((g.dev.emit (.hostWrite (d.owner c) r.addr bs)).foldHost c r.va bs, .ok) else (g.dev.hbmWrite 7 r.addr bs, .ok)

/-- A dry event (R299); the rounding of the nanoseconds late is free (log 30). -/
def Dev.dryCheck (d : Dev) (key c : Nat) (r : SReq) : Dev :=
  match r.need with
  | none => d
  | some t =>
    let now := d.global1024
    if now ≤ t then d
    else
      let late := (now - t) / 1024 + (if Config.freeBool d.freeIx ∧ (now - t) % 1024 ≠ 0 then 1 else 0)
      let d := (d.draw.upQueue key fun q => { q with dry := sat 0xFFFFFFFF (q.dry + 1) }).count Reg.SLC_DRY 1
      let m := d.measure c
      (d.setMeasure c { m with dry := m.dry + 1 }).event 0x5002 (key / 32) (key % 32) (t / 1024 % 2 ^ 32) late

/-- An earlier outstanding request of the queue writes the same 64 B of HBM (R292). -/
def SQueue.mustWait (q : SQueue) (r : SReq) : Bool :=
  decide (sDir q.cur ≠ 0) && !r.host && q.reqs.any fun e =>
    decide (e.pos < r.pos) && !e.host && decide (e.addr / 64 ≤ (r.addr + r.len - 1) / 64 ∧
      r.addr / 64 ≤ (e.addr + e.len - 1) / 64)

/-- The failure of a request whose predecessors have not failed. -/
def Dev.reqFails (d : Dev) (key c : Nat) (r : SReq) (m : Moved) : Dev :=
  let q := d.queue key
  let lower := fun (q : SQueue) => { q with failPos := some (match q.failPos with
    | some f => min f r.pos
    | none => r.pos) }
  match m with
  | .ok => d
  | .hostError =>
    let f : SFault := { reason := 2, level := 0, va := r.va, pos := r.pos, write := decide (sDir q.cur ≠ 0) }
    d.upQueue key fun q =>
      if q.failed.isSome then lower q
      else { lower q with faultSince := some (q.faultSince.getD d.cycle), faultDue := some f }
  | .ue tile addr =>
    (d.slcError tile addr c (if tile then 4 else 3) sUe).upQueue key fun q =>
      { lower q with failed := some (q.failed.getD (sUe, addr)) }

/-- The `n`-th outstanding request of a queue completes. -/
def Dev.slcComplete (d : Dev) (key n : Nat) (data : List Byte) (ok : Bool) : Dev :=
  let q := d.queue key
  match q.reqs[n]?, q.descs, d.binding (key / 32) with
  | some r, x :: _, some (c, _) =>
    if q.mustWait r then d
    else
      let d := d.setQueue key { q with reqs := q.reqs.eraseIdx n, since := if q.limit ≤ q.reqs.length then d.cycle else q.since }
      let behind := match q.failPos with
        | some f => decide (f < r.pos)
        | none => false
      let d := if behind then
          let go := Config.freeBool d.freeIx
          let d := d.draw
          if go then match d.moveReq key x r data ok with
            | (d, .ok) => d.dryCheck key c r
            | (d, _) => d
          else d
        else match d.moveReq key x r data ok with
          | (d, .ok) =>
            let d := d.dryCheck key c r
            let q := d.queue key
            if sDir x.w ≠ 0 then d
            else if q.credited.contains (r.pos, r.len) then
              d.setQueue key { q with credited := q.credited.filter (· ≠ (r.pos, r.len)) }
            else (d.creditBytes (key / 4) 1 (key % 4) r.len).upQueue key fun q =>
              { q with credited := q.credited ++ [(r.pos, r.len)] }
          | (d, m) => d.reqFails key c r m
      d.slcProgress key
  | _, _, _ => d

/-! ### Resume, abort, invalidation (R281, R306, R307) -/

/-- The REASON and the virtual address of the fault a queue is in. -/
def SQueue.faultWhere (q : SQueue) : Nat × Nat :=
  match q.faultDue with
  | some f => (f.reason, f.va)
  | none => (fld (wordAt q.record 0) 13 2, (wordAt q.record 2).toNat + fld (wordAt q.record 3) 0 16 * 2 ^ 32)

/-- Abort a queue in FAULT (R307): the descriptor ends with ERR_FAULT, event 0x5004. -/
def Dev.slcAbort (d : Dev) (key byTimeout : Nat) : Dev :=
  let q := d.queue key
  if q.faultSince.isNone then d
  else
    let (reason, va) := q.faultWhere
    let c := ((d.binding (key / 32)).map (·.1)).getD 0
    let d := d.slcError false va c (if reason = 2 then 3 else 2) sFault
    let d := d.event 0x5004 (key / 32) (key % 32) (q.done % 2 ^ 32) byTimeout
    (d.upQueue key fun q => { q with faultSince := none, faultDue := none, failed := some (sFault, q.done) }).slcProgress key

/-- Resume a queue in FAULT: translation begins again at DONE, which is the faulting byte (R304, R306). -/
def Dev.slcResumeQ (d : Dev) (key : Nat) : Dev :=
  d.upQueue key fun q =>
    { q with faultSince := none, faultDue := none, failPos := none, pos := q.done, since := d.cycle }

/-- The queue that `SLC_SEL` selects. -/
def Dev.slcSel (d : Dev) : Nat := d.regFld Reg.SLC_SEL 0 8 * 32 + d.regFld Reg.SLC_SEL 16 5

/-- A write of `SLC_RESUME` with a legal ACTION (R306): it acts on a queue in FAULT whose current record bears FAULT_ID,
and answers none, to be logged, otherwise. -/
def Dev.slcResumeWrite (d : Dev) (w : Word) : Option Dev :=
  let key := d.slcSel
  let q := d.queue key
  if q.faultSince.isSome ∧ q.faultDue.isNone ∧ !q.record.isEmpty ∧ fld (wordAt q.record 1) 16 16 = fld w 0 16 then
    some (if fld w 30 2 = 1 then d.slcResumeQ key else d.slcAbort key 0)
  else none

/-- A queue has stayed in FAULT for SLC_FTMOc µs (R307). A resume in the cycle in which the time ends is applied, so the abort comes
with the cycle after it. -/
def Dev.slcTimeout (d : Dev) (key : Nat) : Dev :=
  match (d.queue key).faultSince, d.binding (key / 32) with
  | some s, some (c, _) =>
    let lim := (d.reg (at1 Reg.SLC_FTMOc 4 c)).toNat
    if lim ≠ 0 ∧ s + cyclesOfUs lim < d.cycle then d.slcAbort key 1 else d
  | _, _ => d

/-- An invalidation has discarded every cached translation of its context (R281). -/
def Dev.slcInvDone (d : Dev) : Dev :=
  let w := d.reg Reg.SLC_INV
  if !bit w 31 then d
  else
    let d := { d with xcache := d.xcache.filter fun x => decide (x.ictx ≠ fld w 0 4) }
    d.setReg Reg.SLC_INV (putBit (putBit w 31 false) 8 false)

/-- Send the arrivals at the superstep barrier that waited for the tile's queues (R302). -/
def Dev.barrierSend (d : Dev) (t : Nat) : Dev :=
  let tl := d.tile t
  if d.queuesQuiet t ∧ d.stage = .ready then
    tl.heldArr.foldl Dev.postSync (d.setTile t { tl with heldArr := [] })
  else d

end Sys2Proof.Machine
end

