-- ==== Sys2Proof/Machine/RegOps.lean ====
section
/-!
DEFINITION. Access to registers (R3 to R17, R41, R452, R493, R518 to R521): who reaches which register, locks and stated refusals,
the halves of 64-bit quantities, and what a write that is accepted does.
-/
namespace Sys2Proof.Machine

/-! ### Reach (R40, R41, R452, R493) -/

/-- Where an access to an offset of the requester's BAR0 leads: a register by its offset in the PF's BAR0, a page that another
function owns, or nowhere. -/
inductive Reach where
  | reg (off : Nat)
  | foreign (off : Nat)
  | reserved
  deriving DecidableEq, Repr

/-- The context whose page an offset of the PF's BAR0 lies in (R493). -/
def pageOf (off : Nat) : Option Nat := if 0x100000 ≤ off ∧ off < 0x110000 then some ((off - 0x100000) / 0x1000) else none

/-- Where an access leads. A virtual function sees the capability chain and the page of its context. -/
def Dev.reach (d : Dev) (who : Requester) (off : Nat) : Reach :=
  match who with
  | .host f =>
    if f.val = 0 then
      match pageOf off with
      | some c => if d.owner c = 0 then .reg off else .foreign off
      | none => .reg off
    else if off < 0x100000 then .reg off
    else if off < 0x101000 then .reg (off + (f.val - 1) * 0x1000)
    else .reserved
  | .skeop => .reg off
  | .tile _ _ => .reserved

/-- Host accesses to BAR0 are possible: start-up has passed t1, and the function exists (R449, R619; log 113). -/
def Dev.regsUp (d : Dev) (who : Requester) : Bool :=
  let up := match d.stage with
    | .off | .inReset | .waitRefclk => false
    | .boot | .poisoning | .poisoned | .ready => true
  match who with
  | .host f => up && decide (f.val ≤ d.numVf)
  | .skeop | .tile _ _ => up

/-! ### Violations (R518, R521) -/

/-- The SOURCE with which a block that names register writes captures them, and the block (R521): FLM and TWIN, UPD, HST and
LDR, SKP and EVR. -/
inductive RegBlock where
  | flm | twin | upd (ictx : Nat) | hst (ictx : Nat) | skp | other
  deriving DecidableEq, Repr

/-- The block that holds a register. -/
def regBlock (o : Nat) : RegBlock :=
  if 0x800000 ≤ o ∧ o < 0x820000 then .flm
  else if 0xE00000 ≤ o ∧ o < 0xE01000 then .twin
  else if 0x391000 ≤ o ∧ o < 0x392000 then .upd ((o - 0x391000) / 0x100)
  else if 0x390000 ≤ o ∧ o < 0x391000 then .upd 0
  else if 0x100000 ≤ o ∧ o < 0x110000 then .hst ((o - 0x100000) / 0x1000)
  else if 0x110000 ≤ o ∧ o < 0x201000 then .hst 0
  else if 0x440000 ≤ o ∧ o < 0x441000 ∨ 0x450000 ≤ o ∧ o < 0x451000 then .skp
  else .other

/-- Capture a register access violation by function `f` (R521). Error fields that name a frame, a virtual address or a ring
index hold nothing of a register access, so they are free (log 135). -/
def Dev.captureReg (d : Dev) (f off o : Nat) (src : Option Nat) (status : Nat) : Dev :=
  let (x, d) := d.freeWord
  let (y, d) := d.freeWord
  match regBlock o with
  | .flm => d.capture Reg.FLM_ERR_ADDR_LO x (y % 32) (src.getD 6 * 256 + status)
  | .twin => d.capture Reg.FLM_ERR_ADDR_LO x (y % 32) (5 * 256 + status)
  | .upd c => d.capture Reg.UPD_ERR_ADDR_LO x (y % 2 ^ 16) (c * 2 ^ 12 + src.getD 0 * 256 + status)
  | .hst c => d.hostError x (y % 2 ^ 16) (f % 32) c (src.getD 6) status
  | .skp => d.capture Reg.SKP_ERR_ADDR_LO off (3 * 256) (4 * 256 + status)
  | .other => d.capture Reg.ECC_ERR_ADDR_LO off (f % 2 ^ 11 * 2 ^ 16) (8 * 256 + status)

/-- The function that an access bears (log 135). -/
def Dev.whoFunc (d : Dev) (who : Requester) : Nat × Dev :=
  match who with
  | .host f => (f.val, d)
  | .skeop | .tile _ _ => d.freeWord

/-- A register access violation: an access of `n` bytes at `off`, in the register at offset `r` of the PF's BAR0 or in none.
Which function Skeop's accesses bear is given nowhere (log 135). -/
def Dev.regViolation (d : Dev) (who : Requester) (off : Nat) (r src : Option Nat) (status n : Nat) : Dev :=
  let (f, d) := d.whoFunc who
  let d := match r with
    | some o => d.captureReg f off o src status
    | none => d.capture Reg.ECC_ERR_ADDR_LO off (f % 2 ^ 11 * 2 ^ 16) (8 * 256 + status)
  d.event 0xB00B f off status n

/-! ### Locks (R10, R100, R229, R273, R310, R397, R413, R498) -/

/-- The RWL fields of the register are locked. -/
def Dev.regLocked (d : Dev) (b off : Nat) (ix : List Nat) : Bool :=
  let c := ixAt ix 0
  let ofCtx := (d.img c).locked
  match tileOfOff off with
  | some (t, _) => d.tileLocked t
  | none =>
    if b = Reg.RACE_EXCn then (List.range 16).any fun k => (d.img k).mills.any (· < 216)
    else if b = Reg.RACE_MAPc_w ∨ b = Reg.SYNC_XLATc_v ∨ b = Reg.SLC_PTBc_LO ∨ b = Reg.SLC_PTBc_HI ∨ b = Reg.SLC_VLIMc_LO ∨
        b = Reg.SLC_VLIMc_HI then ofCtx
    else if b = Reg.UPD_STEPc_LO ∨ b = Reg.UPD_STEPc_HI then decide ((d.img c).state = .running)
    else if b = Reg.UPD_RPL_RECc_w then decide (d.rplState c = 1 ∨ d.rplState c = 2)
    else if b = Reg.UPD_CAP_FIRSTc ∨ b = Reg.UPD_CAP_BASEc ∨ b = Reg.UPD_CAP_SIZEc then
      bit (d.reg (at1 Reg.UPD_CAP_CTLc 0x100 c)) 31
    else if b = Reg.FLM_FA then bit (d.reg Reg.FLM_CTL) 0
    else if b = Reg.ECC_CFG then (List.range 16).any fun k => decide ((d.img k).state ≠ .empty)
    else false

/-! ### Stated refusals -/

/-- A refusal where a condition holds. -/
def refuseIf (b : Bool) (status : Nat) : Option (Nat × Option Nat) := if b then some (status, none) else none

/-- The capture region that UPD_CAP_BASEc and UPD_CAP_SIZEc name (R392): start and bytes. -/
def Dev.capNamed (d : Dev) (c : Nat) : Nat × Nat :=
  ((d.reg (at1 Reg.UPD_CAP_BASEc 0x100 c)).toNat * 65536, (d.reg (at1 Reg.UPD_CAP_SIZEc 0x100 c)).toNat * 65536)

/-- The refusals of UPD_CAP_CTLc (R391, R392). -/
def Dev.capRefusal (d : Dev) (c : Nat) (v : Word) : Option (Nat × Option Nat) :=
  let (a, n) := d.capNamed c
  let others := (List.range 16).flatMap fun k =>
    (d.img k).allocs.map (fun x => (x.start, x.size)) ++ (if k = c then [] else (d.stepOf k).capRegion.toList)
  if fld v 0 16 = 0 then some (sLen, some 0)
  else if !bit v 31 then none
  else if n = 0 then some (sLen, some 3)
  else if d.hbmSize < a + n then some (sBound, some 3)
  else if others.any fun x => overlaps a n x.1 x.2 then some (sPerm, some 3)
  else none

/-- The context holds an image and does not run (R369, R387, R444; log 136). -/
def Dev.ctxStill (d : Dev) (c : Nat) : Bool := decide ((d.img c).state = .loaded ∨ (d.img c).state = .stopped)

/-- The refusals of ARM (R387). SOLO is that of the same write. -/
def Dev.armRefusal (d : Dev) (c : Nat) (v : Word) : Option (Nat × Option Nat) :=
  let step := (d.rplRec c 0).toNat
  let block := (d.stepOf c).capBlocks.find? fun b => decide (b.step = step)
  if !bit v 0 then none
  else if !d.ctxStill c ∧ d.rplState c ≠ 3 then some (sPerm, some 2)
  else if bit v 3 ∧ block.isNone then some (sParam, some 2)
  else if bit v 3 && (block.map (!·.complete)).getD false then some (sLen, some 2)
  else if step ≠ d.stepLow c ∨ fld (d.rplRec c 1) 16 16 ≠ fld (d.img c).imageId 0 16 then some (sParam, some 2)
  else none

/-- The refusals of the ring registers (R472, R476): SIZE out of range, a base or SIZE changed while EN is 1. -/
def Dev.ringRefusal (d : Dev) (off : Nat) (v : Word) : Option (Nat × Option Nat) :=
  let old := d.reg off
  if fld v 0 4 < 4 ∨ 12 < fld v 0 4 then some (sParam, none)
  else refuseIf (bit old 31 && decide (fld v 0 4 ≠ fld old 0 4)) sPerm

/-- Chapters 5 to 9: the status that refuses a write, and the SOURCE where it is not the block's for register writes. -/
def Dev.refusal1 (d : Dev) (b : Nat) (ix : List Nat) (v : Word) : Option (Nat × Option Nat) :=
  let c := ixAt ix 0
  if b = Reg.RACE_EXCn then refuseIf (decide (1727 < fld v 0 11)) sParam
  else if b = Reg.RACE_MAPc_w then
    refuseIf ((List.range 4).any fun k => decide (216 ≤ fld v (8 * k) 8 ∧ fld v (8 * k) 8 ≠ 0xFF)) sParam
  else if b = Reg.HOP_SEL then refuseIf (decide (1727 < fld v 0 11)) sParam
  else if b = Reg.SLC_SEL then refuseIf (decide (215 < fld v 0 8)) sParam
  else if b = Reg.SLC_RESUME then refuseIf (decide (fld v 30 2 = 0 ∨ fld v 30 2 = 3)) sParam
  else if b = Reg.UPD_STEP_SIZEc then refuseIf (decide (fld v 23 8 = 255)) sParam
  else if b = Reg.UPD_CMTc then refuseIf (bit v 29 && decide ((d.img c).state = .running)) sPerm
  else if b = Reg.UPD_RPL_CTLc then d.armRefusal c v
  else if b = Reg.UPD_CAP_CTLc then d.capRefusal c v
  else none

/-- Chapters 10 and 11. -/
def Dev.refusal2 (d : Dev) (b off : Nat) (ix : List Nat) (v : Word) : Option (Nat × Option Nat) :=
  let n := ixAt ix 0
  if b = Reg.FLM_FA then refuseIf (decide (fld v 13 2 ≠ 0)) sParam
  else if b = Reg.FLM_CTL then refuseIf (bit v 0 && !bit (d.reg Reg.FLM_FA) 31) sParam
  else if b = Reg.FLM_TIME_CTL then refuseIf (decide (17 < fld v 0 5)) sParam
  else if b = Reg.FLM_PORT_CTLn then
    if fld v 30 2 = 3 ∨ (fld v 30 2 = 2 ∧ n < 16) then some (sParam, none)
    else refuseIf (decide (fld v 30 2 ≠ d.portMode n ∧ (d.port n).state ≠ .down)) sPerm
  else if b = Reg.TWIN_CTL then refuseIf (decide (fld v 16 8 = 0)) sLen
  else if b = Reg.TWIN_TMO then refuseIf (decide (v = 0)) sLen
  else if b = Reg.HST_CMD_BASE_LO ∨ b = Reg.HST_CMD_BASE_HI then refuseIf (bit (d.reg (hostReg Reg.HST_CMD_CFG n)) 31) sPerm
  else if b = Reg.HST_CPL_BASE_LO ∨ b = Reg.HST_CPL_BASE_HI then refuseIf (bit (d.reg (hostReg Reg.HST_CPL_CFG n)) 31) sPerm
  else if b = Reg.HST_CMD_CFG ∨ b = Reg.HST_CPL_CFG then d.ringRefusal off v
  else if b = Reg.HST_CPL_IDX then
    let cfg := d.reg (hostReg Reg.HST_CPL_CFG n)
    refuseIf (decide (ringSize cfg < (d.regFld off 16 16 + 2 ^ 16 - fld v 0 16) % 2 ^ 16)) sParam
  else if b = Reg.HST_BAR2_BASE then refuseIf (decide (fld v 0 18 % 2 ^ Config.bar2Log.val ≠ 0)) sParam
  else if b = Reg.LDR_FORCE then
    if bit (d.reg Reg.LDR_FORCE) 31 then some (sPerm, some 5)
    else if fld v 24 2 = 0 ∨ fld v 24 2 = 3 then some (sParam, some 5)
    else none
  else none

/-- The largest UNIT of a flip TARGET. -/
def flipUnits (target : Nat) : Nat := if target = 0 then 1727 else if target = 1 then 215 else 11

/-- Chapters 12 to 14. -/
def State.refusal3 (s : State) (b : Nat) (v : Word) : Option (Nat × Option Nat) :=
  let d := s.dev
  let armed := bit (d.reg Reg.ECC_FLIP_SEL) 31
  if b = Reg.ECC_CFG then refuseIf (decide (fld v 8 8 = 0 ∨ fld v 0 8 = 0)) sLen
  else if b = Reg.ECC_FLIP_MASK_LO ∨ b = Reg.ECC_FLIP_MASK_HI ∨ b = Reg.ECC_FLIP_CHK then refuseIf armed sPerm
  else if b = Reg.ECC_FLIP_SEL then
    if armed then some (sPerm, none)
    else if fld v 24 2 = 3 ∨ flipUnits (fld v 24 2) < fld v 0 11 then some (sParam, none)
    else if bit v 31 ∧ d.flipMask = 0 then some (sParam, none)
    else refuseIf (bit v 31 && !(decide (s.sk.mode = .test) || decide (s.sk.debug = 2))) sPerm
  else if b = Reg.ECC_FENCE then refuseIf (decide (215 < fld v 0 8)) sParam
  else if b = Reg.ECC_FENCE_TMO then refuseIf (decide (v = 0)) sLen
  else if b = Reg.GOV_CTL then
    if bit v 30 ∧ d.regFld Reg.GOV_PG_US 0 16 = 0 then some (sLen, none)
    else refuseIf (decide (16 < fld v 16 8 ∨ fld v 0 12 < 1000 ∨ 3600 < fld v 0 12)) sParam
  else if b = Reg.LEHR_TJ_CFG then refuseIf (decide (fld v 8 8 ≤ fld v 0 8 ∨ 110 < fld v 8 8)) sParam
  else if b = Reg.LEHR_COOL_CFG then refuseIf (decide (fld v 8 8 ≤ fld v 0 8 ∨ 50 < fld v 8 8)) sParam
  else if b = Reg.LEHR_ALERT_CTL then refuseIf (decide (fld v 16 8 = 0 ∨ fld v 0 16 = 0)) sLen
  else if b = Reg.EVR_CTL then refuseIf (decide (5 < fld v 24 4)) sParam
  else none

/-- The stated refusal of a value written to a register, if one holds. -/
def State.refusal (s : State) (b off : Nat) (ix : List Nat) (v : Word) : Option (Nat × Option Nat) :=
  match tileOfOff off with
  | some (_, o) => refuseIf (tileRegBad o v) sParam
  | none => ((s.dev.refusal1 b ix v).or (s.dev.refusal2 b off ix v)).or (s.refusal3 b v)

end Sys2Proof.Machine
end

