-- ==== Sys2Proof/Machine/RegRun.lean ====
section
/-!
DEFINITION. What register writes and reads do: fields by their types, the halves of 64-bit quantities, effects, and the rows of
the table that are register accesses (R5 to R11; the register rules of chapters 6 to 14).
-/
namespace Sys2Proof.Machine

/-! ### Effects of a write that is accepted -/

/-- The register is an `_ERR_INFO`: VALID and COUNT at its head. -/
def isErrInfo (r : RegDesc) : Bool := decide (r.fields.take 2 = [⟨31, 1, .w1c, 0⟩, ⟨16, 15, .ro, 0⟩])

/-- A write of SLC_INV (R281). What an invalidation under way has to discard goes before its context is replaced. -/
def Dev.slcInvWrite (d : Dev) (v : Word) : Dev :=
  let old := d.reg Reg.SLC_INV
  let d : Dev := if bit old 31 then { d with xcache := d.xcache.filter fun x => decide (x.ictx ≠ fld old 0 4) } else d
  let go := bit old 31 || bit v 8
  d.setReg Reg.SLC_INV (packed [(b2n go, 31), (b2n go, 8), (fld v 0 4, 0)])

/-- ARM has passed its checks (R387 to R389). A context held in DONE replays its next step at once, another one from its START; what the last replay has
left in MISMATCH and TOVF is cleared (log 137). -/
def Dev.arm (d : Dev) (c : Nat) : Dev :=
  let done := decide (d.rplState c = 3 ∧ (d.img c).state = .running)
  let d := ((d.setFld (rplReg c) 24 4 0).setFld (rplReg c) 4 1 0).setFld (rplReg c) 30 2 1
  if done then (d.replayLatch c).commitRelease c else d

/-- RESUME (R389). -/
def Dev.rplResume (d : Dev) (c : Nat) : Dev :=
  if d.rplState c ≠ 3 then d
  else (((d.setFld (rplReg c) 30 2 0).stepLatch c).twinLatch c).commitRelease c

/-- A write of UPD_RPL_CTLc. ARM and RESUME read 0. -/
def Dev.rplWrite (d : Dev) (c : Nat) (w v : Word) : Dev :=
  let d := d.setReg (rplReg c) (putFld w 0 2 0)
  if bit v 0 then d.arm c else if bit v 1 then d.rplResume c else d

/-- A write of UPD_CAP_CTLc: setting EN reserves the region and starts a new capture in it (R391, R392; log 138). -/
def Dev.capCtlWrite (d : Dev) (c : Nat) (w : Word) : Dev :=
  let off := at1 Reg.UPD_CAP_CTLc 0x100 c
  let old := d.reg off
  let d := d.setReg off w
  if bit w 31 && !bit old 31 then
    d.setStep c { d.stepOf c with capRegion := some (d.capNamed c), capPos := 0, capBlocks := [] }
  else d

/-- A write of UPD_CAP_SIZEc: 0 ends the reservation (R392). -/
def Dev.capSizeWrite (d : Dev) (c : Nat) (w : Word) : Dev :=
  let d := d.setReg (at1 Reg.UPD_CAP_SIZEc 0x100 c) w
  if w = 0 then d.setStep c { d.stepOf c with capRegion := none, capPos := 0, capBlocks := [] } else d

/-- A write of FLM_CTL: a change of ROUTE_EN, as RT_COMMIT, leaves nothing staged (R413, R417; log 139). -/
def Dev.flmCtlWrite (d : Dev) (w v : Word) : Dev :=
  let change := bit (d.reg Reg.FLM_CTL) 0 != bit w 0
  let d := d.setReg Reg.FLM_CTL (putBit w 1 false)
  let d := if bit v 1 || change then d.rtCommit else d
  if change && bit w 0 then (List.range 18).foldl Dev.routePort d else d

/-- A write of FLM_TIME_CTL: the edge that follows MASTER's being set is the master's first (R429). -/
def Dev.timeCtlWrite (d : Dev) (w : Word) : Dev :=
  let new := bit w 31 && (!d.timeMaster || d.flume.time.newMaster)
  (d.setReg Reg.FLM_TIME_CTL w).setTime { d.flume.time with newMaster := new }

/-- A write of FLM_RTd is staged while ROUTE_EN is 1 (R417). -/
def Dev.routeWrite (d : Dev) (off i : Nat) (w : Word) : Dev :=
  if bit (d.reg Reg.FLM_CTL) 0 then
    { d with flume := { d.flume with staged := (d.flume.staged.filter fun e => decide (e.1 ≠ i)) ++ [(i, w)] } }
  else d.setReg off w

/-- A write of FLM_PORT_CTLn: a new mode trains the port (R399, R619), RETRAIN retrains it, and clears when training begins
(R407). -/
def Dev.portWrite (d : Dev) (n : Nat) (w : Word) : Dev :=
  let off := portReg Reg.FLM_PORT_CTLn n
  let old := d.portMode n
  let d := d.setReg off w
  let mode := fld w 30 2
  if mode = 0 then d
  else
    let d := if mode ≠ old then d.startTraining n else if bit w 29 then d.commandRetrain n else d
    d.setReg off (putBit w 29 false)

/-- TWIN_CTL.EN is set: the network descriptor is read, and lockstep waits for the next step start (R433, R438). A descriptor
that cannot be read leaves the one before it. -/
def Dev.twinEnable (d : Dev) : Dev :=
  let va := (d.reg Reg.TWIN_NET_LO).toNat + d.regFld Reg.TWIN_NET_HI 0 16 * 2 ^ 32
  let d := d.setTwin { d.twin with pendingEn := true }
  match d.engineRead 12 d.twinCtx va 128 with
  | (d, bs, none) => d.setTwin { d.twin with net := bs }
  | (d, _, some b) =>
    let (x, d) := d.freeWord
    let (y, d) := d.freeWord
    d.capture Reg.FLM_ERR_ADDR_LO x (y % 32) (5 * 256 + b.1)

/-- A write of TWIN_CTL (R438, R444). Setting RJ_RECV with an image loaded and its context not running enters RJ_RECV. -/
def Dev.twinCtlWrite (d : Dev) (w : Word) : Dev :=
  let old := d.reg Reg.TWIN_CTL
  let d := d.setReg Reg.TWIN_CTL w
  let st := d.twin.state
  let d := if bit w 31 && (!bit old 31 || decide (st = 0 ∨ st = 4)) then d.twinEnable else d
  if bit w 30 && !bit old 30 && d.ctxStill d.twinCtx then d.setTwin { d.twin with state := 6, rejoin := none } else d

/-- A doorbell of a command ring (R479): a PROD too far ahead is discarded. -/
def Dev.cmdDoorbell (d : Dev) (c : Nat) (w : Word) : Dev :=
  let off := hostReg Reg.HST_CMD_IDX c
  let cons := fld w 16 16
  let prod := fld w 0 16
  if ringSize (d.reg (hostReg Reg.HST_CMD_CFG c)) < (prod + 2 ^ 16 - cons) % 2 ^ 16 then
    (d.hostError prod 0 (d.owner c) c 0 sLen).event 0x8008 c 0 prod sLen
  else d.setReg off w

/-- A write of a ring's configuration: EN from 0 to 1 starts it anew (R472, R478). -/
def Dev.ringWrite (d : Dev) (c : Nat) (cpl : Bool) (w : Word) : Dev :=
  let off := hostReg (if cpl then Reg.HST_CPL_CFG else Reg.HST_CMD_CFG) c
  let starts := bit w 31 && !bit (d.reg off) 31
  let d := d.setReg off w
  if !starts then d
  else if cpl then Dev.drainCpl c 16 ((d.setReg (hostReg Reg.HST_CPL_IDX c) 0).setImg c { d.img c with phase := true })
  else (d.setReg (hostReg Reg.HST_CMD_IDX c) 0).setImg c { d.img c with cmdStop := false }

/-- LDR_FORCE (R492). -/
def Dev.force (d : Dev) (v : Word) : Dev :=
  if fld v 24 2 = 1 then d.forceStop (fld v 0 4) else d.forceUnload (fld v 0 4)

/-- A write of SKP_MEMENC: bits of contexts that are not EMPTY stay (R597). -/
def Dev.encKept (d : Dev) (old v : Word) : Word :=
  bitWord 16 fun c => if (d.img c).state = .empty then bit v c else bit old c

/-- A write of LEHR_PARK (R558, R563). A refused UNPARK is logged in GOV_ERR. -/
def Dev.parkWrite (d : Dev) (who : Requester) (off n : Nat) (v : Word) : Dev :=
  let d := if bit v 0 then d.requestPark 4 else d
  if !bit v 1 then d
  else if d.unparkAllowed then d.unparkStart true
  else
    let (f, d) := d.whoFunc who
    (d.capture Reg.GOV_ERR_ADDR_LO d.park.causes.toNat 0 sPerm).event 0xB00B f off sPerm n

/-- Chapters 6 to 9: what a write does, where it is more than storing the fields. `w` is the register with its fields written,
`v` the word written. -/
def Dev.commit1 (d : Dev) (b off : Nat) (ix : List Nat) (w v : Word) : Option Dev :=
  let c := ixAt ix 0
  let chan := fun (f : Channel → Channel) => match d.selChan with
    | some x => d.putChan (d.regFld Reg.HOP_SEL 0 11) (d.regFld Reg.HOP_SEL 16 6) (f x)
    | none => d
  if b = Reg.HOP_CH_MSGS then some (chan fun x => { x with msgs := v.toNat })
  else if b = Reg.HOP_CH_STALLS then some (chan fun x => { x with stalls := v.toNat })
  else if b = Reg.HOP_CH_DROP then some (chan fun x => { x with drop := v.toNat })
  else if b = Reg.SLC_Q_DRY then some (d.setQueue d.selQueue { d.queue d.selQueue with dry := v.toNat })
  else if b = Reg.SLC_INV then some (d.slcInvWrite v)
  else if b = Reg.UPD_STEP_SIZEc then
    some ((d.setStep c { d.stepOf c with etaPend := v }).setReg (cmtReg c) (putBit (d.reg (cmtReg c)) 4 true))
  else if b = Reg.UPD_SEEDc then
    some ((d.setStep c { d.stepOf c with seedPend := v }).setReg (cmtReg c) (putBit (d.reg (cmtReg c)) 5 true))
  else if b = Reg.UPD_RPL_CTLc then some (d.rplWrite c w v)
  else if b = Reg.UPD_CAP_CTLc then some (d.capCtlWrite c w)
  else if b = Reg.UPD_CAP_SIZEc then some (d.capSizeWrite c w)
  else if b = Reg.FLM_CTL then some (d.flmCtlWrite w v)
  else if b = Reg.FLM_TIME_CTL then some (d.timeCtlWrite w)
  else if b = Reg.FLM_RTd then some (d.routeWrite off c w)
  else if b = Reg.FLM_PORT_CTLn then some (d.portWrite c w)
  else if b = Reg.TWIN_CTL then some (d.twinCtlWrite w)
  else none

/-- A write of SLC_RESUME: one that names no fault that stands is logged in SLC_ERR, and recorded as every violation of a register
access (R306, R521; log 149). -/
def Dev.resumeWrite (d : Dev) (who : Requester) (off n : Nat) (v : Word) : Dev :=
  match d.slcResumeWrite v with
  | some d => d
  | none =>
    let (f, d) := (d.slcError false 0 (((d.binding (d.slcSel / 32)).map (·.1)).getD 0) 5 sParam).whoFunc who
    d.event 0xB00B f off sParam n

/-- Chapters 8, and 11 to 14. -/
def Dev.commit2 (d : Dev) (who : Requester) (b acc n : Nat) (ix : List Nat) (w v : Word) (locked : Bool) : Option Dev :=
  let c := ixAt ix 0
  if b = Reg.SLC_RESUME then some (d.resumeWrite who acc n v)
  else if b = Reg.HST_CMD_IDX then some (d.cmdDoorbell c w)
  else if b = Reg.HST_CMD_CFG then some (d.ringWrite c false w)
  else if b = Reg.HST_CPL_CFG then some (d.ringWrite c true w)
  else if b = Reg.HST_CPL_IDX then some (Dev.drainCpl c 16 (d.setReg (hostReg Reg.HST_CPL_IDX c) w))
  else if b = Reg.LDR_FORCE then some (d.force v)
  else if b = Reg.ECC_CFG then
    let next := if locked then d.ecc.hbmNext else fld v 16 1
    some (({ d with ecc := { d.ecc with hbmNext := next } } : Dev).setReg Reg.ECC_CFG (putFld w 16 1 0))
  else if b = Reg.ECC_FENCE then some (d.fenceCommand (fld v 0 8))
  else if b = Reg.SKP_MEMENC then
    let old := d.reg Reg.SKP_MEMENC
    let new := d.encKept old v
    let d := d.setReg Reg.SKP_MEMENC new
    some (if new = bitWord 16 (bit v) then d else d.regViolation who acc (some Reg.SKP_MEMENC) none sPerm n)
  else if b = Reg.LEHR_PARK then some (d.parkWrite who acc n v)
  else if b = Reg.EVR_CURSOR then some (d.cursorSet v)
  else none

/-- GO is set (R442): a rejoin is armed for the named step once its checks hold; refused, the write changes nothing. -/
def Dev.rjGoWrite (d : Dev) (who : Requester) (acc n : Nat) (w : Word) : Dev :=
  let old := d.reg Reg.TWIN_RJ_CTL
  let d := d.setReg Reg.TWIN_RJ_CTL w
  if bit old 31 || !bit w 31 then d
  else match d.rjCheck with
    | (d, st, regions) =>
      if st = sOk then d.setTwin { d.twin with armed := some ((d.reg Reg.TWIN_RJ_STEP).toNat, regions) }
      else (d.setReg Reg.TWIN_RJ_CTL old).regViolation who acc (some Reg.TWIN_RJ_CTL) none st n

/-- A write of a register takes effect: fields by their types (R9), what the register's description adds, and COUNT of an
`_ERR_INFO` with VALID (R522). `acc` is the offset as the requester addresses it, `n` the bytes of its access. -/
def Dev.regCommit (d : Dev) (who : Requester) (r : RegDesc) (ix : List Nat) (off acc n : Nat) (locked : Bool) (v : Word) : Dev :=
  match tileOfOff off with
  | some (t, o) =>
    let w := fieldsWrite r.fields locked (d.tileReg t o) v
    d.putTileReg t o (if isErrInfo r && bit v 31 then putFld w 16 15 0 else w)
  | none =>
    let w := fieldsWrite r.fields locked (d.reg off) v
    if isErrInfo r then d.setReg off (if bit v 31 then putFld w 16 15 0 else w)
    else if r.base = Reg.TWIN_RJ_CTL then d.rjGoWrite who acc n w
    else match d.commit1 r.base off ix w v with
      | some d => d
      | none => match d.commit2 who r.base acc n ix w v locked with
        | some d => d
        | none => d.setReg off w

/-! ### Halves (R8) -/

/-- What is held of the 64-bit quantity whose `_LO` lies at an offset. -/
def Dev.halvesAt (d : Dev) (lo : Nat) : Halves := Tab.get (fun _ => Halves.reset) d.halves lo
def Dev.setHalves (d : Dev) (lo : Nat) (h : Halves) : Dev := { d with halves := Tab.set (fun _ => Halves.reset) d.halves lo h }

/-- The register is the `_LO`, or the `_HI`, of a 64-bit quantity. -/
def isLo (r : RegDesc) : Bool := loBases.contains r.base
def isHi (r : RegDesc) : Bool := decide (4 ≤ r.base) && loBases.contains (r.base - 4)

/-- The doorbell pair has been committed (R480). -/
def Dev.pairDone (d : Dev) (r : RegDesc) (ix : List Nat) (lo hi : Word) : Dev :=
  if r.base = Reg.HST_SYNC_DB_HI then d.doorbell (ixAt ix 0) lo hi else d

/-- A write of `_HI` that is accepted commits both halves (R8). -/
def Dev.commitPair (d : Dev) (who : Requester) (r : RegDesc) (ix : List Nat) (off acc n : Nat) (v : Word) : Dev :=
  let lo := off - 4
  let held := (d.halvesAt lo).held
  let d := d.setHalves lo { d.halvesAt lo with held := none }
  let d := match held, regFind lo with
    | some x, some (q, qx) => d.regCommit who q qx lo acc n false x
    | _, _ => d
  (d.regCommit who r ix off acc n false v).pairDone r ix (held.getD (d.reg lo)) v

/-! ### Writing -/

/-- A 4-byte write to a register, after reach (R5, R8, R10, R11, R518). `acc` and `n` are the offset and bytes of the access as the
requester made it. A register whose fields are all locked is refused whole; ECC_CFG keeps its one locked field. -/
def State.writeReg (s : State) (who : Requester) (acc n off : Nat) (v : Word) : State :=
  match capHeader off with
  | some _ => s
  | none =>
    match regFind off with
    | none => onDev (fun d => d.regViolation who acc none none sParam n) s
    | some (r, ix) =>
      let locked := hasLock r && s.dev.regLocked r.base off ix
      let part := decide (r.base = Reg.ECC_CFG)
      let bad := if locked && !part then some (sPerm, none) else s.refusal r.base off ix v
      let viol := fun (x : Nat × Option Nat) (d : Dev) => d.regViolation who acc (some off) x.2 x.1 n
      let odd := fun (d : Dev) => if setsReserved r v then viol (sParam, none) d else d
      if isLo r then
        match bad with
        | some x => onDev (fun d => viol x (d.setHalves off { d.halvesAt off with held := none, refused := some x.1 })) s
        | none => onDev (fun d => odd (d.setHalves off { d.halvesAt off with held := some v, refused := none })) s
      else if isHi r then
        let h := s.dev.halvesAt (off - 4)
        let drop := fun (d : Dev) => d.setHalves (off - 4) { h with held := none, refused := none }
        match h.refused, bad with
        | some st, _ => onDev (fun d => viol (st, none) (drop d)) s
        | none, some x => onDev (fun d => viol x (drop d)) s
        | none, none => onDev (fun d => odd (d.commitPair who r ix off acc n v)) s
      else match bad with
        | some x => onDev (viol x) s
        | none =>
          let s := onDev (fun d => odd (d.regCommit who r ix off acc n locked v)) s
          if locked then onDev (viol (sPerm, none)) s else s

/-- A 4-byte write at an aligned offset of the requester's BAR0. -/
def State.write4 (s : State) (who : Requester) (acc n : Nat) (v : Word) : State :=
  match s.dev.reach who acc with
  | .reserved => onDev (fun d => d.regViolation who acc none none sParam n) s
  | .foreign o => onDev (fun d => d.regViolation who acc (some o) none sPerm n) s
  | .reg o => s.writeReg who acc n o v

/-- The register that contains an offset, where the access reaches it (R7, R521). -/
def Dev.containing (d : Dev) (who : Requester) (acc : Nat) : Option Nat :=
  match d.reach who (alignDown 4 acc) with
  | .reg o => if (regFind o).isSome || (capHeader o).isSome then some o else none
  | _ => none

/-- A tile's register access traps (R10, R64, R99): the context that runs takes the trap of its `sys.csrr` or `sys.csrw`, which stands
in slot A; the command does not name the instruction's word, so TILE_TRAP_INFO is free (log 194). -/
def Dev.accessTrap (d : Dev) (t : Nat) (k : HCtx) (tr : Trap) : Dev :=
  if (d.ctx t k).run ≠ .run then d
  else
    let (w, d) := d.freeWord
    d.raiseTrap t k false (BitVec.ofNat 32 w) tr

/-- A write of `n` bytes (R5, R7). A tile reaches its own page by `sys.csrw` alone (R99). -/
def State.regWrite (s : State) (who : Requester) (off n v : Nat) : State :=
  if !s.dev.regsUp who then s
  else match who with
    | .tile t k =>
      match s.dev.csrTrap t k off true with
      | some tr => onDev (fun d => d.accessTrap t k tr) s
      | none => onDev (fun d => d.csrWrite t k off (BitVec.ofNat 32 v)) s
    | .host _ | .skeop =>
      if n = 8 ∧ off % 8 = 0 then (s.write4 who off 8 (loWord v)).write4 who (off + 4) 8 (hiWord v)
      else if n = 4 ∧ off % 4 = 0 then s.write4 who off 4 (loWord v)
      else if n = 1 ∨ (n = 2 ∧ off % 2 = 0) then
        onDev (fun d => d.regViolation who off (d.containing who off) none sParam n) s
      else onDev (fun d => d.regViolation who off none none sParam n) s

/-! ### Reading -/

/-- Reading a register: its value, the captured half (R8), and the window's advance (R590). -/
def State.readReg (s : State) (who : Requester) (acc n off : Nat) : State × Word :=
  match s.view off with
  | none => (onDev (fun d => d.regViolation who acc none none sParam n) s, 0)
  | some w =>
    match regFind off with
    | none => (s, w)
    | some (r, _) =>
      if isLo r then
        (onDev (fun d => d.setHalves off { d.halvesAt off with captured := s.view (off + 4) }) s, w)
      else if isHi r then
        let h := s.dev.halvesAt (off - 4)
        (onDev (fun d => d.setHalves (off - 4) { h with captured := none }) s, h.captured.getD w)
      else if off = Reg.EVR_WINDOWw + 28 then (onDev Dev.windowNext s, w)
      else (s, w)

/-- A 4-byte read at an aligned offset of the requester's BAR0. -/
def State.read4 (s : State) (who : Requester) (acc n : Nat) : State × Word :=
  match s.dev.reach who acc with
  | .reserved => (onDev (fun d => d.regViolation who acc none none sParam n) s, 0)
  | .foreign _ => (s, 0)
  | .reg o => s.readReg who acc n o

/-- A read of `n` bytes (R5, R6, R41): its answer is the machine's reply. -/
def State.regRead (s : State) (who : Requester) (off n : Nat) : State :=
  if !s.dev.regsUp who then s
  else match who with
    | .tile t k =>
      match s.dev.csrTrap t k off false with
      | some tr => onDev (fun d => d.accessTrap t k tr) s
      | none => onDev (fun d =>
        let (d, w) := d.csrRead t k off
        d.answerRead (bytesOf 4 w.toNat) sOk) s
    | .host _ | .skeop =>
      if n = 8 ∧ off % 8 = 0 then
        let (s, lo) := s.read4 who off 8
        let (s, hi) := s.read4 who (off + 4) 8
        onDev (fun d => d.answerRead (bytesOf 4 lo.toNat ++ bytesOf 4 hi.toNat) sOk) s
      else if n = 1 ∨ ((n = 2 ∨ n = 4) ∧ off % n = 0) then
        let (s, w) := s.read4 who (alignDown 4 off) n
        onDev (fun d => d.answerRead (((bytesOf 4 w.toNat).drop (off % 4)).take n) sOk) s
      else onDev (fun d => (d.regViolation who off none none sParam n).answerRead (List.replicate n 0) sParam) s

/-! ### Rows -/

/-- REGISTER_WRITE. -/
def execRegisterWrite (who : Requester) (off len data : Nat) (s : State) : Res := .next (s.regWrite who off len data)

/-- REGISTER_READ_LO. -/
def execRegisterReadLo (who : Requester) (off : Nat) (s : State) : Res := .next (s.regRead who off 4)

/-- ILLEGAL_REGISTER_READ. -/
def execIllegalRegisterRead (who : Requester) (off len : Nat) (s : State) : Res := .next (s.regRead who off len)

/-- The offset at which a function addresses a register of a context's page, where it can (R452, R493). -/
def pageOff (f : Fin 17) (base c : Nat) : Option Nat :=
  if f.val = 0 then some (hostReg base c) else if f.val = c + 1 then some base else none

/-- A write of a register of a context's page by a function. -/
def State.pageWrite (s : State) (f : Fin 17) (base c n v : Nat) : State :=
  match pageOff f base c with
  | some off => s.regWrite (.host f) off n v
  | none => s

/-- A sync doorbell with an OP (R248, R480). -/
def State.ring (s : State) (f : Fin 17) (c op : Nat) (lo hi : Word) : State :=
  s.pageWrite f Reg.HST_SYNC_DB_LO c 8 ((putFld lo 12 2 op).toNat + hi.toNat * 2 ^ 32)

/-- SYNC_DOORBELL_SIGNAL. -/
def execSyncDoorbellSignal (f : Fin 17) (c : ICtx) (lo hi : Word) (s : State) : Res := .next (s.ring f c 0 lo hi)

/-- SYNC_DOORBELL_ARRIVAL. -/
def execSyncDoorbellArrival (f : Fin 17) (c : ICtx) (lo hi : Word) (s : State) : Res := .next (s.ring f c 1 lo hi)

/-- SYNC_DOORBELL_ARM. -/
def execSyncDoorbellArm (f : Fin 17) (c : ICtx) (lo hi : Word) (s : State) : Res := .next (s.ring f c 2 lo hi)

/-- SLUICE_RESUME. -/
def execSluiceResume (who : Requester) (w : Word) (s : State) : Res :=
  .next (s.regWrite who Reg.SLC_RESUME 4 (putFld w 30 2 1).toNat)

/-- SLUICE_ABORT. -/
def execSluiceAbort (who : Requester) (w : Word) (s : State) : Res :=
  .next (s.regWrite who Reg.SLC_RESUME 4 (putFld w 30 2 2).toNat)

/-- SLC_INV_GO. -/
def execSlcInvGo (who : Requester) (w : Word) (s : State) : Res := .next (s.regWrite who Reg.SLC_INV 4 (putBit w 8 true).toNat)

/-- UPD_STEP_SIZE_WRITE. -/
def execUpdStepSizeWrite (who : Requester) (c : ICtx) (w : Word) (s : State) : Res :=
  .next (s.regWrite who (at1 Reg.UPD_STEP_SIZEc 0x100 c) 4 w.toNat)

/-- UPD_SEED_WRITE. -/
def execUpdSeedWrite (who : Requester) (c : ICtx) (w : Word) (s : State) : Res :=
  .next (s.regWrite who (at1 Reg.UPD_SEEDc 0x100 c) 4 w.toNat)

/-- REPLAY_ARM. -/
def execReplayArm (who : Requester) (c : ICtx) (w : Word) (s : State) : Res :=
  .next (s.regWrite who (rplReg c) 4 (putBit w 0 true).toNat)

/-- REPLAY_RESUME. -/
def execReplayResume (who : Requester) (c : ICtx) (w : Word) (s : State) : Res :=
  .next (s.regWrite who (rplReg c) 4 (putBit w 1 true).toNat)

/-- CAPTURE_ENABLE. -/
def execCaptureEnable (who : Requester) (c : ICtx) (w : Word) (s : State) : Res :=
  .next (s.regWrite who (at1 Reg.UPD_CAP_CTLc 0x100 c) 4 (putBit w 31 true).toNat)

/-- PORT_RETRAIN_REQUEST. -/
def execPortRetrainRequest (who : Requester) (p : Port) (w : Word) (s : State) : Res :=
  .next (s.regWrite who (portReg Reg.FLM_PORT_CTLn p) 4 (putBit w 29 true).toNat)

/-- FLM_RT_COMMIT. -/
def execFlmRtCommit (who : Requester) (w : Word) (s : State) : Res := .next (s.regWrite who Reg.FLM_CTL 4 (putBit w 1 true).toNat)

/-- TWIN_ENABLE. -/
def execTwinEnable (who : Requester) (w : Word) (s : State) : Res := .next (s.regWrite who Reg.TWIN_CTL 4 (putBit w 31 true).toNat)

/-- TWIN_RJ_GO. -/
def execTwinRjGo (who : Requester) (w : Word) (s : State) : Res := .next (s.regWrite who Reg.TWIN_RJ_CTL 4 (putBit w 31 true).toNat)

/-- TWIN_RJ_RECV. -/
def execTwinRjRecv (who : Requester) (w : Word) (s : State) : Res := .next (s.regWrite who Reg.TWIN_CTL 4 (putBit w 30 true).toNat)

/-- CMD_DOORBELL. -/
def execCmdDoorbell (f : Fin 17) (c : ICtx) (w : Word) (s : State) : Res := .next (s.pageWrite f Reg.HST_CMD_IDX c 4 w.toNat)

/-- CMD_RING_ENABLE. -/
def execCmdRingEnable (f : Fin 17) (c : ICtx) (w : Word) (s : State) : Res :=
  .next (s.pageWrite f Reg.HST_CMD_CFG c 4 (putBit w 31 true).toNat)

/-- CPL_RING_ENABLE. -/
def execCplRingEnable (f : Fin 17) (c : ICtx) (w : Word) (s : State) : Res :=
  .next (s.pageWrite f Reg.HST_CPL_CFG c 4 (putBit w 31 true).toNat)

/-- CPL_HEAD_WRITE. -/
def execCplHeadWrite (f : Fin 17) (c : ICtx) (w : Word) (s : State) : Res := .next (s.pageWrite f Reg.HST_CPL_IDX c 4 w.toNat)

/-- FORCE_STOP. -/
def execForceStop (who : Requester) (w : Word) (s : State) : Res := .next (s.regWrite who Reg.LDR_FORCE 4 (putFld w 24 2 1).toNat)

/-- FORCE_UNLOAD. -/
def execForceUnload (who : Requester) (w : Word) (s : State) : Res := .next (s.regWrite who Reg.LDR_FORCE 4 (putFld w 24 2 2).toNat)

/-- FLIP_ARM. -/
def execFlipArm (who : Requester) (w : Word) (s : State) : Res := .next (s.regWrite who Reg.ECC_FLIP_SEL 4 (putBit w 31 true).toNat)

/-- FENCE_REQUEST. -/
def execFenceRequest (who : Requester) (w : Word) (s : State) : Res := .next (s.regWrite who Reg.ECC_FENCE 4 w.toNat)

/-- HOST_PARK_REQUEST. -/
def execHostParkRequest (who : Requester) (w : Word) (s : State) : Res := .next (s.regWrite who Reg.LEHR_PARK 4 (putBit w 0 true).toNat)

/-- HOST_UNPARK. -/
def execHostUnpark (who : Requester) (w : Word) (s : State) : Res := .next (s.regWrite who Reg.LEHR_PARK 4 (putBit w 1 true).toNat)

/-- EVR_CURSOR_WRITE. -/
def execEvrCursorWrite (who : Requester) (w : Word) (s : State) : Res := .next (s.regWrite who Reg.EVR_CURSOR 4 w.toNat)

/-- EVR_WINDOW_AUTO_READ. -/
def execEvrWindowAutoRead (who : Requester) (s : State) : Res := .next (s.regRead who (Reg.EVR_WINDOWw + 28) 4)

end Sys2Proof.Machine
end

