-- ==== Sys2Proof/Machine/SkeopOps.lean ====
section
/-!
DEFINITION. What Skeop does with management requests (R567, R568, R570 to R583, R593, R596, R601 to R604).
-/
namespace Sys2Proof.Machine

/-! ### Requests, answers and refusals (R572 to R574, R578, R579) -/

/-- The code of a bus (SKP_ERR_ADDR_HI.BUS). -/
def busCode : Bus → Nat
  | .twoWire => 0 | .pcie => 1 | .pcieVf => 1 | .oob => 2

/-- A response. Its status is a code of R18, or 0x100 with an SPDM error code (log 127). -/
def Dev.mgmtAnswer (d : Dev) (r : MgmtReq) (code status : Nat) (data : List Byte) : Dev := d.emit (.mgmt r.bus r.eid code status data)

/-- A refused request (R518, R519, R578): capture, event 0xA006, and a response that carries the status. -/
def Dev.mgmtRefuse (d : Dev) (r : MgmtReq) (source code status : Nat) : Dev :=
  let who := busCode r.bus
  ((d.capture Reg.SKP_ERR_ADDR_LO code (who * 256 + r.eid.toNat) (source * 256 + status)).event 0xA006 who r.eid.toNat code
    status).mgmtAnswer r code status []

/-- A refusal whose status the manual does not state. -/
def Dev.mgmtRefuseFree (d : Dev) (r : MgmtReq) (source code : Nat) : Dev :=
  let (st, d) := d.freeWord
  d.mgmtRefuse r source code (st % 12)

/-- A message of a VF is discarded and logged (R572); what it asked for is not read. -/
def Dev.vfMessage (d : Dev) (eid : Byte) : Dev :=
  let (code, d) := d.freeWord
  let (st, d) := d.freeWord
  (d.capture Reg.SKP_ERR_ADDR_LO code (256 + eid.toNat) (3 * 256 + st % 12)).event 0xA006 1 eid.toNat code (st % 12)

/-- SKP_ALERT_N is driven low: a message for the two-wire bus, or a PLDM event, waits (R572, R582; log 206). -/
def Dev.skpAlert (d : Dev) : Bool :=
  d.out.any fun o => match o with
    | .mgmt .twoWire _ _ _ _ => true
    | .platformEvent _ _ => true
    | _ => false

/-- The session of a request, while it is open. -/
def Skeop.sessionOf (k : Skeop) (r : MgmtReq) : Option Session := r.session.bind fun n => k.sessions.find? fun x => decide (x.id = n)

/-- The request travels inside an established session. -/
def Skeop.inSession (k : Skeop) (r : MgmtReq) : Bool := ((k.sessionOf r).map (·.established)).getD false

/-- The request travels in a session that the owner authorises (R578). -/
def Skeop.byOwner (k : Skeop) (r : MgmtReq) : Bool :=
  ((k.sessionOf r).map fun x => x.established && x.owner).getD false && k.owner.isSome

/-- Serve an SPDM request, once Skeop runs. -/
def State.spdm (s : State) (r : MgmtReq) (f : State → State) : State :=
  if !s.dev.skeopRuns then s
  else if r.bus = .pcieVf then onDev (fun d => d.vfMessage r.eid) s
  else f s

/-- Serve an MCTP control request: the out-of-band port discards it (R574). -/
def State.control (s : State) (r : MgmtReq) (f : State → State) : State := if r.bus = .oob then s else s.spdm r f

/-- Serve a PLDM request: on the out-of-band port only inside a session (R574); the boot ROM's recovery service answers those of
the firmware update only (R569). -/
def State.pldm (s : State) (r : MgmtReq) (update : Bool) (f : State → State) : State :=
  if (r.bus = .oob ∧ !s.sk.inSession r) ∨ (s.sk.rom ∧ !update) then s else s.spdm r f

/-- Serve authorised command `n` of R578, where its session and the mode let it (`may`, R568): the command answers the state
after it, a status and data. -/
def State.authorised (s : State) (r : MgmtReq) (n : Nat) (may : Bool) (f : State → State × Nat × List Byte) : State :=
  let code := (Config.commandCode n).toNat
  if r.bus = .oob ∧ !s.sk.inSession r then s
  else s.spdm r fun s =>
    if r.busy then onDev (fun d => d.mgmtAnswer r code 0x103 []) s
    else if !may then onDev (fun d => d.mgmtRefuse r 0 code sPerm) s
    else
      let (s', st, data) := f s
      if st = sOk then onDev (fun d => d.mgmtAnswer r code sOk data) s' else onDev (fun d => d.mgmtRefuse r 0 code st) s'

/-- Every context is EMPTY. -/
def Dev.allEmpty (d : Dev) : Bool := (List.range 16).all fun c => decide ((d.img c).state = .empty)

/-! ### Authorised commands -/

/-- SET_OWNER (R577): while no owner is set, in START-UP in any session; then by the owner. A session made under another root
does not chain to the new one (log 128). -/
def State.setOwner (s : State) (r : MgmtReq) (key : List Byte) : State :=
  let may := match s.sk.owner with
    | none => decide (s.sk.mode = .startUp) && s.sk.inSession r
    | some _ => s.sk.byOwner r
  s.authorised r 0 may fun s =>
    (onSk (fun k => { k with owner := some key, sessions := k.sessions.map fun x => { x with owner := false } }) s, sOk, [])

/-- Skeop enters a mode: event 0xA004 (R567), and 0xA003 for RECOVERY. -/
def State.enterMode (s : State) (m : SkMode) : State :=
  let old := s.sk.mode
  let d := if m = .recovery then s.dev.event 0xA003 1 0 0 0 else s.dev
  { s with sk := { s.sk with mode := m }, dev := d.event 0xA004 old.code m.code 0 0 }

/-- SET_MODE (R567). START-UP is left for TEST and RECOVERY as well as for OPERATIONAL; asking for the mode in force changes
nothing (log 129). -/
def State.setMode (s : State) (r : MgmtReq) (mode : Nat) : State :=
  s.authorised r 1 (s.sk.byOwner r) fun s =>
    let now := s.sk.mode
    let open_ := decide (now = .startUp) || decide (now = .operational)
    if 4 ≤ mode then (s, sParam, [])
    else if mode = now.code then (s, sOk, [])
    else if mode = 1 ∧ now = .startUp then (s.enterMode .operational, sOk, [])
    else if mode = 2 ∧ open_ ∧ s.dev.allEmpty then (s.enterMode .test, sOk, [])
    else if mode = 3 ∧ open_ ∧ s.dev.allEmpty then (s.enterMode .recovery, sOk, [])
    else (s, sPerm, [])

/-- EVR_CLEAR (R568, R593). -/
def State.clearEvr (s : State) (r : MgmtReq) : State :=
  s.authorised r 2 (s.sk.byOwner r && decide (s.sk.mode ≠ .operational)) fun s =>
    (onDev (fun d => d.evrClear r.eid.toNat) s, sOk, [])

/-- The modes of COMMIT_SVN and SET_IMAGE_KEY (R568). -/
def Skeop.setup (k : Skeop) : Bool := decide (k.mode = .startUp) || decide (k.mode = .recovery)

/-- COMMIT_SVN (R570). -/
def State.commitSvn (s : State) (r : MgmtReq) (v : Nat) : State :=
  s.authorised r 3 (s.sk.byOwner r && s.sk.setup) fun s =>
    let old := s.sk.fusedSvn
    if s.sk.svnRun < v then (s, sParam, [])
    else if v ≤ old then (s, sOk, [])
    else ({ s with sk := { s.sk with fusedSvn := v }, dev := s.dev.event 0xA005 old v 0 0 }, sOk, [])

/-- SET_IMAGE_KEY (R578, R595, R596); a slot beyond 3 is refused (log 130). -/
def State.setImageKey (s : State) (r : MgmtReq) (slot : Nat) (kindD : Bool) (key : List Byte) : State :=
  s.authorised r 4 (s.sk.byOwner r && s.sk.setup) fun s =>
    if 4 ≤ slot then (s, sParam, [])
    else
      let k := s.sk
      let k := if kindD then { k with imgD := Tab.put k.imgD slot key } else { k with imgV := Tab.put k.imgV slot key }
      ({ s with sk := k, dev := s.dev.event 0xA008 (b2n kindD) slot 0 0 }, sOk, [])

/-- The key slot a port sends with, while it encrypts (R409). -/
def Dev.sendSlot (d : Dev) (n : Nat) : Option Nat :=
  let w := d.reg (portReg Reg.FLM_PORT_CTLn n)
  if bit w 28 then some (b2n (bit w 27)) else none

/-- SET_LINK_KEY (R601): the slot's frame counter starts at 0. -/
def State.setLinkKey (s : State) (r : MgmtReq) (port slot : Nat) (key : List Byte) : State :=
  s.authorised r 5 (s.sk.byOwner r) fun s =>
    if 18 ≤ port ∨ 2 ≤ slot then (s, sParam, [])
    else if s.dev.sendSlot port = some slot then (s, sPerm, [])
    else
      let p := s.dev.port port
      let p := if slot = 0 then { p with ctr0 := 0 } else { p with ctr1 := 0 }
      ({ s with
        sk := { s.sk with linkKeys := Tab.put s.sk.linkKeys (2 * port + slot) key }
        dev := (s.dev.setPort port p).event 0xA008 2 slot port 0 }, sOk, [])

/-- DEBUG_CHALLENGE (R603): a nonce of 32 random bytes, which replaces one that is out. -/
def State.challengeDebug (s : State) (r : MgmtReq) : State :=
  s.authorised r 6 (s.sk.byOwner r) fun s =>
    let n := ((Config.freeBytes s.dev.freeIx) ++ List.replicate 32 0).take 32
    ({ s with sk := { s.sk with nonce := some (n, s.dev.cycle) }, dev := s.dev.draw }, sOk, n)

/-- The nonce is still valid (R603). -/
def State.nonceValid (s : State) : Option (List Byte) :=
  match s.sk.nonce with
  | some (n, t) => if s.dev.cycle - t < cyclesOfMs 60000 then some n else none
  | none => none

/-- INVASIVE destroys every memory key and shuts the kind D keys off (R604). -/
def Dev.dropKeys (d : Dev) : Dev :=
  (List.range 16).foldl (fun d c =>
    if (d.img c).memKey.isSome then (d.setImg c { d.img c with memKey := none }).event 0xA009 c 0 0 0 else d) d

/-- DEBUG_UNLOCK (R602 to R604): the nonce is spent whatever comes; a level is never lowered (log 131). -/
def State.unlockDebug (s : State) (r : MgmtReq) (level : Nat) (sig : List Byte) : State :=
  s.authorised r 7 (s.sk.byOwner r) fun s =>
    let spent := onSk (fun k => { k with nonce := none }) s
    match s.nonceValid, s.sk.owner with
    | some n, some key =>
      let msg := n ++ bytesOf 8 Config.serial.toNat ++ bytesOf 1 level
      if level ≠ 1 ∧ level ≠ 2 then (spent, sParam, [])
      else if !Config.ecdsaVerify key (Config.sha384 msg) sig ∨ (level = 2 ∧ !s.dev.allEmpty) then (spent, sPerm, [])
      else
        let s := onSk (fun k => { k with debug := max k.debug level, imgDOff := k.imgDOff || decide (level = 2) }) spent
        (onDev (fun d => (if level = 2 then d.dropKeys else d).event 0xA007 level r.eid.toNat 0 0) s, sOk, [])
    | _, _ => (spent, sPerm, [])

/-- CLEAR_MAP (R517, R531, R568): what the NOR keeps is cleared, and the next start-up applies that (log 132). -/
def State.clearMap (s : State) (r : MgmtReq) (which : Nat) : State :=
  s.authorised r 8 (s.sk.byOwner r && decide (s.sk.mode = .recovery)) fun s =>
    let e := s.dev.ecc
    let e := if which = 0 then { e with norRows := [] } else if which = 1 then { e with norDies := [] } else { e with norFenced := [] }
    if 3 ≤ which then (s, sParam, []) else (onDev (fun d => { d with ecc := e }) s, sOk, [])

/-- SET_EXPORT (R583): records written from now on; kind bit 0 is the ledger, bit 1 events, and neither ends the export. -/
def State.setExport (s : State) (r : MgmtReq) (collector : List Byte) (port kinds minSev : Nat) : State :=
  s.authorised r 9 (s.sk.byOwner r) fun s =>
    let x : Export := {
      collector := collector, port := port, ledger := kinds.testBit 0, events := kinds.testBit 1, minSev := minSev
      nextLedger := s.dev.ledgerCount, nextEvent := s.dev.evr.head, seq := 0, lost := 0 }
    (onSk (fun k => { k with telemetry := if kinds % 4 = 0 then none else some x }) s, sOk, [])

/-! ### Packets and MCTP control (R572, R573) -/

/-- A packet is discarded (R573): counted and logged with SOURCE 3; command and status are not the manual's. -/
def Dev.dropPacket (d : Dev) (bus : Bus) (eid : Byte) : Dev :=
  let (code, d) := (d.count Reg.SKP_BUS_DROP 1).freeWord
  let (st, d) := d.freeWord
  (d.capture Reg.SKP_ERR_ADDR_LO code (busCode bus * 256 + eid.toNat) (3 * 256 + st % 12)).event 0xA006 (busCode bus) eid.toNat code
    (st % 12)

/-- A packet arrives and is assembled (R572 to R574); the message it completes is a command of its own. One that continues no
message of its bus is dropped silently. -/
def State.packet (s : State) (bus : Bus) (eid dest : Byte) (pecOk som eom : Bool) (type : Nat) (data : List Byte) : State :=
  let k := s.sk
  let goes := decide (k.partBus = busCode bus) && !k.partMsg.isEmpty
  if !s.dev.skeopRuns ∨ (bus = .oob ∧ type ≠ 5 ∧ type ≠ 6) then s
  else if bus = .pcieVf then onDev (fun d => d.vfMessage eid) s
  else if (bus = .twoWire ∧ !pecOk) ∨ k.unit < data.length ∨ dest.toNat ≠ k.eid then onDev (fun d => d.dropPacket bus eid) s
  else if !som ∧ !goes then s
  else
    let msg := if som then data else k.partMsg ++ data
    onSk (fun k => { k with partMsg := if eom then [] else msg, partBus := busCode bus }) s

/-- SCL is held low for 35 ms (R573). -/
def State.sclTimeout (s : State) : State :=
  if !s.dev.skeopRuns then s
  else
    onDev (fun d => d.event 0xA00B 0 0 0 0) (onSk (fun k => if k.partBus = 0 then { k with partMsg := [] } else k) s)

/-- Set Endpoint ID; the null and broadcast IDs name no endpoint (log 127). -/
def State.setEid (s : State) (r : MgmtReq) (eid : Byte) : State :=
  s.control r fun s =>
    if eid = 0 ∨ eid = 0xFF then onDev (fun d => d.mgmtRefuseFree r 3 1) s
    else onDev (fun d => d.mgmtAnswer r 1 sOk [eid]) (onSk (fun k => { k with eid := eid.toNat }) s)

/-- The message types Skeop supports (R572). -/
abbrev mctpTypes : List Nat := [0, 1, 5, 6, 0x7E]

/-! ### SPDM (R575, R576) -/

/-- The contents of the running slot. -/
def Skeop.running (k : Skeop) : List Byte := (k.slotOf k.slot).image

/-- Bytes of a row in a measurement. -/
def rowBytes (r : RowId) : List Byte := bytesOf 1 (b2n r.hbm) ++ bytesOf 2 r.unit ++ bytesOf 2 r.bank ++ bytesOf 4 r.row

/-- The bytes of a table of key slots in a measurement. -/
def slotBytes (t : Tab (List Byte)) : List Byte := t.flatMap fun e => bytesOf 1 e.1 ++ bytesOf 2 e.2.length ++ e.2

/-- A measurement (R576); how what is measured is laid out is the model's (log 133). -/
def State.measurement (s : State) (i : Nat) : Option (List Byte) :=
  let k := s.sk
  let e := s.dev.ecc
  if i = 1 then some Config.bootRomDigest
  else if i = 2 then some (Config.sha384 k.running)
  else if i = 3 then some (Config.sha384 (bytesOf 1 k.fusedSvn ++ bytesOf 1 k.svnRun ++ bytesOf 1 k.mode.code ++ bytesOf 1 k.debug))
  else if i = 4 then some (Config.sha384 (bytesOf 1 e.hbmMode ++ e.norFenced.flatMap (bytesOf 1 ·) ++ e.norRows.flatMap rowBytes ++
    e.norDies.flatMap fun x => bytesOf 1 x.1 ++ bytesOf 2 x.2.toNat))
  else if i = 5 then some (Config.sha384 (slotBytes k.imgV ++ slotBytes k.imgD))
  else if 16 ≤ i ∧ i < 32 then
    let x := s.dev.img (i - 16)
    some (if x.state = .empty then List.replicate 48 0 else x.digest)
  else none

/-- The certificate chain of slot 0 (R576): its alias certificate depends on the measurements of boot ROM and firmware. -/
def Skeop.chain (k : Skeop) : List Byte := Config.certChain (Config.bootRomDigest ++ Config.sha384 k.running)

/-- Serve an SPDM request that follows negotiation, as SPDM 1.3 orders its requests (log 127). -/
def State.negotiated (s : State) (r : MgmtReq) (code : Nat) (f : State → State) : State :=
  s.spdm r fun s => if s.sk.negotiated then f s else onDev (fun d => d.mgmtRefuseFree r 1 code) s

/-- GET_CERTIFICATE: part of the chain of slot 0, at most 4,096 bytes of it (R575, R576). -/
def State.certificate (s : State) (r : MgmtReq) (slot off len : Nat) : State :=
  s.negotiated r 0x82 fun s =>
    let c := s.sk.chain
    if slot ≠ 0 ∨ c.length ≤ off then onDev (fun d => d.mgmtRefuseFree r 1 0x82) s
    else onDev (fun d => d.mgmtAnswer r 0x82 sOk ((c.drop off).take (min len 4096))) s

/-- CHALLENGE: a signature with the alias key over the nonce and the chain's hash (R575). -/
def State.challenged (s : State) (r : MgmtReq) (slot : Nat) (nonce : List Byte) : State :=
  s.negotiated r 0x83 fun s =>
    if slot ≠ 0 then onDev (fun d => d.mgmtRefuseFree r 1 0x83) s
    else onDev (fun d => d.mgmtAnswer r 0x83 sOk (Config.aliasSign (nonce ++ Config.sha384 s.sk.chain))) s

/-- GET_MEASUREMENTS. -/
def State.measured (s : State) (r : MgmtReq) (i : Nat) : State :=
  s.negotiated r 0xE0 fun s =>
    match s.measurement i with
    | some v => onDev (fun d => d.mgmtAnswer r 0xE0 sOk v) s
    | none => onDev (fun d => d.mgmtRefuseFree r 1 0xE0) s

/-- KEY_EXCHANGE opens a session, at most four (R575); `owner` says that the requester proves a chain to the owner root. -/
def State.keyExchange (s : State) (r : MgmtReq) (owner : Bool) : State :=
  s.negotiated r 0xE4 fun s =>
    match (List.range 4).find? fun n => !s.sk.sessions.any fun x => decide (x.id = n) with
    | none => onDev (fun d => d.mgmtRefuseFree r 1 0xE4) s
    | some n =>
      let x : Session := { id := n, established := false, owner := owner && s.sk.owner.isSome }
      onDev (fun d => d.mgmtAnswer r 0xE4 sOk (bytesOf 4 n)) (onSk (fun k => { k with sessions := k.sessions ++ [x] }) s)

/-- A session is closed. -/
def Skeop.close (k : Skeop) (n : Nat) : Skeop := { k with sessions := k.sessions.filter fun x => decide (x.id ≠ n) }

/-- FINISH establishes a session, or closes it where its check fails (R575). -/
def State.finished (s : State) (r : MgmtReq) (ok : Bool) : State :=
  s.spdm r fun s =>
    match s.sk.sessionOf r with
    | none => onDev (fun d => d.mgmtRefuseFree r 1 0xE5) s
    | some x =>
      if x.established then onDev (fun d => d.mgmtRefuseFree r 1 0xE5) s
      else if !ok then onDev (fun d => d.mgmtRefuseFree r 1 0xE5) (onSk (fun k => k.close x.id) s)
      else
        onDev (fun d => d.mgmtAnswer r 0xE5 sOk []) (onSk (fun k => { k with
          sessions := k.sessions.map fun y => if y.id = x.id then { y with established := true } else y }) s)

/-- END_SESSION, and HEARTBEAT (R575): inside an established session. -/
def State.session (s : State) (r : MgmtReq) (code : Nat) (ends : Bool) : State :=
  s.spdm r fun s =>
    if !s.sk.inSession r then onDev (fun d => d.mgmtRefuseFree r 1 code) s
    else onDev (fun d => d.mgmtAnswer r code sOk []) (if ends then onSk (fun k => k.close (r.session.getD 0)) s else s)

/-! ### PLDM (R571, R580, R581) -/

/-- What a numeric sensor of R581 reads: input power is GOV_POWER; the others are what the sensor has measured, and without a
measurement a temperature is the Lehr domain's last. -/
def Dev.sensor (d : Dev) (n : Nat) (value : Option Nat) : Option (Option Nat) :=
  if n = 0x0001 then some (some (min 0xFFFF d.gov.watts))
  else if n = 0x0002 ∨ n = 0x0003 ∨ n = 0x0004 then some value
  else if n = 0x0005 then some (value.or (some (10 * d.lehr.tCool)))
  else if 0x0100 ≤ n ∧ n ≤ 0x0127 then some (value.or ((Tab.find d.lehr.dieTemp (n - 0x0100)).map (10 * ·)))
  else if 0x0140 ≤ n ∧ n ≤ 0x014B then some (value.or ((Tab.find d.lehr.dieTemp (40 + (n - 0x0140))).map (10 * ·)))
  else none

/-- What a state sensor of R581 reads. -/
def State.stateSensor (s : State) (n : Nat) : Option Nat :=
  if 0x0200 ≤ n ∧ n ≤ 0x0211 then some (s.dev.port (n - 0x0200)).state.code
  else if n = 0x0300 then some s.sk.mode.code
  else if n = 0x0301 then some s.dev.park.stage.code
  else none

/-- The slot that is not running. -/
def Skeop.spare (k : Skeop) : Nat := 1 - k.slot

def Skeop.setSlot (k : Skeop) (n : Nat) (f : FwSlot) : Skeop := if n = 0 then { k with slotA := f } else { k with slotB := f }

/-- Update data is written into the slot that is not running, which is not bootable until it has been verified (R571). -/
def State.firmwareData (s : State) (r : MgmtReq) (off : Nat) (data : List Byte) : State :=
  s.pldm r true fun s =>
    let k := s.sk
    let im := if k.updating then (k.slotOf k.spare).image else []
    let im := im.take off ++ List.replicate (off - im.length) 0 ++ data ++ im.drop (off + data.length)
    onDev (fun d => d.mgmtAnswer r 0x15 sOk [])
      { s with sk := { k.setSlot k.spare { image := im, invalid := true } with updating := true } }

/-- VerifyComplete checks the slot under R569; the response carries 1 where it fails and is marked invalid (R571). -/
def State.firmwareVerify (s : State) (r : MgmtReq) : State :=
  s.pldm r true fun s =>
    let k := s.sk
    let f := k.slotOf k.spare
    if !k.updating then onDev (fun d => d.mgmtRefuseFree r 2 0x17) s
    else
      let bad := (k.slotFault { f with invalid := false }).isSome
      onDev (fun d => d.mgmtAnswer r 0x17 sOk (bytesOf 1 (b2n bad)))
        { s with sk := { k.setSlot k.spare { f with invalid := bad } with updating := false } }

/-- ActivateFirmware marks the new slot active (R571); self-contained activation is not supported, and a slot that has not been
verified is not activated. -/
def State.firmwareActivate (s : State) (r : MgmtReq) (selfContained : Bool) : State :=
  s.pldm r true fun s =>
    let k := s.sk
    let f := k.slotOf k.spare
    let (svn, v, _) := Config.firmwareHeader f.image
    if selfContained ∨ k.updating ∨ f.invalid then onDev (fun d => d.mgmtRefuseFree r 2 0x1A) s
    else
      onDev (fun d => (d.event 0xA00C k.spare svn.val v 0).mgmtAnswer r 0x1A sOk []) { s with sk := { k with active := some k.spare } }

/-! ### Telemetry export (R583) -/

/-- The head of a datagram. -/
def exportHead (seq kind n : Nat) : List Byte :=
  bytesOf 8 Config.serial.toNat ++ bytesOf 4 seq ++ bytesOf 1 kind ++ bytesOf 1 n ++ bytesOf 2 0

/-- Ledger records overwritten before they were sent are lost (R583). -/
def State.exportLoss (s : State) : State :=
  match s.sk.telemetry with
  | none => s
  | some x =>
    let behind := s.dev.ledgerCount - x.nextLedger
    if !x.ledger ∨ behind ≤ 4096 then s
    else
      { s with
        sk := { s.sk with telemetry := some { x with nextLedger := s.dev.ledgerCount - 4096, lost := x.lost + (behind - 4096) } }
        dev := s.dev.count Reg.SKP_EXP_LOST (behind - 4096) }

/-- The next event records that qualify, at most 22, and the sequence number after them. -/
def Evr.qualifying (e : Evr) (minSev from_ : Nat) : List (List Word) × Nat :=
  let span := (e.head + 2 ^ 32 - from_) % 2 ^ 32
  let go := fun (x : List (List Word) × Nat) (_ : Nat) =>
    if 22 ≤ x.1.length ∨ x.2 = e.head then x
    else
      let keep := match e.record x.2 with
        | some ws => if minSev ≤ fld (wordAt ws 0) 28 4 then [ws] else []
        | none => []
      (x.1 ++ keep, (x.2 + 1) % 2 ^ 32)
  (List.range span).foldl go ([], from_)

/-- A datagram of the records that are new (R583): ledger records first, each 64 bytes; event records padded to 64. -/
def State.exportSend (s : State) : State :=
  let s := s.exportLoss
  match s.sk.telemetry with
  | none => s
  | some x =>
    let n := if x.ledger then min 22 (s.dev.ledgerCount - x.nextLedger) else 0
    let (evs, next) := if x.events then s.dev.evr.qualifying x.minSev x.nextEvent else ([], x.nextEvent)
    let send := fun (kind : Nat) (recs : List (List Byte)) (x : Export) =>
      ({ s with
        sk := { s.sk with telemetry := some { x with seq := (x.seq + 1) % 2 ^ 32 } }
        dev := s.dev.emit (.datagram (exportHead x.seq kind recs.length ++ recs.flatten)) } : State)
    if !s.dev.skeopRuns then s
    else if 0 < n then
      let recs := (List.range n).map fun i =>
        bytesOfWords (Tab.get (fun _ => List.replicate 16 0) s.dev.ledger ((x.nextLedger + i) % 4096))
      send 1 recs { x with nextLedger := x.nextLedger + n }
    else if !evs.isEmpty then
      send 2 (evs.map fun ws => bytesOfWords ws ++ List.replicate 32 0) { x with nextEvent := next }
    else onSk (fun k => { k with telemetry := some { x with nextEvent := next } }) s

/-- Once a second, lost records are reported (R583). -/
def State.exportReport (s : State) : State :=
  let s := s.exportLoss
  match s.sk.telemetry with
  | some x =>
    if x.lost = 0 then s
    else { s with sk := { s.sk with telemetry := some { x with lost := 0 } }, dev := s.dev.event 0xA00D x.lost 0 0 0 }
  | none => s

end Sys2Proof.Machine
end

