-- ==== Sys2Proof/Machine/SkeopRun.lean ====
section
/-!
DEFINITION. The commands of Skeop and of the event recorder but for register accesses (chapter 14).
-/
namespace Sys2Proof.Machine

/-! ### Authorised commands (R578) -/

/-- SET_OWNER (R577). -/
def execSetOwner (r : MgmtReq) (key : List Byte) (s : State) : Res := .next (s.setOwner r key)

/-- SET_MODE (R567). -/
def execSetMode (r : MgmtReq) (mode : Nat) (s : State) : Res := .next (s.setMode r mode)

/-- EVR_CLEAR (R593). -/
def execEvrClear (r : MgmtReq) (s : State) : Res := .next (s.clearEvr r)

/-- COMMIT_SVN (R570). -/
def execCommitSvn (r : MgmtReq) (v : Nat) (s : State) : Res := .next (s.commitSvn r v)

/-- SET_IMAGE_KEY (R595, R596). -/
def execSetImageKey (r : MgmtReq) (slot : Nat) (kindD : Bool) (key : List Byte) (s : State) : Res :=
  .next (s.setImageKey r slot kindD key)

/-- SET_LINK_KEY (R601). -/
def execSetLinkKey (r : MgmtReq) (port slot : Nat) (key : List Byte) (s : State) : Res := .next (s.setLinkKey r port slot key)

/-- DEBUG_CHALLENGE (R603). -/
def execDebugChallenge (r : MgmtReq) (s : State) : Res := .next (s.challengeDebug r)

/-- DEBUG_UNLOCK (R602 to R604). -/
def execDebugUnlock (r : MgmtReq) (level : Nat) (sig : List Byte) (s : State) : Res := .next (s.unlockDebug r level sig)

/-- CLEAR_MAP (R517). -/
def execClearMap (r : MgmtReq) (which : Nat) (s : State) : Res := .next (s.clearMap r which)

/-- SET_EXPORT (R583). -/
def execSetExport (r : MgmtReq) (collector : List Byte) (port kinds minSev : Nat) (s : State) : Res :=
  .next (s.setExport r collector port kinds minSev)

/-- DEBUG_NONCE_EXPIRE (R603). -/
def execDebugNonceExpire (s : State) : Res :=
  .next (if s.nonceValid.isNone then onSk (fun k => { k with nonce := none }) s else s)

/-! ### Packets and MCTP control (R572, R573) -/

/-- MCTP_PACKET_RECEIVE (R572 to R574). -/
def execMctpPacketReceive (bus : Bus) (eid dest : Byte) (pecOk som eom : Bool) (type : Nat) (data : List Byte) (s : State) : Res :=
  .next (s.packet bus eid dest pecOk som eom type data)

/-- BUS_SCL_TIMEOUT (R573). -/
def execBusSclTimeout (s : State) : Res := .next s.sclTimeout

/-- SET_ENDPOINT_ID. -/
def execSetEndpointId (r : MgmtReq) (eid : Byte) (s : State) : Res := .next (s.setEid r eid)

/-- GET_ENDPOINT_ID. -/
def execGetEndpointId (r : MgmtReq) (s : State) : Res :=
  .next (s.control r fun s => onDev (fun d => d.mgmtAnswer r 2 sOk (bytesOf 1 s.sk.eid)) s)

/-- GET_VERSION_SUPPORT, of a supported message type or of the base. -/
def execGetVersionSupport (r : MgmtReq) (type : Nat) (s : State) : Res :=
  .next (s.control r (onDev fun d =>
    if type = 0xFF ∨ type ∈ mctpTypes then d.mgmtAnswer r 4 sOk (Config.responseBody 4 type) else d.mgmtRefuseFree r 3 4))

/-- GET_MESSAGE_TYPE_SUPPORT. -/
def execGetMessageTypeSupport (r : MgmtReq) (s : State) : Res :=
  .next (s.control r (onDev fun d => d.mgmtAnswer r 5 sOk (mctpTypes.flatMap (bytesOf 1 ·))))

/-- GET_ENDPOINT_UUID. -/
def execGetEndpointUuid (r : MgmtReq) (s : State) : Res := .next (s.control r (onDev fun d => d.mgmtAnswer r 3 sOk Config.uuid))

/-! ### SPDM (R575, R576) -/

/-- GET_VERSION: SPDM 1.3; negotiation starts anew. -/
def execGetVersion (r : MgmtReq) (s : State) : Res :=
  .next (s.spdm r fun s =>
    onDev (fun d => d.mgmtAnswer r 0x84 sOk (bytesOf 1 0x13)) (onSk (fun k => { k with negotiated := false }) s))

/-- GET_CAPABILITIES. -/
def execGetCapabilities (r : MgmtReq) (s : State) : Res :=
  .next (s.spdm r (onDev fun d => d.mgmtAnswer r 0xE1 sOk (Config.responseBody 0xE1 0)))

/-- NEGOTIATE_ALGORITHMS: negotiation has taken place, and with it that of the transmission unit, 64 to 1,024 bytes (R572; DESIGN
CHOICE, log 127). -/
def execNegotiateAlgorithms (r : MgmtReq) (s : State) : Res :=
  .next (s.spdm r fun s =>
    onDev (fun d => d.draw.mgmtAnswer r 0xE3 sOk (Config.responseBody 0xE3 0))
      (onSk (fun k => { k with negotiated := true, unit := 64 + Config.freeNat s.dev.freeIx % 961 }) s))

/-- GET_DIGESTS. -/
def execGetDigests (r : MgmtReq) (s : State) : Res :=
  .next (s.negotiated r 0x81 fun s => onDev (fun d => d.mgmtAnswer r 0x81 sOk (Config.sha384 s.sk.chain)) s)

/-- GET_CERTIFICATE. -/
def execGetCertificate (r : MgmtReq) (slot off len : Nat) (s : State) : Res := .next (s.certificate r slot off len)

/-- CHALLENGE. -/
def execChallenge (r : MgmtReq) (slot : Nat) (nonce : List Byte) (s : State) : Res := .next (s.challenged r slot nonce)

/-- GET_MEASUREMENTS. -/
def execGetMeasurements (r : MgmtReq) (index : Nat) (s : State) : Res := .next (s.measured r index)

/-- KEY_EXCHANGE. -/
def execKeyExchange (r : MgmtReq) (owner : Bool) (s : State) : Res := .next (s.keyExchange r owner)

/-- FINISH. -/
def execFinish (r : MgmtReq) (ok : Bool) (s : State) : Res := .next (s.finished r ok)

/-- END_SESSION. -/
def execEndSession (r : MgmtReq) (s : State) : Res := .next (s.session r 0xEC true)

/-- HEARTBEAT. -/
def execHeartbeat (r : MgmtReq) (s : State) : Res := .next (s.session r 0xE8 false)

/-! ### PLDM (R571, R580, R581) -/

/-- PLDM_BASE_REQUEST. -/
def execPldmBaseRequest (r : MgmtReq) (command : Nat) (s : State) : Res :=
  .next (s.pldm r false (onDev fun d => d.mgmtAnswer r command sOk (Config.responseBody 0 command)))

/-- GET_PDR. -/
def execGetPdr (r : MgmtReq) (handle : Nat) (s : State) : Res :=
  .next (s.pldm r false (onDev fun d => d.mgmtAnswer r 0x51 sOk (Config.pdr handle)))

/-- GET_SENSOR_READING: no data where the sensor gives none. -/
def execGetSensorReading (r : MgmtReq) (sensor : Nat) (value : Option Nat) (s : State) : Res :=
  .next (s.pldm r false (onDev fun d =>
    match d.sensor sensor value with
    | some v => d.mgmtAnswer r 0x11 sOk ((v.map (bytesOf 4 ·)).getD [])
    | none => d.mgmtRefuseFree r 2 0x11))

/-- GET_STATE_SENSOR_READINGS. -/
def execGetStateSensorReadings (r : MgmtReq) (sensor : Nat) (s : State) : Res :=
  .next (s.pldm r false fun s =>
    match s.stateSensor sensor with
    | some v => onDev (fun d => d.mgmtAnswer r 0x21 sOk (bytesOf 1 v)) s
    | none => onDev (fun d => d.mgmtRefuseFree r 2 0x21) s)

/-- PLDM_FIRMWARE_TRANSFER. -/
def execPldmFirmwareTransfer (r : MgmtReq) (off : Nat) (data : List Byte) (s : State) : Res := .next (s.firmwareData r off data)

/-- VERIFY_COMPLETE. -/
def execVerifyComplete (r : MgmtReq) (s : State) : Res := .next (s.firmwareVerify r)

/-- ACTIVATE_FIRMWARE. -/
def execActivateFirmware (r : MgmtReq) (selfContained : Bool) (s : State) : Res := .next (s.firmwareActivate r selfContained)

/-! ### The event recorder and the export (R583, R588 to R593) -/

/-- COALESCE_WINDOW_END (R591). -/
def execCoalesceWindowEnd (s : State) : Res := .next (onDev (fun d => if d.lehr.dom50 then d.flushPairs else d) s)

/-- EVR_NOR_COPY (R588, R589). -/
def execEvrNorCopy (s : State) : Res := .next (onDev Dev.norCopy s)

/-- EVR_NOR_ERASE_DONE (R593). -/
def execEvrNorEraseDone (s : State) : Res := .next (onDev (fun d => { d with evr := { d.evr with erasing := false } }) s)

/-- EVR_WINDOW_READY (R590). -/
def execEvrWindowReady (s : State) : Res := .next (onDev Dev.windowReady s)

/-- EXPORT_DATAGRAM_SEND (R583). -/
def execExportDatagramSend (s : State) : Res := .next s.exportSend

/-- EXPORT_LOST_REPORT (R583). -/
def execExportLostReport (s : State) : Res := .next s.exportReport

end Sys2Proof.Machine
end

