-- ==== Sys2Proof/Machine/SluiceRun.lean ====
section
/-!
DEFINITION. The commands of the Sluice engines (chapter 7). The writes of SLC_RESUME and SLC_INV are in
Machine/RegRun.lean.
-/
namespace Sys2Proof.Machine

/-- The engine issues the next request of a queue that wins arbitration (R293, R298). -/
def execSluiceRequestIssue (m : MillIx) (q : Fin 32) (s : State) : Res :=
  .next (onDev (·.slcRequest (m.val * 32 + q.val)) s)

/-- A request completes (R296, R299, R304, R308, R631). -/
def execSluiceRequestComplete (m : MillIx) (q : Fin 32) (n : Nat) (data : List Byte) (ok : Bool) (s : State) : Res :=
  .next (onDev (Dev.settling (·.slcComplete (m.val * 32 + q.val) n data ok)) s)

/-- A queue has stayed in FAULT for its limit (R307). -/
def execSluiceFaultTimeout (m : MillIx) (q : Fin 32) (s : State) : Res :=
  .next (onDev (·.slcTimeout (m.val * 32 + q.val)) s)

/-- An invalidation completes (R281). -/
def execSlcInvDone (s : State) : Res := .next (onDev Dev.slcInvDone s)

/-- The arrival at the superstep barrier goes out once the queues of the tile are quiet (R302). -/
def execBarrierArrivalSend (t : TileIx) (s : State) : Res := .next (onDev (·.barrierSend t.val) s)

end Sys2Proof.Machine
end

