-- ==== Sys2Proof/Machine/SyncRun.lean ====
section
/-!
DEFINITION. The commands of sync objects at their homes and in waiting contexts (chapter 6).
-/
namespace Sys2Proof.Machine

/-- SYNC_SIGNAL_APPLY (R237, R238, R247). -/
def execSyncSignalApply (n : Nat) (s : State) : Res := .next (onDev (fun d => d.applySync n .signal) s)

/-- SYNC_ARRIVAL_APPLY (R194, R237, R238, R246, R364). -/
def execSyncArrivalApply (n : Nat) (s : State) : Res := .next (onDev (fun d => d.applySync n .arrival) s)

/-- SYNC_ARM_APPLY (R253). -/
def execSyncArmApply (n : Nat) (s : State) : Res := .next (onDev (fun d => d.applySync n .arm) s)

/-- SYNC_CREDIT_APPLY (R244). -/
def execSyncCreditApply (n : Nat) (s : State) : Res := .next (onDev (fun d => d.applySync n .credit) s)

/-- HELD_EVENT_APPLY (R238). -/
def execHeldEventApply (phys : Nat) (s : State) : Res := .next (onDev (fun d => d.applyHeld phys) s)

/-- WAIT_RELEASE (R235, R546). -/
def execWaitRelease (t : TileIx) (c : HCtx) (s : State) : Res := .next (onDev (fun d => d.releaseWait t c) s)

/-- SYNC_WATCHDOG_EXPIRE (R255). -/
def execSyncWatchdogExpire (t : TileIx) (c : HCtx) (s : State) : Res := .next (onDev (fun d => d.watchdog t c) s)

/-- FLUME_SIG_FRAME (R419, R424). -/
def execFlumeSigFrame (p : Port) (f : Frame) (s : State) : Res :=
  .next (onDev (fun d => d.frameIn p f 6 fun d => d.sigFrame p f) s)

end Sys2Proof.Machine
end

