-- ==== Sys2Proof/Machine/Bundle.lean ====
section
/-!
DEFINITION. Issuing a bundle (R53 to R56, R86 to R91): which trap it raises, where it stalls, and the effects of its two
slots. Every instruction's meaning is an effect here; `issueBundle` is the issue of the bundle that holds it.
-/
namespace Sys2Proof.Machine

/-- What an effect needs: the image context, the tile and hardware context, the registers before the bundle (R88), the
operand values of an R-form instruction, the number of a free value (log 3), and the descriptor that a stalled `slc.issue` has read
(R283). -/
structure Run where
  ic : Nat
  t : Nat
  k : HCtx
  c : Ctx
  a : Word
  b : Word
  ix : Nat
  kept : Option (List Word) := none

/-- D-form operand values (R87). -/
def Run.ra (r : Run) (w : Word) : Word := r.c.sreg (f1 w)
def Run.rb (r : Run) (w : Word) : Word := r.c.sreg (f2 w)
def Run.rc (r : Run) (w : Word) : Word := r.c.sreg (f3 w)

/-- The predicate mask of an instruction (R59). -/
def Run.mask (r : Run) (w : Word) : DWord := r.c.preg (predOf w)

/-- The instruction takes no effect at all (R59): a scalar compare whose pN has bit 0 clear writes nothing, its destination's
bits 1 to 63 included (DESIGN CHOICE, log 189). -/
def Run.off (r : Run) (op : TileOp) (w : Word) : Bool :=
  wholePred op && decide (op ≠ .nop) && !(r.mask w).toNat.testBit 0

/-- Bytes of a scalar access. -/
def sizeOf' : MemSize → Nat
  | .b1 => 1 | .b2 => 2 | .b4 => 4

/-- The context address of an M-form access (R87), modulo 2^32. -/
def mAddr (c : Ctx) (w : Word) (size : Nat) : Nat :=
  (c.sreg (f2 w) + wordOfInt (imm13 w * (size : Nat))).toNat

/-- The memory-engine operation of a `mem.*` word. -/
def memOpOf (r : Run) (op : TileOp) (w : Word) : MemOp :=
  { ctx := r.k.val, word := w, copy := decide (op = .memCopy), dst := (r.ra w).toNat
    src := if op = .memCopy then (r.rb w).toNat else 0
    len := if op = .memCopy then (r.rc w).toNat else (r.rb w).toNat
    pattern := r.rc w }

/-! ### Traps of one instruction -/

/-- ILLEGAL (R64, R86, R89, R93 to R96, R172). -/
def illegal (c : Ctx) (op : TileOp) (w : Word) (inB : Bool) : Bool :=
  decide (spells op w = .reserved) || !slotOk op inB || !modOk op w || !hopOk op w || !groupOk op w c.cvtCfg ||
  (decide (op = .cvtSt ∨ op = .cvtLd) && (cvtFormat c.cvtCfg).isNone)

/-- PRIV (R97, R99). An S-only instruction gives no CSR offset: its TILE_TRAP_ADDR is free (log 24). -/
def privTrap (d : Dev) (r : Run) (op : TileOp) (w : Word) : Option Trap :=
  match op with
  | .sysCsrr => d.csrTrap r.t r.k (r.ra w).toNat false
  | .sysCsrw => d.csrTrap r.t r.k (r.ra w).toNat true
  | .sysStart | .sysResume | .sysStop | .sysTret | .sysHalt =>
    if r.k = 0 then none else some (.priv (Config.freeWord r.ix).toNat)
  | _ => none

/-- The data accesses of an instruction: context address, length, and the alignment required (R74, R96). -/
def accesses (d : Dev) (r : Run) (op : TileOp) (w : Word) : List (Nat × Nat × Nat) :=
  match op with
  | .load n => [(mAddr r.c w (sizeOf' n), sizeOf' n, sizeOf' n)]
  | .store n => [(mAddr r.c w (sizeOf' n), sizeOf' n, sizeOf' n)]
  | .vld => [(mAddr r.c w 64, 64, 64)]
  | .vst => [(mAddr r.c w 64, 64, 64)]
  | .cvtSt =>
    let n := cvtBytes r.c.cvtCfg
    [((r.rb w).toNat, n, min n 64), (r.c.cvtSptr.toNat, 1, 1)]
  | .cvtLd =>
    let n := cvtBytes r.c.cvtCfg
    [((r.rb w).toNat, n, min n 64), ((r.rc w).toNat, 1, 1)]
  | .hopRsend =>
    let len := (r.rc w).toNat
    if d.ringSends r.ic r.t (r.ra w).toNat len then [((r.rb w).toNat, len, 1)] else []
  | _ => []

/-- ALIGN: a misaligned access, or a `jr` target (R64, R74, R93, R96). -/
def alignTrap (d : Dev) (r : Run) (op : TileOp) (w : Word) : Option Trap :=
  match op with
  | .jr => if r.a.toNat % 8 = 0 then none else some (.align r.a.toNat)
  | _ => ((accesses d r op w).find? fun x => decide (x.1 % x.2.2 ≠ 0)).map fun x => .align x.1

/-- BOUND: the lowest byte outside the bound (R64, R71). -/
def boundTrap (d : Dev) (r : Run) (op : TileOp) (w : Word) : Option Trap :=
  let bound := r.c.bound.toNat
  let bad := ((accesses d r op w).filter fun x => !inBound bound x.1 x.2.1).map fun x => lowestOut bound x.1
  match bad with
  | [] => none
  | a :: as => some (.bound (as.foldl min a))

/-- The traps of rows 3 to 6 of R64 that an instruction meets, lowest row first. -/
def earlyTrap (d : Dev) (r : Run) (op : TileOp) (w : Word) (inB : Bool) : Option Trap :=
  if illegal r.c op w inB then some .illegal
  else if r.off op w then none
  else (privTrap d r op w).or ((alignTrap d r op w).or (boundTrap d r op w))

/-- MEM_OP and BREAK (rows 9 and 10). -/
def lateTrap (r : Run) (op : TileOp) (w : Word) : Option Trap :=
  if r.off op w then none
  else match op with
    | .memFill | .memCopy => (memRefusal r.c.bound.toNat (memOpOf r op w)).map fun x => .memOp x.1 x.2
    | .sysBrk => some .brk
    | _ => none

/-- The instruction holds its context after issue (R86). -/
def holdsAfter (op : TileOp) : Bool :=
  match op with
  | .millFence | .slcWait | .memFill | .memCopy => true
  | _ => false

/-- The slot's word spells its instruction; a reserved word is none (R64). -/
def slotReal (s : Slot) : Bool := decide (spells s.op s.word = .yes)

/-- ILLEGAL of the bundle as a whole (R64): both slots write one register, or `sync.wait` stands beside an instruction
that holds its context. -/
def bundleIllegal (c : Ctx) (a b : Slot) : Bool :=
  slotReal a && slotReal b &&
  (((dests a.op a.word c.cvtCfg).any fun x => (dests b.op b.word c.cvtCfg).contains x) ||
   (decide (a.op = .syncWait) && holdsAfter b.op))

/-- The trap reported for the two slots' traps: the lowest row, slot A on ties (R64). Answers whether it is slot B's. -/
def worstTrap (a b : Option Trap) : Option (Bool × Trap) :=
  match a, b with
  | none, none => none
  | some x, none => some (false, x)
  | none, some y => some (true, y)
  | some x, some y => if x.row ≤ y.row then some (false, x) else some (true, y)

/-! ### Slot B's memory (rows 8; R67, R75) -/

/-- What slot B's accesses gave: the device with the stores made, the bytes read, and UE_DATA. -/
structure Fetched where
  dev : Dev
  data : List Byte
  scale : Nat
  trap : Option Trap

/-- UE_DATA at the context address of a device word. -/
def ueAt (t : Nat) (c : Ctx) (wa : Nat) : Trap := .ueData (wa - ctxAddr t c 0)

/-- Read for slot B. -/
def Dev.fetchB (d : Dev) (r : Run) (a n : Nat) : Fetched :=
  let x := d.read r.k.val (ctxAddr r.t r.c a) n
  match x.bytes with
  | some bs => { dev := x.dev, data := bs, scale := 0, trap := none }
  | none => { dev := x.dev, data := [], scale := 0, trap := some (ueAt r.t r.c (x.bad.getD 0)) }

/-- Store for slot B; a vector store writes whole words (R67, R506). -/
def Dev.storeB (d : Dev) (r : Run) (a : Nat) (bs : List Byte) : Fetched :=
  let x := d.write r.k.val (ctxAddr r.t r.c a) bs
  { dev := x.1, data := [], scale := 0, trap := x.2.map (ueAt r.t r.c) }

/-- The accesses that an instruction of slot B makes. A block and its scale are stored whole or not at all (R173); the scale's word
is read first, so that it is the one reported where both are uncorrectable (DESIGN CHOICE, log 190). -/
def Dev.accessB (d : Dev) (r : Run) (op : TileOp) (w : Word) : Fetched :=
  let none' : Fetched := { dev := d, data := [], scale := 0, trap := none }
  if r.off op w then none'
  else match op with
    | .load n => d.fetchB r (mAddr r.c w (sizeOf' n)) (sizeOf' n)
    | .store n => d.storeB r (mAddr r.c w (sizeOf' n)) (bytesOf (sizeOf' n) (r.c.sreg (f1 w)).toNat)
    | .vld => d.fetchB r (mAddr r.c w 64) 64
    | .vst => d.storeB r (mAddr r.c w 64) (bytesOf 64 (r.c.vreg (f1 w)).toNat)
    | .cvtSt =>
      let (bs, scale, _) := cvtStore r.c (d.stepSeed r.ic) (f1 w) (r.rc w).toNat (modD w)
      let probe := d.fetchB r r.c.cvtSptr.toNat 1
      match probe.trap with
      | some _ => probe
      | none =>
        let x := probe.dev.storeB r (r.rb w).toNat bs
        match x.trap with
        | some _ => x
        | none => x.dev.storeB r r.c.cvtSptr.toNat [BitVec.ofNat 8 scale]
    | .cvtLd =>
      let x := d.fetchB r (r.rb w).toNat (cvtBytes r.c.cvtCfg)
      match x.trap with
      | some _ => x
      | none =>
        let y := x.dev.fetchB r (r.rc w).toNat 1
        { y with data := x.data, scale := byteAt y.data 0 }
    | .hopRsend =>
      let len := (r.rc w).toNat
      if d.ringSends r.ic r.t (r.ra w).toNat len then d.fetchB r (r.rb w).toNat len else none'
    | _ => none'

/-! ### Stalls (R54) -/

/-- Slot B's instruction waits for a queue, a credit, ring space or the memory engine (R54). -/
def Dev.stallsB (d : Dev) (r : Run) (op : TileOp) (w : Word) : Bool :=
  !r.off op w && (match op with
    | .millMma | .millDrain | .millSmode => d.millFull (r.t / 8)
    | .hopSend => d.hopSendStalls r.ic r.t (r.ra w).toNat
    | .hopRsend => d.ringStalls r.ic r.t (r.ra w).toNat (r.rc w).toNat
    | .slcIssue => d.slcStalls r.t r.k (r.ra w).toNat (r.rb w).toNat r.kept
    | .memFill | .memCopy => (d.tile r.t).memEng.isSome
    | _ => false)

/-- Slot A's sync instruction finds no credit at the tile (R234). -/
def Dev.stallsA (d : Dev) (r : Run) (op : TileOp) (w : Word) : Bool :=
  !r.off op w && decide (op = .syncSig ∨ op = .syncWait ∨ op = .syncArm) && !d.syncCredit r.t

/-! ### Effects of slot A -/

/-- The result of a scalar operation (R93). A shift by 32 or more, and the signedness of `min` and `max`, are given
nowhere: they are the part's own, the same whenever the operands are (R33; log 37). -/
def aluResult (f : AluOp) (a b : Word) : Word :=
  match f with
  | .add => a + b
  | .sub => a - b
  | .and => a &&& b
  | .or => a ||| b
  | .xor => a ^^^ b
  | .shl => if b.toNat < 32 then a <<< b.toNat else Config.shiftResult 0 a b
  | .shr => if b.toNat < 32 then a >>> b.toNat else Config.shiftResult 1 a b
  | .sra => if b.toNat < 32 then a.sshiftRight b.toNat else Config.shiftResult 2 a b
  | .mul => a * b
  | .min => if Config.minSigned then (if a.toInt ≤ b.toInt then a else b) else (if a.toNat ≤ b.toNat then a else b)
  | .max => if Config.maxSigned then (if a.toInt ≤ b.toInt then b else a) else (if a.toNat ≤ b.toNat then b else a)

/-- A branch target: relative to the bundle that holds the branch (log 38). -/
def branchTo (c : Ctx) (w : Word) : BitVec 23 := c.pc + BitVec.ofInt 23 (8 * off23 w)

/-- The effect of slot A's instruction. -/
def Dev.effectA (d : Dev) (r : Run) (op : TileOp) (w : Word) : Dev :=
  if r.off op w then d
  else match op with
    | .alu f => d.putS r.t r.k (f1 w) (aluResult f r.a r.b)
    | .aluImm f => d.putS r.t r.k (f1 w) (aluResult f (r.c.sreg (f2 w)) (wordOfInt (imm13 w)))
    | .cmp c =>
      let h := cmpHolds c (r.c.sreg (f2 w)) (wordOfInt (imm13 w))
      d.setCtx r.t r.k ((d.ctx r.t r.k).setP (f1 w) (if h then 1 else 0))
    | .br => d.setCtx r.t r.k { d.ctx r.t r.k with pc := branchTo r.c w }
    | .call =>
      let c := (d.ctx r.t r.k).setS 31 ((r.c.pc + 8).setWidth 32)
      d.setCtx r.t r.k { c with pc := branchTo r.c w }
    | .jr => d.setCtx r.t r.k { d.ctx r.t r.k with pc := r.a.setWidth 23 }
    | .syncSig => d.syncSig r.ic r.t (r.ra w).toNat (r.rb w).toNat
    | .syncWait => d.syncWait r.ic r.t r.k (r.ra w).toNat (f3 w)
    | .syncPoll => d.syncPoll r.ic r.t r.k (r.ra w).toNat (f3 w)
    | .syncArm => d.syncArm r.ic r.t r.k (r.ra w).toNat (f3 w)
    | .sysCsrr =>
      let x := d.csrRead r.t r.k (r.ra w).toNat
      x.1.putS r.t r.k (f3 w) x.2
    | .sysCsrw => d.csrWrite r.t r.k (r.ra w).toNat (r.rb w)
    | .sysStart => d.sysStart r.t (r.ra w) (r.rb w) (f3 w)
    | .sysResume => d.sysResume r.t (r.ra w) (bit w 0)
    | .sysStop => d.sysStop r.t (r.ra w)
    | .sysTret => d.trapReturn r.t
    | .sysExit => d.sysExit r.ic r.t r.k
    | .sysHalt => d.haltTile r.t
    | _ => d

/-! ### Effects of slot B -/

/-- Count a tile's conversions, and a guarded tensor's (R176, R181). -/
def Dev.cvtTally (d : Dev) (r : Run) (elems : Nat) (y : Tally) : Dev :=
  (d.tileTally r.t y).guardTally r.ic r.c.cvtTid r.t elems y

/-- The tally of the converted lanes that predication enables. -/
def enabledTally (mask : DWord) (cs : List Conv) : Nat × Tally :=
  let on := (cs.zipIdx.filter fun x => mask.toNat.testBit x.2).map (·.1)
  (on.length, tally on)

/-- Write a vector register lane by lane (R59). -/
def Dev.putLanes (d : Dev) (r : Run) (w : Word) (width : Nat) (n : Nat) (v : VReg) : Dev :=
  d.setCtx r.t r.k ((d.ctx r.t r.k).setV n (mergeLanes width (r.mask w) (r.c.vreg n) v))

/-- A scalar load's value: the upper bits of a narrow one are given nowhere; they are the part's own function of what is loaded
(R33; log 37). -/
def loaded (n : MemSize) (data : List Byte) : Word :=
  match n with
  | .b4 => BitVec.ofNat 32 (leNat data)
  | .b1 => putFld (Config.loadHigh 1 (leNat data)) 0 8 (leNat data)
  | .b2 => putFld (Config.loadHigh 2 (leNat data)) 0 16 (leNat data)

/-- The effect of slot B's instruction, whose accesses gave `x`. -/
def Dev.effectB (d : Dev) (r : Run) (op : TileOp) (w : Word) (x : Fetched) (a : Slot) : Dev :=
  if r.off op w then d
  else match op with
    | .load n => d.putS r.t r.k (f1 w) (loaded n x.data)
    | .vld => d.setCtx r.t r.k ((d.ctx r.t r.k).setV (f1 w) (BitVec.ofNat 512 (leNat x.data)))
    | .varith f fmt =>
      let cs := varith f fmt (r.c.vreg (f2 w)) (r.c.vreg (f3 w)) (r.c.vreg (f1 w))
      let d := d.putLanes r w (laneWidth fmt) (f1 w) (ofLanes (laneWidth fmt) (cs.map (·.code)))
      if fmt = .f32 ∨ fmt = .i8 then d else d.tileTally r.t (enabledTally (r.mask w) cs).2
    | .vcmp c fmt =>
      let m := vcompare c fmt (r.c.vreg (f2 w)) (r.c.vreg (f3 w))
      d.setCtx r.t r.k ((d.ctx r.t r.k).setP (f1 w) (mergeMask (512 / laneWidth fmt) (r.mask w) (r.c.preg (f1 w)) m))
    | .vmove .mov => d.putLanes r w 32 (f1 w) (r.c.vreg (f2 w))
    | .vmove .ext =>
      d.putS r.t r.k (f1 w) (BitVec.ofNat 32 ((lanesOf 32 (r.c.vreg (f2 w))).getD (r.b.toNat % 16) 0))
    | .vmove .ins =>
      d.putLanes r w 32 (f1 w)
        (ofLanes 32 ((lanesOf 32 (r.c.vreg (f1 w))).set (r.b.toNat % 16) r.a.toNat))
    | .vbcast => d.putLanes r w 32 (f1 w) (ofLanes 32 (List.replicate 16 r.a.toNat))
    | .vred => d.setCtx r.t r.k ((d.ctx r.t r.k).setV (f1 w) (vredAdd (r.c.vreg (f2 w))))
    | .sfu f => d.putLanes r w 32 (f1 w) (sfuLanes f (r.c.vreg (f2 w)))
    | .cvtSt =>
      let (_, _, y) := cvtStore r.c (d.stepSeed r.ic) (f1 w) (r.rc w).toNat (modD w)
      let d := d.cvtTally r (cvtBlock r.c.cvtCfg) y
      d.setCtx r.t r.k { d.ctx r.t r.k with cvtSptr := r.c.cvtSptr + 1 }
    | .cvtLd =>
      let (ls, y) := cvtLoad r.c.cvtCfg x.data x.scale
      let d := d.tileTally r.t y
      d.setCtx r.t r.k (setGroup (d.ctx r.t r.k) (f1 w) ls (groupSize r.c.cvtCfg))
    | .cvtBf =>
      let cs := cvtNarrow r.c (d.stepSeed r.ic) (f2 w) (r.rc w).toNat (modD w)
      let (n, y) := enabledTally (r.mask w) cs
      (d.putLanes r w 16 (f1 w) (ofLanes 16 (cs.map (·.code)))).cvtTally r n y
    | .cvtF32 =>
      let ls := (lanesOf 16 (r.c.vreg (f2 w))).map widenBf16
      let d := d.putLanes r w 32 (f1 w) (ofLanes 32 (ls.take 16))
      let hi := BitVec.ofNat 64 ((r.mask w).toNat / 2 ^ 16)
      let n := f1 w + 1
      d.setCtx r.t r.k ((d.ctx r.t r.k).setV n (mergeLanes 32 hi (r.c.vreg n) (ofLanes 32 (ls.drop 16))))
    | .hopSend => d.hopSend r.ic r.t (r.ra w).toNat (r.rb w) (r.rc w)
    | .hopStat => d.putS r.t r.k (f3 w) (hstat (d.tile r.t).hop)
    | .hopRsend => d.ringSend r.ic r.t (r.ra w).toNat (r.rc w).toNat x.data
    | .hopRfree => d.ringFree r.ic r.t (r.ra w).toNat (r.rb w).toNat
    | .hopClose => d.hopClose r.t (modD w)
    | .millMma => d.millIssue r.t r.k .pass (modD w) (r.ra w) (r.rb w) (r.rc w) r.c.cvtTid
    | .millDrain => d.millIssue r.t r.k .drain (modD w) (r.ra w) (r.rb w) 0 r.c.cvtTid
    | .millSmode => d.millIssue r.t r.k .smode (modD w) (r.ra w) 0 0 r.c.cvtTid
    | .millQstat => d.putS r.t r.k (f3 w) (BitVec.ofNat 32 (d.millFree (r.t / 8)))
    | .millFence =>
      (d.setCtx r.t r.k { d.ctx r.t r.k with hold := some (.fence (f3 w) (d.mill (r.t / 8)).next) }).fenceReturn r.t r.k
    | .slcIssue => d.slcIssue r.t r.k (r.ra w).toNat (r.rb w).toNat (f3 w) r.kept
    | .slcStat => d.slcStat r.t r.k (r.ra w).toNat (f3 w)
    | .slcWait => d.slcWait r.t r.k (r.ra w).toNat (f3 w)
    | .slcLim => d.slcLim r.t r.k (r.ra w).toNat (r.rb w).toNat (f3 w)
    | .memFill | .memCopy =>
      let d := d.setCtx r.t r.k { d.ctx r.t r.k with hold := some (.mem a) }
      d.setTile r.t { d.tile r.t with memEng := some (memOpOf r op w) }
    | _ => d

/-! ### The issue of a bundle -/

/-- The image context in which a hardware context of a tile may issue its next bundle: the module has started and is not
parked, the tile's image runs and is not being saved, the context is in RUN and holds nothing, and S has no trap to take first
(R52 to R54, R61, R79, R226, R489). -/
def Dev.canIssue (d : Dev) (t : Nat) (k : HCtx) : Option Nat :=
  match d.tileCtx t with
  | none => none
  | some c =>
    let tl := d.tile t
    let cx := tl.ctx[k]
    if d.stage = .ready ∧ d.park.stage ≠ .parked ∧ (d.img c).state = .running ∧ !(d.img c).halted ∧
        (d.img c).wait ≠ .saving ∧ cx.run = .run ∧ cx.hold = none ∧ !(decide (k = 0) && !tl.trapQ.isEmpty && !tl.inh) then some c
    else none

/-- The bundle's two words. -/
def bundleBytes (a b : Slot) : List Byte := bytesOf 4 a.word.toNat ++ bytesOf 4 b.word.toNat

/-- The command names the two instructions that the words spell, or that stand for reserved words. -/
def spelled (a b : Slot) : Bool := decide (spells a.op a.word ≠ .other) && decide (spells b.op b.word ≠ .other)

/-- The hopper consumption of the bundle: slot A's sources, then slot B's (R90). -/
def bundleHops (tl : Tile) (ra rb : Run) (a b : Slot) : HopTake × Nat :=
  let la := if ra.off a.op a.word then [] else hopReads a.op a.word
  let lb := if rb.off b.op b.word then [] else hopReads b.op b.word
  (takeHops tl.hop (la ++ lb), la.length)

/-- HOP_EMPTY (R91): the hopper found empty, and whether slot B names it. -/
def hopEmptyTrap (h : HopTake) (na : Nat) : Option (Bool × Trap) :=
  h.empty.map fun n => (decide (na ≤ h.vals.length), .hopEmpty n)

/-- The runs of both slots with their operand values. -/
def withHops (r : Run) (s : Slot) (vals : List Word) : Run :=
  let o := rOperands r.c s.op s.word vals
  { r with a := o.1, b := o.2 }

/-- A bundle that has passed every check takes effect: consumption, the pc, slot A, slot B. `hop.stat` in slot B therefore shows the
hoppers after slot A's consumption (DESIGN CHOICE, log 191). -/
def Dev.takeEffect (d : Dev) (ra rb : Run) (a b : Slot) (h : HopTake) (x : Fetched) : Dev :=
  let isMem := !rb.off b.op b.word && decide (b.op = .memFill ∨ b.op = .memCopy)
  if isMem then d.effectB rb b.op b.word x a
  else
    let d := if h.vals = [] then d else (d.setTile ra.t { d.tile ra.t with hop := h.hop }).returnCredits ra.ic ra.t h.freed
    let d := d.setCtx ra.t ra.k { d.ctx ra.t ra.k with pc := ra.c.pc + 8 }
    (d.effectA ra a.op a.word).effectB rb b.op b.word x a

/-- The bundle holds its context (R54), at slot B's instruction where `inB`. An `slc.issue` that stalls keeps the descriptor it has
read (R283). -/
def Dev.stallAt (d : Dev) (r : Run) (a b : Slot) (inB : Bool) : Dev :=
  if !inB then d.setCtx r.t r.k { d.ctx r.t r.k with hold := some (.full a b r.kept) }
  else if b.op = .slcIssue then
    let (d, w) := d.descOf r.t r.k (r.ra b.word).toNat (r.rb b.word).toNat r.kept
    d.setCtx r.t r.k { d.ctx r.t r.k with hold := some (.full a b (some w)) }
  else d.setCtx r.t r.k { d.ctx r.t r.k with hold := some (.stall a b d.cycle) }

/-- Issue the bundle of slots `a` and `b`, whose words have been fetched. -/
def Dev.runBundle (d : Dev) (ic t : Nat) (k : HCtx) (a b : Slot) (kept : Option (List Word) := none) : Dev :=
  let c := d.ctx t k
  let ra0 : Run := { ic := ic, t := t, k := k, c := c, a := 0, b := 0, ix := d.freeIx }
  let rb0 : Run := { ra0 with ix := d.freeIx + 1, kept := kept }
  let d := d.draw.draw
  let (h, na) := bundleHops (d.tile t) ra0 rb0 a b
  let ra := withHops ra0 a h.vals
  let rb := withHops rb0 b (h.vals.drop na)
  let trap := fun (d : Dev) (inB : Bool) (tr : Trap) => d.raiseTrap t k inB (if inB then b.word else a.word) tr
  let ta := if bundleIllegal c a b then some .illegal else earlyTrap d ra a.op a.word false
  match worstTrap ta (earlyTrap d rb b.op b.word true) with
  | some (inB, tr) => trap d inB tr
  | none =>
    match hopEmptyTrap h na with
    | some (inB, tr) => trap d inB tr
    | none =>
      let x := d.accessB rb b.op b.word
      match x.trap with
      | some tr => trap x.dev true tr
      | none =>
        let d0 := d
        let d := if b.op = .hopRsend ∧ !rb.off b.op b.word then
            x.dev.ringWrap ic t (rb.ra b.word).toNat (rb.rc b.word).toNat
          else x.dev
        if d.stallsB rb b.op b.word then d.stallAt rb a b true
        else if d.stallsA ra a.op a.word then d.stallAt rb a b false
        else match worstTrap (lateTrap ra a.op a.word) (lateTrap rb b.op b.word) with
          | some (inB, tr) => trap d0 inB tr
          | none => d.takeEffect ra rb a b h x

/-- Fetch the bundle at the pc (R71) and issue it, where it holds the words of `a` and `b`. -/
def Dev.issue (d : Dev) (t : Nat) (k : HCtx) (a b : Slot) (kept : Option (List Word) := none) : Dev :=
  match d.canIssue t k with
  | none => d
  | some ic =>
    let c := d.ctx t k
    let pc := c.pc.toNat
    let info := Config.freeWord d.freeIx
    if !inBound c.bound.toNat pc 8 then d.draw.raiseTrap t k false info (.fetchBound pc)
    else
      let r := d.read k.val (ctxAddr t c pc) 8
      match r.bytes with
      | none => r.dev.draw.raiseTrap t k false info (.ueFetch pc)
      | some bs => if bs = bundleBytes a b ∧ spelled a b then r.dev.runBundle ic t k a b kept else d

/-- The two slots of a bundle that holds an instruction. -/
def slotsOf (op : TileOp) (i : Issue) : Slot × Slot :=
  let s : Slot := { op := op, word := i.word }
  if i.inB then (i.mate, s) else (s, i.mate)

/-- The issue of the bundle that holds an instruction. -/
def issueBundle (op : TileOp) (i : Issue) (d : Dev) : Dev :=
  d.issue i.tile.val i.ctx (slotsOf op i).1 (slotsOf op i).2

/-- What a stalled context holds: its bundle, and the descriptor of an `slc.issue` (R54, R283). -/
def Hold.stalled : Hold → Option (Slot × Slot × Option (List Word))
  | .stall a b _ => some (a, b, none)
  | .full a b w => some (a, b, w)
  | .mem _ | .fence _ _ | .slc _ _ => none

/-- A stalled context takes its bundle up again (R54). -/
def Dev.resumeStall (d : Dev) (t : Nat) (k : HCtx) : Dev :=
  match (d.ctx t k).hold.bind Hold.stalled with
  | some (a, b, kept) =>
    let d' := d.endStall t k
    match d'.canIssue t k with
    | some _ => d'.issue t k a b kept
    | none => d
  | none => d

/-- Slot A of a bundle that a memory-engine operation holds, as it runs at the operation's end (R55, R79). -/
def Dev.memRunA (d : Dev) (ic t : Nat) (k : HCtx) : Run :=
  { ic := ic, t := t, k := k, c := { d.ctx t k with hold := none }, a := 0, b := 0, ix := d.freeIx }

/-- What slot A consumes then. -/
def Dev.memHops (d : Dev) (ic t : Nat) (k : HCtx) (a : Slot) : HopTake :=
  takeHops (d.tile t).hop (if (d.memRunA ic t k).off a.op a.word then [] else hopReads a.op a.word)

/-- Slot A's effect, with the hoppers it consumes. -/
def Dev.memEffect (d : Dev) (ic t : Nat) (k : HCtx) (a : Slot) (h : HopTake) : Dev :=
  let r0 := d.memRunA ic t k
  let d := if h.vals = [] then d.draw else (d.draw.setTile t { d.tile t with hop := h.hop }).returnCredits ic t h.freed
  let d := d.setCtx t k { d.ctx t k with pc := r0.c.pc + 8, hold := none }
  d.effectA (withHops r0 a h.vals) a.op a.word

/-- The memory engine has done its operation for a context that holds at the bundle: slot A's effect and the pc, or MEM_OP with
`ERR_UE`. Where a hopper of slot A is empty, neither slot takes effect (R55, R64, R91). A worker stopped meanwhile does not trap
(R98). -/
def Dev.memEnd (d : Dev) (ic t : Nat) (k : HCtx) (o : MemOp) (a : Slot) : Dev :=
  let runs := decide ((d.ctx t k).run = .run)
  let free := fun (d : Dev) => d.setCtx t k { d.ctx t k with hold := none }
  let h := d.memHops ic t k a
  match h.empty with
  | some n => if runs then d.raiseTrap t k false a.word (.hopEmpty n) else free d
  | none =>
    match d.memRun t o with
    | (d, none) => d.memEffect ic t k a h
    | (d, some w) => if runs then d.raiseTrap t k true o.word (.memOp sUe (some w)) else free d

/-- The memory engine ends its operation (R77 to R80). The clocks of a context being saved stand still (R489). -/
def Dev.memDone (d : Dev) (t : Nat) : Dev :=
  match (d.tile t).memEng with
  | none => d
  | some o =>
    let k : HCtx := Fin.ofNat 4 o.ctx
    let idle := fun (d : Dev) => d.setTile t { d.tile t with memEng := none }
    match (d.ctx t k).hold, d.tileCtx t with
    | some (.mem a), some ic =>
      if (d.img ic).wait = .saving then d
      else if (d.ctx t k).run = .halted then
        let d := idle (d.memRun t o).1
        d.setCtx t k { d.ctx t k with hold := none }
      else (idle d).memEnd ic t k o a
    | _, _ => idle (d.memRun t o).1

end Sys2Proof.Machine
end

