-- ==== Sys2Proof/Machine/TileMemory.lean ====
section
/-!
DEFINITION. Loads, stores and the memory engine (R66 to R80).
-/
namespace Sys2Proof.Machine

/-- A load of 1, 2 or 4 bytes (R71, R74, R75). -/
def execScalarLoad (n : MemSize) (i : Issue) (s : State) : Res := .next (onDev (issueBundle (.load n) i) s)

/-- A store of 1, 2 or 4 bytes (R67, R71, R74). -/
def execScalarStore (n : MemSize) (i : Issue) (s : State) : Res := .next (onDev (issueBundle (.store n) i) s)

/-- `vld` (R71, R74). -/
def execVld (i : Issue) (s : State) : Res := .next (onDev (issueBundle .vld i) s)

/-- `vst` (R71, R74). -/
def execVst (i : Issue) (s : State) : Res := .next (onDev (issueBundle .vst i) s)

/-- `mem.fill` (R76, R77): its operation begins. -/
def execMemFill (i : Issue) (s : State) : Res := .next (onDev (issueBundle .memFill i) s)

/-- `mem.copy` (R76, R78): its operation begins. -/
def execMemCopy (i : Issue) (s : State) : Res := .next (onDev (issueBundle .memCopy i) s)

end Sys2Proof.Machine
end

