-- ==== Sys2Proof/Machine/TileQueue.lean ====
section
/-!
DEFINITION. Instructions on sync objects, hoppers, channels and rings, the mill queue and the Sluice queues (R94).
-/
namespace Sys2Proof.Machine

/-- `sync.sig` (R242). -/
def execSyncSig (i : Issue) (s : State) : Res := .next (onDev (issueBundle .syncSig i) s)

/-- `sync.wait` (R240). -/
def execSyncWait (i : Issue) (s : State) : Res := .next (onDev (issueBundle .syncWait i) s)

/-- `sync.poll` (R240). -/
def execSyncPoll (i : Issue) (s : State) : Res := .next (onDev (issueBundle .syncPoll i) s)

/-- `sync.arm` (R253). -/
def execSyncArm (i : Issue) (s : State) : Res := .next (onDev (issueBundle .syncArm i) s)

/-- `hop.send` (R259). -/
def execHopSend (i : Issue) (s : State) : Res := .next (onDev (issueBundle .hopSend i) s)

/-- `hop.stat` (R92). -/
def execHopStat (i : Issue) (s : State) : Res := .next (onDev (issueBundle .hopStat i) s)

/-- `hop.rsend` (R262 to R264). -/
def execHopRsend (i : Issue) (s : State) : Res := .next (onDev (issueBundle .hopRsend i) s)

/-- `hop.rfree` (R266). -/
def execHopRfree (i : Issue) (s : State) : Res := .next (onDev (issueBundle .hopRfree i) s)

/-- `hop.close` (R94, R267). -/
def execHopClose (i : Issue) (s : State) : Res := .next (onDev (issueBundle .hopClose i) s)

/-- `mill.mma` (R106, R108, R114 to R120). -/
def execMillMma (i : Issue) (s : State) : Res := .next (onDev (issueBundle .millMma i) s)

/-- `mill.drain` (R106, R108, R126, R127). -/
def execMillDrain (i : Issue) (s : State) : Res := .next (onDev (issueBundle .millDrain i) s)

/-- `mill.smode` (R106, R108, R125). -/
def execMillSmode (i : Issue) (s : State) : Res := .next (onDev (issueBundle .millSmode i) s)

/-- `mill.qstat` (R105). -/
def execMillQstat (i : Issue) (s : State) : Res := .next (onDev (issueBundle .millQstat i) s)

/-- `mill.fence` (R110). -/
def execMillFence (i : Issue) (s : State) : Res := .next (onDev (issueBundle .millFence i) s)

/-- `slc.issue` (R283, R290). -/
def execSlcIssue (i : Issue) (s : State) : Res := .next (onDev (issueBundle .slcIssue i) s)

/-- `slc.stat` (R285). -/
def execSlcStat (i : Issue) (s : State) : Res := .next (onDev (issueBundle .slcStat i) s)

/-- `slc.wait` (R286). -/
def execSlcWait (i : Issue) (s : State) : Res := .next (onDev (issueBundle .slcWait i) s)

/-- `slc.lim` (R294). -/
def execSlcLim (i : Issue) (s : State) : Res := .next (onDev (issueBundle .slcLim i) s)

end Sys2Proof.Machine
end

