-- ==== Sys2Proof/Machine/TileScalar.lean ====
section
/-!
DEFINITION. Scalar integer instructions and branches (R86, R93), and the read of a hopper operand (R89 to R91).
-/
namespace Sys2Proof.Machine

/-- `nop` (R86). -/
def execNop (i : Issue) (s : State) : Res := .next (onDev (issueBundle .nop i) s)

/-- `add` (R93): rd := ra + rb modulo 2^32. -/
def execAdd (i : Issue) (s : State) : Res := .next (onDev (issueBundle (.alu .add) i) s)

/-- `sub` (R93): rd := ra - rb modulo 2^32. -/
def execSub (i : Issue) (s : State) : Res := .next (onDev (issueBundle (.alu .sub) i) s)

/-- `and` (R93). -/
def execAnd (i : Issue) (s : State) : Res := .next (onDev (issueBundle (.alu .and) i) s)

/-- `or` (R93). -/
def execOr (i : Issue) (s : State) : Res := .next (onDev (issueBundle (.alu .or) i) s)

/-- `xor` (R93). -/
def execXor (i : Issue) (s : State) : Res := .next (onDev (issueBundle (.alu .xor) i) s)

/-- `shl` (R93). -/
def execShl (i : Issue) (s : State) : Res := .next (onDev (issueBundle (.alu .shl) i) s)

/-- `shr` (R93). -/
def execShr (i : Issue) (s : State) : Res := .next (onDev (issueBundle (.alu .shr) i) s)

/-- `sra` (R93). -/
def execSra (i : Issue) (s : State) : Res := .next (onDev (issueBundle (.alu .sra) i) s)

/-- `mul` (R93): the low 32 bits of the product. -/
def execMul (i : Issue) (s : State) : Res := .next (onDev (issueBundle (.alu .mul) i) s)

/-- `min` (R93). -/
def execMin (i : Issue) (s : State) : Res := .next (onDev (issueBundle (.alu .min) i) s)

/-- `max` (R93). -/
def execMax (i : Issue) (s : State) : Res := .next (onDev (issueBundle (.alu .max) i) s)

/-- A scalar operation with IMM13 (R87, R93). -/
def execScalarImmediate (f : AluOp) (i : Issue) (s : State) : Res := .next (onDev (issueBundle (.aluImm f) i) s)

/-- A compare to a predicate (R59, R93). -/
def execCompareToPredicate (c : CmpCond) (i : Issue) (s : State) : Res := .next (onDev (issueBundle (.cmp c) i) s)

/-- `br` (R93). -/
def execBr (i : Issue) (s : State) : Res := .next (onDev (issueBundle .br i) s)

/-- `call` (R93). -/
def execCall (i : Issue) (s : State) : Res := .next (onDev (issueBundle .call i) s)

/-- `jr` (R93): a misaligned target traps with ALIGN. -/
def execJr (i : Issue) (s : State) : Res := .next (onDev (issueBundle .jr i) s)

/-- An instruction reads a hopper operand (R90): the issue of the bundle of an instruction that names one. -/
def execHopperOperandRead (op : TileOp) (i : Issue) (s : State) : Res :=
  .next (if hopReads op i.word = [] then s else onDev (issueBundle op i) s)

end Sys2Proof.Machine
end

