-- ==== Sys2Proof/Machine/TileSystem.lean ====
section
/-!
DEFINITION. `sys.*` instructions (R97 to R99), and what a tile does without an instruction: taking a trap (R61), taking up a stalled bundle (R54), and the ends of `mem.*`, `mill.fence` and `slc.wait`.
-/
namespace Sys2Proof.Machine

/-- `sys.csrr` (R99). -/
def execSysCsrr (i : Issue) (s : State) : Res := .next (onDev (issueBundle .sysCsrr i) s)

/-- `sys.csrw` (R99). -/
def execSysCsrw (i : Issue) (s : State) : Res := .next (onDev (issueBundle .sysCsrw i) s)

/-- `sys.start` (R98). -/
def execSysStart (i : Issue) (s : State) : Res := .next (onDev (issueBundle .sysStart i) s)

/-- `sys.resume` (R98). -/
def execSysResume (i : Issue) (s : State) : Res := .next (onDev (issueBundle .sysResume i) s)

/-- `sys.stop` (R98). -/
def execSysStop (i : Issue) (s : State) : Res := .next (onDev (issueBundle .sysStop i) s)

/-- `sys.tret` (R61, R62). -/
def execSysTret (i : Issue) (s : State) : Res := .next (onDev (issueBundle .sysTret i) s)

/-- `sys.exit` (R94, R484). -/
def execSysExit (i : Issue) (s : State) : Res := .next (onDev (issueBundle .sysExit i) s)

/-- `sys.halt` (R63). -/
def execSysHalt (i : Issue) (s : State) : Res := .next (onDev (issueBundle .sysHalt i) s)

/-- `sys.brk` (R64): traps with BREAK. -/
def execSysBrk (i : Issue) (s : State) : Res := .next (onDev (issueBundle .sysBrk i) s)

/-- S takes a queued trap (R61 to R63). -/
def execTrapTake (t : TileIx) (s : State) : Res :=
  .next (if s.dev.stage = .ready ∧ (s.dev.tileCtx t.val).isSome then onDev (·.takeTrap t.val) s else s)

/-- A stalled context takes its bundle up again (R54, R263, R283). -/
def execQueueStallResume (t : TileIx) (c : HCtx) (s : State) : Res := .next (onDev (·.resumeStall t.val c) s)

/-- A memory-engine operation ends (R77 to R80). -/
def execMemEngineDone (t : TileIx) (s : State) : Res := .next (onDev (Dev.settling (·.memDone t.val)) s)

/-- `mill.fence` returns (R110). -/
def execMillFenceReturn (t : TileIx) (c : HCtx) (s : State) : Res := .next (onDev (·.fenceReturn t.val c) s)

/-- `slc.wait` returns (R286). -/
def execSlcWaitReturn (t : TileIx) (c : HCtx) (s : State) : Res := .next (onDev (·.slcReturn t.val c) s)

end Sys2Proof.Machine
end

