-- ==== Sys2Proof/Machine/TileVector.lean ====
section
/-!
DEFINITION. Vector and special functions (R81 to R85) and conversions (R95, R96, R172 to R175).
-/
namespace Sys2Proof.Machine

/-- Vector arithmetic (R81 to R83). -/
def execVectorArithmetic (f : LaneOp) (fmt : LaneFmt) (i : Issue) (s : State) : Res := .next (onDev (issueBundle (.varith f fmt) i) s)

/-- A vector compare to a lane mask (R59). -/
def execVectorCompare (c : LaneCond) (fmt : LaneFmt) (i : Issue) (s : State) : Res := .next (onDev (issueBundle (.vcmp c fmt) i) s)

/-- A lane move (R59). -/
def execLaneMove (m : LaneMove) (i : Issue) (s : State) : Res := .next (onDev (issueBundle (.vmove m) i) s)

/-- A broadcast (R59). -/
def execBroadcast (i : Issue) (s : State) : Res := .next (onDev (issueBundle .vbcast i) s)

/-- `vred.add` (R84). -/
def execVredAdd (i : Issue) (s : State) : Res := .next (onDev (issueBundle .vred i) s)

/-- `sfu.exp` (R85). -/
def execSfuExp (i : Issue) (s : State) : Res := .next (onDev (issueBundle (.sfu .exp) i) s)

/-- `sfu.log` (R85). -/
def execSfuLog (i : Issue) (s : State) : Res := .next (onDev (issueBundle (.sfu .log) i) s)

/-- `sfu.rsqrt` (R85). -/
def execSfuRsqrt (i : Issue) (s : State) : Res := .next (onDev (issueBundle (.sfu .rsqrt) i) s)

/-- `sfu.recip` (R85). -/
def execSfuRecip (i : Issue) (s : State) : Res := .next (onDev (issueBundle (.sfu .recip) i) s)

/-- `cvt.st` (R95, R96, R173). -/
def execCvtSt (i : Issue) (s : State) : Res := .next (onDev (issueBundle .cvtSt i) s)

/-- `cvt.ld` (R96, R174). -/
def execCvtLd (i : Issue) (s : State) : Res := .next (onDev (issueBundle .cvtLd i) s)

/-- `cvt.bf` (R95, R175). -/
def execCvtBf (i : Issue) (s : State) : Res := .next (onDev (issueBundle .cvtBf i) s)

/-- `cvt.f32` (R175). -/
def execCvtF32 (i : Issue) (s : State) : Res := .next (onDev (issueBundle .cvtF32 i) s)

end Sys2Proof.Machine
end

