-- ==== Sys2Proof/Machine/TwinRun.lean ====
section
/-!
DEFINITION. The commands of the twin (R433 to R445), but for its registers.
-/
namespace Sys2Proof.Machine

/-- A twin command, and whatever commit it releases (R438, R443). -/
def Dev.twinAct (d : Dev) (act : Dev → Dev) : Dev :=
  let d := act d
  d.commitTail d.twinCtx

/-- DIGEST (R437 to R440). -/
def execDigest (p : Port) (msg : List Byte) (s : State) : Res :=
  .next (onDev (fun d => d.twinAct fun d => d.twinIn p msg twDigest fun d m => d.twinDigest m) s)

/-- KEEPALIVE (R437). -/
def execKeepalive (p : Port) (msg : List Byte) (s : State) : Res :=
  .next (onDev (fun d => d.twinIn p msg twKeepalive fun d _ => d) s)

/-- A KEEPALIVE goes out every 1 ms while the twin is not OFF (R437). -/
def Dev.keepaliveDue (d : Dev) : Dev :=
  let w := d.twin
  if w.state = 0 ∨ d.cycle - w.sent < cyclesOfMs 1 then d
  else (d.setTwin { w with sent := d.cycle }).twinSend (d.twinMsg twKeepalive 0 (d.stepNum d.twinCtx) [] [])

/-- KEEPALIVE_TIMER (R437). -/
def execKeepaliveTimer (s : State) : Res := .next (onDev Dev.keepaliveDue s)

/-- TWIN_SILENT (R440). -/
def execTwinSilent (s : State) : Res := .next (onDev (fun d => d.twinAct Dev.twinSilent) s)

/-- RJ_START (R443, R444). -/
def execRjStart (p : Port) (msg : List Byte) (s : State) : Res :=
  .next (onDev (fun d => d.twinAct fun d => d.twinIn p msg twStart fun d m => d.rjStart m) s)

/-- RJ_WRITE (R443, R444). -/
def execRjWrite (p : Port) (addr : Nat) (data : List Byte) (s : State) : Res :=
  .next (onDev (fun d => d.rjWrite p addr data) s)

/-- RJ_DONE (R443, R444). -/
def execRjDone (p : Port) (msg : List Byte) (s : State) : Res :=
  .next (onDev (fun d => d.twinAct fun d => d.twinIn p msg twDone fun d m => d.rjDone m) s)

/-- RJ_ABORT (R445). -/
def execRjAbort (p : Port) (msg : List Byte) (s : State) : Res :=
  .next (onDev (fun d => d.twinAct fun d => d.twinIn p msg twAbort fun d _ => d.rjAborted) s)

/-- REJOIN_TIMEOUT (R445). -/
def execRejoinTimeout (s : State) : Res := .next (onDev (fun d => d.twinAct Dev.rjTimeout) s)

end Sys2Proof.Machine
end

