-- ==== Sys2Proof/Machine/Dispatch.lean ====
section
/-!
DEFINITION. The meaning of every command: one arm for each row of the table.
-/
namespace Sys2Proof.Machine

/-- The effect of a command on everything but the queue. -/
def exec (i : Instr) (s : State) : Host.Outcome State Fault Refusal :=
  match i with
  | .registerWrite who off len data => Sys2Proof.Machine.execRegisterWrite who off len data s
  | .registerReadLo who off => Sys2Proof.Machine.execRegisterReadLo who off s
  | .illegalRegisterRead who off len => Sys2Proof.Machine.execIllegalRegisterRead who off len s
  | .nop u => Sys2Proof.Machine.execNop u s
  | .add u => Sys2Proof.Machine.execAdd u s
  | .sub u => Sys2Proof.Machine.execSub u s
  | .and u => Sys2Proof.Machine.execAnd u s
  | .or u => Sys2Proof.Machine.execOr u s
  | .xor u => Sys2Proof.Machine.execXor u s
  | .shl u => Sys2Proof.Machine.execShl u s
  | .shr u => Sys2Proof.Machine.execShr u s
  | .sra u => Sys2Proof.Machine.execSra u s
  | .mul u => Sys2Proof.Machine.execMul u s
  | .min u => Sys2Proof.Machine.execMin u s
  | .max u => Sys2Proof.Machine.execMax u s
  | .scalarImmediate f u => Sys2Proof.Machine.execScalarImmediate f u s
  | .compareToPredicate c u => Sys2Proof.Machine.execCompareToPredicate c u s
  | .br u => Sys2Proof.Machine.execBr u s
  | .call u => Sys2Proof.Machine.execCall u s
  | .jr u => Sys2Proof.Machine.execJr u s
  | .scalarLoad n u => Sys2Proof.Machine.execScalarLoad n u s
  | .scalarStore n u => Sys2Proof.Machine.execScalarStore n u s
  | .vld u => Sys2Proof.Machine.execVld u s
  | .vst u => Sys2Proof.Machine.execVst u s
  | .vectorArithmetic f fmt u => Sys2Proof.Machine.execVectorArithmetic f fmt u s
  | .vectorCompare c fmt u => Sys2Proof.Machine.execVectorCompare c fmt u s
  | .laneMove m u => Sys2Proof.Machine.execLaneMove m u s
  | .broadcast u => Sys2Proof.Machine.execBroadcast u s
  | .vredAdd u => Sys2Proof.Machine.execVredAdd u s
  | .sfuExp u => Sys2Proof.Machine.execSfuExp u s
  | .sfuLog u => Sys2Proof.Machine.execSfuLog u s
  | .sfuRsqrt u => Sys2Proof.Machine.execSfuRsqrt u s
  | .sfuRecip u => Sys2Proof.Machine.execSfuRecip u s
  | .trapTake t => Sys2Proof.Machine.execTrapTake t s
  | .syncSig u => Sys2Proof.Machine.execSyncSig u s
  | .syncWait u => Sys2Proof.Machine.execSyncWait u s
  | .syncPoll u => Sys2Proof.Machine.execSyncPoll u s
  | .syncArm u => Sys2Proof.Machine.execSyncArm u s
  | .hopSend u => Sys2Proof.Machine.execHopSend u s
  | .hopStat u => Sys2Proof.Machine.execHopStat u s
  | .hopRsend u => Sys2Proof.Machine.execHopRsend u s
  | .hopRfree u => Sys2Proof.Machine.execHopRfree u s
  | .hopClose u => Sys2Proof.Machine.execHopClose u s
  | .hopperOperandRead op u => Sys2Proof.Machine.execHopperOperandRead op u s
  | .millMma u => Sys2Proof.Machine.execMillMma u s
  | .millDrain u => Sys2Proof.Machine.execMillDrain u s
  | .millSmode u => Sys2Proof.Machine.execMillSmode u s
  | .millQstat u => Sys2Proof.Machine.execMillQstat u s
  | .millFence u => Sys2Proof.Machine.execMillFence u s
  | .slcIssue u => Sys2Proof.Machine.execSlcIssue u s
  | .slcStat u => Sys2Proof.Machine.execSlcStat u s
  | .slcWait u => Sys2Proof.Machine.execSlcWait u s
  | .slcLim u => Sys2Proof.Machine.execSlcLim u s
  | .memFill u => Sys2Proof.Machine.execMemFill u s
  | .memCopy u => Sys2Proof.Machine.execMemCopy u s
  | .cvtSt u => Sys2Proof.Machine.execCvtSt u s
  | .cvtLd u => Sys2Proof.Machine.execCvtLd u s
  | .cvtBf u => Sys2Proof.Machine.execCvtBf u s
  | .cvtF32 u => Sys2Proof.Machine.execCvtF32 u s
  | .sysCsrr u => Sys2Proof.Machine.execSysCsrr u s
  | .sysCsrw u => Sys2Proof.Machine.execSysCsrw u s
  | .sysStart u => Sys2Proof.Machine.execSysStart u s
  | .sysResume u => Sys2Proof.Machine.execSysResume u s
  | .sysStop u => Sys2Proof.Machine.execSysStop u s
  | .sysTret u => Sys2Proof.Machine.execSysTret u s
  | .sysExit u => Sys2Proof.Machine.execSysExit u s
  | .sysHalt u => Sys2Proof.Machine.execSysHalt u s
  | .sysBrk u => Sys2Proof.Machine.execSysBrk u s
  | .queueStallResume t c => Sys2Proof.Machine.execQueueStallResume t c s
  | .memEngineDone t => Sys2Proof.Machine.execMemEngineDone t s
  | .millFenceReturn t c => Sys2Proof.Machine.execMillFenceReturn t c s
  | .passStart m => Sys2Proof.Machine.execPassStart m s
  | .weightLoadStart m => Sys2Proof.Machine.execWeightLoadStart m s
  | .weightSetActive m => Sys2Proof.Machine.execWeightSetActive m s
  | .passFinish m => Sys2Proof.Machine.execPassFinish m s
  | .drainStart m => Sys2Proof.Machine.execDrainStart m s
  | .drainFinish m => Sys2Proof.Machine.execDrainFinish m s
  | .smodeStart m => Sys2Proof.Machine.execSmodeStart m s
  | .smodeFinish m => Sys2Proof.Machine.execSmodeFinish m s
  | .exchangeRelease t => Sys2Proof.Machine.execExchangeRelease t s
  | .exchangeSetupEnd t => Sys2Proof.Machine.execExchangeSetupEnd t s
  | .sendPacketIssue t => Sys2Proof.Machine.execSendPacketIssue t s
  | .streamEntryIssue t => Sys2Proof.Machine.execStreamEntryIssue t s
  | .packetHop n => Sys2Proof.Machine.execPacketHop n s
  | .dataPacketArrive n => Sys2Proof.Machine.execDataPacketArrive n s
  | .answerPacketArrive n => Sys2Proof.Machine.execAnswerPacketArrive n s
  | .passPacketArrive n => Sys2Proof.Machine.execPassPacketArrive n s
  | .partPacketArrive n => Sys2Proof.Machine.execPartPacketArrive n s
  | .combiningCreditArrive n => Sys2Proof.Machine.execCombiningCreditArrive n s
  | .redChunkCombine t e => Sys2Proof.Machine.execRedChunkCombine t e s
  | .exchangePhaseEnd t => Sys2Proof.Machine.execExchangePhaseEnd t s
  | .packetToFencedTile n => Sys2Proof.Machine.execPacketToFencedTile n s
  | .linkUe n => Sys2Proof.Machine.execLinkUe n s
  | .syncSignalApply n => Sys2Proof.Machine.execSyncSignalApply n s
  | .syncArrivalApply n => Sys2Proof.Machine.execSyncArrivalApply n s
  | .syncArmApply n => Sys2Proof.Machine.execSyncArmApply n s
  | .syncCreditApply n => Sys2Proof.Machine.execSyncCreditApply n s
  | .heldEventApply phys => Sys2Proof.Machine.execHeldEventApply phys s
  | .waitRelease t c => Sys2Proof.Machine.execWaitRelease t c s
  | .barrierArrivalSend t => Sys2Proof.Machine.execBarrierArrivalSend t s
  | .syncWatchdogExpire t c => Sys2Proof.Machine.execSyncWatchdogExpire t c s
  | .syncDoorbellSignal f c lo hi => Sys2Proof.Machine.execSyncDoorbellSignal f c lo hi s
  | .syncDoorbellArrival f c lo hi => Sys2Proof.Machine.execSyncDoorbellArrival f c lo hi s
  | .syncDoorbellArm f c lo hi => Sys2Proof.Machine.execSyncDoorbellArm f c lo hi s
  | .hopPacketArrive n => Sys2Proof.Machine.execHopPacketArrive n s
  | .ringPacketArrive n => Sys2Proof.Machine.execRingPacketArrive n s
  | .sluiceRequestIssue m q => Sys2Proof.Machine.execSluiceRequestIssue m q s
  | .sluiceRequestComplete m q n data ok => Sys2Proof.Machine.execSluiceRequestComplete m q n data ok s
  | .slcWaitReturn t c => Sys2Proof.Machine.execSlcWaitReturn t c s
  | .sluiceResume who w => Sys2Proof.Machine.execSluiceResume who w s
  | .sluiceAbort who w => Sys2Proof.Machine.execSluiceAbort who w s
  | .sluiceFaultTimeout m q => Sys2Proof.Machine.execSluiceFaultTimeout m q s
  | .slcInvGo who w => Sys2Proof.Machine.execSlcInvGo who w s
  | .slcInvDone => Sys2Proof.Machine.execSlcInvDone s
  | .collectiveStart c op => Sys2Proof.Machine.execCollectiveStart c op s
  | .collectiveFinish c op => Sys2Proof.Machine.execCollectiveFinish c op s
  | .greqFrame p f => Sys2Proof.Machine.execGreqFrame p f s
  | .gdatFrame p f => Sys2Proof.Machine.execGdatFrame p f s
  | .collectiveTimeout c op => Sys2Proof.Machine.execCollectiveTimeout c op s
  | .rscpFrame p f => Sys2Proof.Machine.execRscpFrame p f s
  | .rscpChunkCombine c op root chunk => Sys2Proof.Machine.execRscpChunkCombine c op root chunk s
  | .rsxfFrame p f => Sys2Proof.Machine.execRsxfFrame p f s
  | .rsxDecodeSum c op frame => Sys2Proof.Machine.execRsxDecodeSum c op frame s
  | .permFrame p f => Sys2Proof.Machine.execPermFrame p f s
  | .commitQuiesced c => Sys2Proof.Machine.execCommitQuiesced c s
  | .cmtFrameUp p f => Sys2Proof.Machine.execCmtFrameUp p f s
  | .cmtFrameDown p f => Sys2Proof.Machine.execCmtFrameDown p f s
  | .updatePassDone c => Sys2Proof.Machine.execUpdatePassDone c s
  | .updStepSizeWrite who c w => Sys2Proof.Machine.execUpdStepSizeWrite who c w s
  | .updSeedWrite who c w => Sys2Proof.Machine.execUpdSeedWrite who c w s
  | .replayArm who c w => Sys2Proof.Machine.execReplayArm who c w s
  | .replayResume who c w => Sys2Proof.Machine.execReplayResume who c w s
  | .captureEnable who c w => Sys2Proof.Machine.execCaptureEnable who c w s
  | .portTrainDone p lanes => Sys2Proof.Machine.execPortTrainDone p lanes s
  | .portRetrainRequest who p w => Sys2Proof.Machine.execPortRetrainRequest who p w s
  | .helloTimer p => Sys2Proof.Machine.execHelloTimer p s
  | .helloFrame p f => Sys2Proof.Machine.execHelloFrame p f s
  | .helloTimeout p => Sys2Proof.Machine.execHelloTimeout p s
  | .frameCrcFail p lseq auth => Sys2Proof.Machine.execFrameCrcFail p lseq auth s
  | .linkAck p lseq => Sys2Proof.Machine.execLinkAck p lseq s
  | .linkNak p lseq => Sys2Proof.Machine.execLinkNak p lseq s
  | .linkAckTimer p => Sys2Proof.Machine.execLinkAckTimer p s
  | .berWindowExpire p rates => Sys2Proof.Machine.execBerWindowExpire p rates s
  | .frameForward p f => Sys2Proof.Machine.execFrameForward p f s
  | .frameStallTimeout p => Sys2Proof.Machine.execFrameStallTimeout p s
  | .flmRtCommit who w => Sys2Proof.Machine.execFlmRtCommit who w s
  | .flumeDataFrame p f => Sys2Proof.Machine.execFlumeDataFrame p f s
  | .flumeAnswerFrame p f => Sys2Proof.Machine.execFlumeAnswerFrame p f s
  | .flumeHopFrame p f => Sys2Proof.Machine.execFlumeHopFrame p f s
  | .flumeRingFrame p f => Sys2Proof.Machine.execFlumeRingFrame p f s
  | .flumeSigFrame p f => Sys2Proof.Machine.execFlumeSigFrame p f s
  | .flumePartFrame p f => Sys2Proof.Machine.execFlumePartFrame p f s
  | .timeExchangeTimer p => Sys2Proof.Machine.execTimeExchangeTimer p s
  | .timeFrame p f => Sys2Proof.Machine.execTimeFrame p f s
  | .timeHoldoverTimeout => Sys2Proof.Machine.execTimeHoldoverTimeout s
  | .syncPpsEdge ns => Sys2Proof.Machine.execSyncPpsEdge ns s
  | .ppsTimeout => Sys2Proof.Machine.execPpsTimeout s
  | .roceNak p qp psn => Sys2Proof.Machine.execRoceNak p qp psn s
  | .roceCnp p qp => Sys2Proof.Machine.execRoceCnp p qp s
  | .roceRateRecover p qp => Sys2Proof.Machine.execRoceRateRecover p qp s
  | .twinEnable who w => Sys2Proof.Machine.execTwinEnable who w s
  | .digest p msg => Sys2Proof.Machine.execDigest p msg s
  | .keepalive p msg => Sys2Proof.Machine.execKeepalive p msg s
  | .keepaliveTimer => Sys2Proof.Machine.execKeepaliveTimer s
  | .twinSilent => Sys2Proof.Machine.execTwinSilent s
  | .twinRjGo who w => Sys2Proof.Machine.execTwinRjGo who w s
  | .twinRjRecv who w => Sys2Proof.Machine.execTwinRjRecv who w s
  | .rjStart p msg => Sys2Proof.Machine.execRjStart p msg s
  | .rjWrite p addr data => Sys2Proof.Machine.execRjWrite p addr data s
  | .rjDone p msg => Sys2Proof.Machine.execRjDone p msg s
  | .rjAbort p msg => Sys2Proof.Machine.execRjAbort p msg s
  | .rejoinTimeout => Sys2Proof.Machine.execRejoinTimeout s
  | .cmdDoorbell f c w => Sys2Proof.Machine.execCmdDoorbell f c w s
  | .cmdFetch c entry => Sys2Proof.Machine.execCmdFetch c entry s
  | .load c image hosts => Sys2Proof.Machine.execLoad c image hosts s
  | .start c => Sys2Proof.Machine.execStart c s
  | .stop c => Sys2Proof.Machine.execStop c s
  | .preempt c => Sys2Proof.Machine.execPreempt c s
  | .resume c => Sys2Proof.Machine.execResume c s
  | .unload c => Sys2Proof.Machine.execUnload c s
  | .unloadComplete c => Sys2Proof.Machine.execUnloadComplete c s
  | .preemptQuiesced c => Sys2Proof.Machine.execPreemptQuiesced c s
  | .preemptSaveDone c => Sys2Proof.Machine.execPreemptSaveDone c s
  | .cmdRingEnable f c w => Sys2Proof.Machine.execCmdRingEnable f c w s
  | .cplRingEnable f c w => Sys2Proof.Machine.execCplRingEnable f c w s
  | .cplHeadWrite f c w => Sys2Proof.Machine.execCplHeadWrite f c w s
  | .forceStop who w => Sys2Proof.Machine.execForceStop who w s
  | .forceUnload who w => Sys2Proof.Machine.execForceUnload who w s
  | .vfFlr v => Sys2Proof.Machine.execVfFlr v s
  | .pfFlr => Sys2Proof.Machine.execPfFlr s
  | .vfEnableChange enable num => Sys2Proof.Machine.execVfEnableChange enable num s
  | .perstAssert => Sys2Proof.Machine.execPerstAssert s
  | .bar2Read f off len => Sys2Proof.Machine.execBar2Read f off len s
  | .bar2Write f off data => Sys2Proof.Machine.execBar2Write f off data s
  | .scrubRead hbm => Sys2Proof.Machine.execScrubRead hbm s
  | .flipArm who w => Sys2Proof.Machine.execFlipArm who w s
  | .fenceRequest who w => Sys2Proof.Machine.execFenceRequest who w s
  | .fenceTimeout => Sys2Proof.Machine.execFenceTimeout s
  | .supply50vWarn mv => Sys2Proof.Machine.execSupply50vWarn mv s
  | .supply50vOff mv => Sys2Proof.Machine.execSupply50vOff mv s
  | .supply12vWarn mv => Sys2Proof.Machine.execSupply12vWarn mv s
  | .dieTempThrottle die temp => Sys2Proof.Machine.execDieTempThrottle die temp s
  | .dieTempPark die temp => Sys2Proof.Machine.execDieTempPark die temp s
  | .thermalTrip die temp => Sys2Proof.Machine.execThermalTrip die temp s
  | .coolantWarn temp => Sys2Proof.Machine.execCoolantWarn temp s
  | .coolantPark temp => Sys2Proof.Machine.execCoolantPark temp s
  | .refclkFault => Sys2Proof.Machine.execRefclkFault s
  | .siteAlertAssert => Sys2Proof.Machine.execSiteAlertAssert s
  | .inputChatterHold input => Sys2Proof.Machine.execInputChatterHold input s
  | .chatterHoldEnd input => Sys2Proof.Machine.execChatterHoldEnd input s
  | .governorTick watts => Sys2Proof.Machine.execGovernorTick watts s
  | .millLend m => Sys2Proof.Machine.execMillLend m s
  | .millClockGate m => Sys2Proof.Machine.execMillClockGate m s
  | .millPowerGate m => Sys2Proof.Machine.execMillPowerGate m s
  | .millClockRestart m => Sys2Proof.Machine.execMillClockRestart m s
  | .millLevelStep m => Sys2Proof.Machine.execMillLevelStep m s
  | .millPllStop bd => Sys2Proof.Machine.execMillPllStop bd s
  | .hostParkRequest who w => Sys2Proof.Machine.execHostParkRequest who w s
  | .parkBoundExpire c => Sys2Proof.Machine.execParkBoundExpire c s
  | .parkBegin => Sys2Proof.Machine.execParkBegin s
  | .parkComplete => Sys2Proof.Machine.execParkComplete s
  | .hostUnpark who w => Sys2Proof.Machine.execHostUnpark who w s
  | .autoUnpark => Sys2Proof.Machine.execAutoUnpark s
  | .unparkComplete => Sys2Proof.Machine.execUnparkComplete s
  | .powerUp50v => Sys2Proof.Machine.execPowerUp50v s
  | .powerLoss50v => Sys2Proof.Machine.execPowerLoss50v s
  | .lehrPowerLoss => Sys2Proof.Machine.execLehrPowerLoss s
  | .modRstAssert => Sys2Proof.Machine.execModRstAssert s
  | .modRstRelease => Sys2Proof.Machine.execModRstRelease s
  | .refclkStartupHold => Sys2Proof.Machine.execRefclkStartupHold s
  | .firmwareBoot => Sys2Proof.Machine.execFirmwareBoot s
  | .poisonInitDone => Sys2Proof.Machine.execPoisonInitDone s
  | .loaderReady => Sys2Proof.Machine.execLoaderReady s
  | .crystalLost => Sys2Proof.Machine.execCrystalLost s
  | .crystalRestored => Sys2Proof.Machine.execCrystalRestored s
  | .setOwner r key => Sys2Proof.Machine.execSetOwner r key s
  | .setMode r mode => Sys2Proof.Machine.execSetMode r mode s
  | .evrClear r => Sys2Proof.Machine.execEvrClear r s
  | .commitSvn r v => Sys2Proof.Machine.execCommitSvn r v s
  | .setImageKey r slot kindD key => Sys2Proof.Machine.execSetImageKey r slot kindD key s
  | .setLinkKey r port slot key => Sys2Proof.Machine.execSetLinkKey r port slot key s
  | .debugChallenge r => Sys2Proof.Machine.execDebugChallenge r s
  | .debugUnlock r level sig => Sys2Proof.Machine.execDebugUnlock r level sig s
  | .clearMap r which => Sys2Proof.Machine.execClearMap r which s
  | .setExport r collector port kinds minSev => Sys2Proof.Machine.execSetExport r collector port kinds minSev s
  | .mctpPacketReceive bus eid dest pecOk som eom type data => Sys2Proof.Machine.execMctpPacketReceive bus eid dest pecOk som eom type data s
  | .busSclTimeout => Sys2Proof.Machine.execBusSclTimeout s
  | .setEndpointId r eid => Sys2Proof.Machine.execSetEndpointId r eid s
  | .getEndpointId r => Sys2Proof.Machine.execGetEndpointId r s
  | .getVersionSupport r type => Sys2Proof.Machine.execGetVersionSupport r type s
  | .getMessageTypeSupport r => Sys2Proof.Machine.execGetMessageTypeSupport r s
  | .getEndpointUuid r => Sys2Proof.Machine.execGetEndpointUuid r s
  | .getVersion r => Sys2Proof.Machine.execGetVersion r s
  | .getCapabilities r => Sys2Proof.Machine.execGetCapabilities r s
  | .negotiateAlgorithms r => Sys2Proof.Machine.execNegotiateAlgorithms r s
  | .getDigests r => Sys2Proof.Machine.execGetDigests r s
  | .getCertificate r slot off len => Sys2Proof.Machine.execGetCertificate r slot off len s
  | .challenge r slot nonce => Sys2Proof.Machine.execChallenge r slot nonce s
  | .getMeasurements r index => Sys2Proof.Machine.execGetMeasurements r index s
  | .keyExchange r owner => Sys2Proof.Machine.execKeyExchange r owner s
  | .finish r ok => Sys2Proof.Machine.execFinish r ok s
  | .endSession r => Sys2Proof.Machine.execEndSession r s
  | .heartbeat r => Sys2Proof.Machine.execHeartbeat r s
  | .getPdr r handle => Sys2Proof.Machine.execGetPdr r handle s
  | .getSensorReading r sensor value => Sys2Proof.Machine.execGetSensorReading r sensor value s
  | .getStateSensorReadings r sensor => Sys2Proof.Machine.execGetStateSensorReadings r sensor s
  | .pldmFirmwareTransfer r off data => Sys2Proof.Machine.execPldmFirmwareTransfer r off data s
  | .verifyComplete r => Sys2Proof.Machine.execVerifyComplete r s
  | .activateFirmware r selfContained => Sys2Proof.Machine.execActivateFirmware r selfContained s
  | .coalesceWindowEnd => Sys2Proof.Machine.execCoalesceWindowEnd s
  | .evrNorCopy => Sys2Proof.Machine.execEvrNorCopy s
  | .evrNorEraseDone => Sys2Proof.Machine.execEvrNorEraseDone s
  | .evrCursorWrite who w => Sys2Proof.Machine.execEvrCursorWrite who w s
  | .evrWindowReady => Sys2Proof.Machine.execEvrWindowReady s
  | .evrWindowAutoRead who => Sys2Proof.Machine.execEvrWindowAutoRead who s
  | .exportDatagramSend => Sys2Proof.Machine.execExportDatagramSend s
  | .exportLostReport => Sys2Proof.Machine.execExportLostReport s
  | .debugNonceExpire => Sys2Proof.Machine.execDebugNonceExpire s
  | .lehrPowerUp => Sys2Proof.Machine.execLehrPowerUp s
  | .siteAlertDeassert => Sys2Proof.Machine.execSiteAlertDeassert s
  | .comparatorWithdraw bit => Sys2Proof.Machine.execComparatorWithdraw bit s
  | .startupRefclkInRange => Sys2Proof.Machine.execStartupRefclkInRange s
  | .pldmBaseRequest r command => Sys2Proof.Machine.execPldmBaseRequest r command s

end Sys2Proof.Machine
end

