-- ==== Sys2Proof/WellFormed.lean ====
section
/-!
DEFINITION. The commands whose operands the manual's fields can hold. A command that fails here names a word, a frame, a
message or a number that nothing outside the module can send; the model gives it a meaning all the same.
-/
namespace Sys2Proof

/-- A frame's fields fit the header, and its payload is 0 to 8,192 bytes in a multiple of 8 (R400, R401). -/
def Frame.wf (f : Frame) : Bool :=
  decide (f.cls < 4) && decide (f.kind < 16) && decide (f.ttl < 256) && decide (f.dfa < 65536) && decide (f.sfa < 65536) &&
  decide (f.lseq < 4096) && decide (f.flow < 65536) && decide (f.payload.length ≤ 8192) && decide (f.payload.length % 8 = 0)

/-- The data of a register write fit its length. -/
def dataOk (len data : Nat) : Bool := decide (data < 256 ^ len)

/-- The instruction can name a hopper (R89). -/
def hopForm : TileOp → Bool
  | .alu _ => true
  | .jr => true
  | .vbcast => true
  | .vmove .ext => true
  | .vmove .ins => true
  | _ => false

/-- An image, or a host table, is fetched in whole words (R455, R473). -/
def bytesOk4 (x : Option (List Byte)) : Bool :=
  match x with
  | none => true
  | some l => decide (l.length % 4 = 0)

/-- A ring entry is sixteen words (R472). -/
def wordsOk (x : Option (List Word)) : Bool :=
  match x with
  | none => true
  | some l => decide (l.length = 16)

/-- The command's operands fit their fields. -/
def Instr.wf : Instr → Bool
  | .registerWrite _ _ len data => dataOk len data
  | .registerReadLo _ _ => true
  | .illegalRegisterRead _ _ _ => true
  | .nop _ => true
  | .add _ => true
  | .sub _ => true
  | .and _ => true
  | .or _ => true
  | .xor _ => true
  | .shl _ => true
  | .shr _ => true
  | .sra _ => true
  | .mul _ => true
  | .min _ => true
  | .max _ => true
  | .scalarImmediate _ _ => true
  | .compareToPredicate _ _ => true
  | .br _ => true
  | .call _ => true
  | .jr _ => true
  | .scalarLoad _ _ => true
  | .scalarStore _ _ => true
  | .vld _ => true
  | .vst _ => true
  | .vectorArithmetic _ _ _ => true
  | .vectorCompare _ _ _ => true
  | .laneMove _ _ => true
  | .broadcast _ => true
  | .vredAdd _ => true
  | .sfuExp _ => true
  | .sfuLog _ => true
  | .sfuRsqrt _ => true
  | .sfuRecip _ => true
  | .trapTake _ => true
  | .syncSig _ => true
  | .syncWait _ => true
  | .syncPoll _ => true
  | .syncArm _ => true
  | .hopSend _ => true
  | .hopStat _ => true
  | .hopRsend _ => true
  | .hopRfree _ => true
  | .hopClose _ => true
  | .hopperOperandRead op _ => decide (hopForm op = true)
  | .millMma _ => true
  | .millDrain _ => true
  | .millSmode _ => true
  | .millQstat _ => true
  | .millFence _ => true
  | .slcIssue _ => true
  | .slcStat _ => true
  | .slcWait _ => true
  | .slcLim _ => true
  | .memFill _ => true
  | .memCopy _ => true
  | .cvtSt _ => true
  | .cvtLd _ => true
  | .cvtBf _ => true
  | .cvtF32 _ => true
  | .sysCsrr _ => true
  | .sysCsrw _ => true
  | .sysStart _ => true
  | .sysResume _ => true
  | .sysStop _ => true
  | .sysTret _ => true
  | .sysExit _ => true
  | .sysHalt _ => true
  | .sysBrk _ => true
  | .queueStallResume _ _ => true
  | .memEngineDone _ => true
  | .millFenceReturn _ _ => true
  | .passStart _ => true
  | .weightLoadStart _ => true
  | .weightSetActive _ => true
  | .passFinish _ => true
  | .drainStart _ => true
  | .drainFinish _ => true
  | .smodeStart _ => true
  | .smodeFinish _ => true
  | .exchangeRelease _ => true
  | .exchangeSetupEnd _ => true
  | .sendPacketIssue _ => true
  | .streamEntryIssue _ => true
  | .packetHop _ => true
  | .dataPacketArrive _ => true
  | .answerPacketArrive _ => true
  | .passPacketArrive _ => true
  | .partPacketArrive _ => true
  | .combiningCreditArrive _ => true
  | .redChunkCombine _ _ => true
  | .exchangePhaseEnd _ => true
  | .packetToFencedTile _ => true
  | .linkUe _ => true
  | .syncSignalApply _ => true
  | .syncArrivalApply _ => true
  | .syncArmApply _ => true
  | .syncCreditApply _ => true
  | .heldEventApply _ => true
  | .waitRelease _ _ => true
  | .barrierArrivalSend _ => true
  | .syncWatchdogExpire _ _ => true
  | .syncDoorbellSignal _ _ _ _ => true
  | .syncDoorbellArrival _ _ _ _ => true
  | .syncDoorbellArm _ _ _ _ => true
  | .hopPacketArrive _ => true
  | .ringPacketArrive _ => true
  | .sluiceRequestIssue _ _ => true
  | .sluiceRequestComplete _ _ _ _ _ => true
  | .slcWaitReturn _ _ => true
  | .sluiceResume _ _ => true
  | .sluiceAbort _ _ => true
  | .sluiceFaultTimeout _ _ => true
  | .slcInvGo _ _ => true
  | .slcInvDone => true
  | .collectiveStart _ _ => true
  | .collectiveFinish _ _ => true
  | .greqFrame _ f => f.wf
  | .gdatFrame _ f => f.wf
  | .collectiveTimeout _ _ => true
  | .rscpFrame _ f => f.wf
  | .rscpChunkCombine _ _ _ _ => true
  | .rsxfFrame _ f => f.wf
  | .rsxDecodeSum _ _ _ => true
  | .permFrame _ f => f.wf
  | .commitQuiesced _ => true
  | .cmtFrameUp _ f => f.wf
  | .cmtFrameDown _ f => f.wf
  | .updatePassDone _ => true
  | .updStepSizeWrite _ _ _ => true
  | .updSeedWrite _ _ _ => true
  | .replayArm _ _ _ => true
  | .replayResume _ _ _ => true
  | .captureEnable _ _ _ => true
  | .portTrainDone _ lanes => decide (lanes ≤ 8)
  | .portRetrainRequest _ _ _ => true
  | .helloTimer _ => true
  | .helloFrame _ f => f.wf
  | .helloTimeout _ => true
  | .frameCrcFail _ lseq _ => decide (lseq < 4096)
  | .linkAck _ lseq => decide (lseq < 4096)
  | .linkNak _ lseq => decide (lseq < 4096)
  | .linkAckTimer _ => true
  | .berWindowExpire _ _ => true
  | .frameForward _ f => f.wf
  | .frameStallTimeout _ => true
  | .flmRtCommit _ _ => true
  | .flumeDataFrame _ f => f.wf
  | .flumeAnswerFrame _ f => f.wf
  | .flumeHopFrame _ f => f.wf
  | .flumeRingFrame _ f => f.wf
  | .flumeSigFrame _ f => f.wf
  | .flumePartFrame _ f => f.wf
  | .timeExchangeTimer _ => true
  | .timeFrame _ f => f.wf
  | .timeHoldoverTimeout => true
  | .syncPpsEdge _ => true
  | .ppsTimeout => true
  | .roceNak _ _ psn => decide (psn < 16777216)
  | .roceCnp _ _ => true
  | .roceRateRecover _ _ => true
  | .twinEnable _ _ => true
  | .digest _ msg => decide (72 ≤ msg.length)
  | .keepalive _ msg => decide (72 ≤ msg.length)
  | .keepaliveTimer => true
  | .twinSilent => true
  | .twinRjGo _ _ => true
  | .twinRjRecv _ _ => true
  | .rjStart _ msg => decide (72 ≤ msg.length)
  | .rjWrite _ _ _ => true
  | .rjDone _ msg => decide (72 ≤ msg.length)
  | .rjAbort _ msg => decide (72 ≤ msg.length)
  | .rejoinTimeout => true
  | .cmdDoorbell _ _ _ => true
  | .cmdFetch _ entry => wordsOk entry
  | .load _ image hosts => bytesOk4 image && bytesOk4 hosts
  | .start _ => true
  | .stop _ => true
  | .preempt _ => true
  | .resume _ => true
  | .unload _ => true
  | .unloadComplete _ => true
  | .preemptQuiesced _ => true
  | .preemptSaveDone _ => true
  | .cmdRingEnable _ _ _ => true
  | .cplRingEnable _ _ _ => true
  | .cplHeadWrite _ _ _ => true
  | .forceStop _ _ => true
  | .forceUnload _ _ => true
  | .vfFlr _ => true
  | .pfFlr => true
  | .vfEnableChange _ _ => true
  | .perstAssert => true
  | .bar2Read _ _ len => decide (0 < len)
  | .bar2Write _ _ data => decide (0 < data.length)
  | .scrubRead _ => true
  | .flipArm _ _ => true
  | .fenceRequest _ _ => true
  | .fenceTimeout => true
  | .supply50vWarn _ => true
  | .supply50vOff _ => true
  | .supply12vWarn _ => true
  | .dieTempThrottle die _ => decide (die < 52)
  | .dieTempPark die _ => decide (die < 52)
  | .thermalTrip die _ => decide (die < 52)
  | .coolantWarn _ => true
  | .coolantPark _ => true
  | .refclkFault => true
  | .siteAlertAssert => true
  | .inputChatterHold _ => true
  | .chatterHoldEnd _ => true
  | .governorTick _ => true
  | .millLend _ => true
  | .millClockGate _ => true
  | .millPowerGate _ => true
  | .millClockRestart _ => true
  | .millLevelStep _ => true
  | .millPllStop _ => true
  | .hostParkRequest _ _ => true
  | .parkBoundExpire _ => true
  | .parkBegin => true
  | .parkComplete => true
  | .hostUnpark _ _ => true
  | .autoUnpark => true
  | .unparkComplete => true
  | .powerUp50v => true
  | .powerLoss50v => true
  | .lehrPowerLoss => true
  | .modRstAssert => true
  | .modRstRelease => true
  | .refclkStartupHold => true
  | .firmwareBoot => true
  | .poisonInitDone => true
  | .loaderReady => true
  | .crystalLost => true
  | .crystalRestored => true
  | .setOwner _ key => decide (key.length = 48)
  | .setMode _ mode => decide (mode < 256)
  | .evrClear _ => true
  | .commitSvn _ v => decide (v < 256)
  | .setImageKey _ _ _ _ => true
  | .setLinkKey _ _ _ _ => true
  | .debugChallenge _ => true
  | .debugUnlock _ _ sig => decide (sig.length = 96)
  | .clearMap _ _ => true
  | .setExport _ _ port _ minSev => decide (port < 65536) && decide (minSev < 16)
  | .mctpPacketReceive _ _ _ _ _ _ type _ => decide (type < 128)
  | .busSclTimeout => true
  | .setEndpointId _ _ => true
  | .getEndpointId _ => true
  | .getVersionSupport _ _ => true
  | .getMessageTypeSupport _ => true
  | .getEndpointUuid _ => true
  | .getVersion _ => true
  | .getCapabilities _ => true
  | .negotiateAlgorithms _ => true
  | .getDigests _ => true
  | .getCertificate _ _ _ _ => true
  | .challenge _ _ _ => true
  | .getMeasurements _ _ => true
  | .keyExchange _ _ => true
  | .finish _ _ => true
  | .endSession _ => true
  | .heartbeat _ => true
  | .getPdr _ _ => true
  | .getSensorReading _ _ _ => true
  | .getStateSensorReadings _ _ => true
  | .pldmFirmwareTransfer _ _ _ => true
  | .verifyComplete _ => true
  | .activateFirmware _ _ => true
  | .coalesceWindowEnd => true
  | .evrNorCopy => true
  | .evrNorEraseDone => true
  | .evrCursorWrite _ _ => true
  | .evrWindowReady => true
  | .evrWindowAutoRead _ => true
  | .exportDatagramSend => true
  | .exportLostReport => true
  | .debugNonceExpire => true
  | .lehrPowerUp => true
  | .siteAlertDeassert => true
  | .comparatorWithdraw _ => true
  | .startupRefclkInRange => true
  | .pldmBaseRequest _ _ => true

end Sys2Proof
end

