-- ==== Sys2Proof/Safety.lean ====
section
/-!
DEFINITION. The terms that statements are made in: words of tile memory that read back without a fault, bundles that issue,
and states that differ in one tile, one mill or one unit only.
-/
namespace Sys2Proof.Machine

/-! ### Memory that reads back -/

/-- Every word of tile memory that holds one of the `n` bytes from `a` up has been written and has no flipped bit, so that a
read neither corrects it nor fails (R495, R504). -/
def Dev.clean (d : Dev) (a n : Nat) : Bool :=
  decide (tileBase ≤ a) && (List.range ((alignUp 8 (a + n) - alignDown 8 a) / 8)).all fun i =>
    (Memory.bytes d.mem 8 (alignDown 8 a + 8 * i)).isSome && decide (d.flipOf (alignDown 8 a + 8 * i) = 0)

/-- The `n` bytes from `a` up. -/
def Dev.bytesAt (d : Dev) (a n : Nat) : List Byte := (List.range n).map fun i => (Memory.byte d.mem (a + i)).getD 0

/-! ### Bundles that issue -/

/-- The bundle at the context's pc lies in its bound and holds the words of the two slots (R71, R86). -/
def Dev.fetches (d : Dev) (t : Nat) (k : HCtx) (a b : Slot) : Bool :=
  let c := d.ctx t k
  let f := ctxAddr t c c.pc.toNat
  inBound c.bound.toNat c.pc.toNat 8 && d.clean f 8 && decide (d.bytesAt f 8 = bundleBytes a b) && spelled a b

/-- The bundle that holds instruction `i` as `op` issues in image context `ic` (R53, R54). -/
def Dev.issues (d : Dev) (op : TileOp) (i : Issue) (ic : Nat) : Bool :=
  decide (d.canIssue i.tile.val i.ctx = some ic) && d.fetches i.tile.val i.ctx (slotsOf op i).1 (slotsOf op i).2

/-- The bundle's other slot holds `nop`. -/
def issueAlone (i : Issue) : Bool := decide (i.mate = { op := .nop, word := 0 })

/-- The context that issues. -/
def Dev.own (d : Dev) (i : Issue) : Ctx := d.ctx i.tile.val i.ctx

/-- The instruction issues alone in its bundle, its word is legal (R64, R86, R89), and bit 0 of its predicate is 1 (R59). -/
def Dev.takes (d : Dev) (op : TileOp) (i : Issue) (ic : Nat) : Bool :=
  d.issues op i ic && issueAlone i && !illegal (d.own i) op i.word i.inB && ((d.own i).preg (predOf i.word)).toNat.testBit 0

/-- The instruction issues alone and its word is legal, and bit 0 of its predicate is 0, so that it has no effect (R59). -/
def Dev.skips (d : Dev) (op : TileOp) (i : Issue) (ic : Nat) : Bool :=
  d.issues op i ic && issueAlone i && !illegal (d.own i) op i.word i.inB && wholePred op && decide (op ≠ .nop) &&
  !((d.own i).preg (predOf i.word)).toNat.testBit 0

/-- The bundle of context `k` has issued: its pc stands at the next bundle (R54), and two free values have been numbered
(log 3). -/
def Dev.advance (d : Dev) (t : Nat) (k : HCtx) : Dev := d.draw.draw.setCtx t k { d.ctx t k with pc := (d.ctx t k).pc + 8 }

/-- The command of an instruction. -/
def tileInstr (op : TileOp) (i : Issue) : Instr :=
  match op with
  | .nop => .nop i
  | .alu .add => .add i
  | .alu .sub => .sub i
  | .alu .and => .and i
  | .alu .or => .or i
  | .alu .xor => .xor i
  | .alu .shl => .shl i
  | .alu .shr => .shr i
  | .alu .sra => .sra i
  | .alu .mul => .mul i
  | .alu .min => .min i
  | .alu .max => .max i
  | .aluImm f => .scalarImmediate f i
  | .cmp c => .compareToPredicate c i
  | .br => .br i
  | .call => .call i
  | .jr => .jr i
  | .load n => .scalarLoad n i
  | .store n => .scalarStore n i
  | .vld => .vld i
  | .vst => .vst i
  | .varith f fmt => .vectorArithmetic f fmt i
  | .vcmp c fmt => .vectorCompare c fmt i
  | .vmove m => .laneMove m i
  | .vbcast => .broadcast i
  | .vred => .vredAdd i
  | .sfu .exp => .sfuExp i
  | .sfu .log => .sfuLog i
  | .sfu .rsqrt => .sfuRsqrt i
  | .sfu .recip => .sfuRecip i
  | .syncSig => .syncSig i
  | .syncWait => .syncWait i
  | .syncPoll => .syncPoll i
  | .syncArm => .syncArm i
  | .hopSend => .hopSend i
  | .hopStat => .hopStat i
  | .hopRsend => .hopRsend i
  | .hopRfree => .hopRfree i
  | .hopClose => .hopClose i
  | .millMma => .millMma i
  | .millDrain => .millDrain i
  | .millSmode => .millSmode i
  | .millQstat => .millQstat i
  | .millFence => .millFence i
  | .slcIssue => .slcIssue i
  | .slcStat => .slcStat i
  | .slcWait => .slcWait i
  | .slcLim => .slcLim i
  | .memFill => .memFill i
  | .memCopy => .memCopy i
  | .cvtSt => .cvtSt i
  | .cvtLd => .cvtLd i
  | .cvtBf => .cvtBf i
  | .cvtF32 => .cvtF32 i
  | .sysCsrr => .sysCsrr i
  | .sysCsrw => .sysCsrw i
  | .sysStart => .sysStart i
  | .sysResume => .sysResume i
  | .sysStop => .sysStop i
  | .sysTret => .sysTret i
  | .sysExit => .sysExit i
  | .sysHalt => .sysHalt i
  | .sysBrk => .sysBrk i

/-- No flip mask waits for the next write (R511). -/
def Dev.unarmed (d : Dev) : Prop := bit (d.reg Reg.ECC_FLIP_SEL) 31 = false

/-- Lane `j` of `w` bits. -/
def laneAt (w : Nat) (v : VReg) (j : Nat) : Nat := fldN v.toNat (w * j) w

/-- The lanes of `w` bits of `new` are `val` where `mask` is 1 and those of `old` elsewhere (R59). -/
def LanesGiven (w : Nat) (mask : DWord) (old new : VReg) (val : Nat → Nat) : Prop :=
  ∀ j, j < 512 / w → laneAt w new j = if mask.toNat.testBit j then val j % 2 ^ w else laneAt w old j

/-! ### What a command leaves as it was -/

/-- Only tile `t` differs, and it is now `tl`: the waiting commands, Skeop, memory, every register and every other unit are as
they were. `freeIx` counts free values and is the model's own (log 3). -/
def OnlyTile (s s' : State) (t : Nat) (tl : Tile) : Prop :=
  s'.pending = s.pending ∧ s'.sk = s.sk ∧ { s'.dev with tiles := s.dev.tiles, freeIx := s.dev.freeIx } = s.dev ∧
  s'.dev.tile t = tl ∧ ∀ j, j ≠ t → s'.dev.tile j = s.dev.tile j

/-- Only the context `k` of tile `t` differs, and it is now `c`. -/
def OnlyCtx (s s' : State) (t : Nat) (k : HCtx) (c : Ctx) : Prop :=
  OnlyTile s s' t { s.dev.tile t with ctx := (s.dev.tile t).ctx.set k c }

/-- Context `k` of tile `t` is now `c`, and the bytes `bs` stand in memory from device address `a` up; every other byte, and all
else but the check state of the words written, is as it was. -/
def Stores (s s' : State) (t : Nat) (k : HCtx) (c : Ctx) (a : Nat) (bs : List Byte) : Prop :=
  s'.pending = s.pending ∧ s'.sk = s.sk ∧
  { s'.dev with
    tiles := s.dev.tiles, freeIx := s.dev.freeIx, mem := s.dev.mem, ecc := { s'.dev.ecc with flips := s.dev.ecc.flips } } = s.dev ∧
  s'.dev.tile t = { s.dev.tile t with ctx := (s.dev.tile t).ctx.set k c } ∧ (∀ j, j ≠ t → s'.dev.tile j = s.dev.tile j) ∧
  ∀ x, Memory.byte s'.dev.mem x = if a ≤ x ∧ x < a + bs.length then bs[x - a]? else Memory.byte s.dev.mem x

/-- `d'` differs from `d` at most in what recording an event writes: the recorder's stores, its two counters, the Lehr buffer,
and what is announced to the outside (R537, R588 to R591). -/
def Dev.Records (d d' : Dev) : Prop :=
  { d' with evr := d.evr, out := d.out, regs := d.regs, lehr := d.lehr } = d ∧
  { d'.lehr with buffer := d.lehr.buffer, bufLost := d.lehr.bufLost } = d.lehr ∧
  ∀ o, o ≠ Reg.EVR_LOST → o ≠ Reg.EVR_COALESCED → d'.reg o = d.reg o

/-- `d'` differs from `d` at most in what logging a violation writes: the three registers of the block's capture at `base`
(R522), and what recording its event writes. -/
def Dev.Logs (d d' : Dev) (base : Nat) : Prop :=
  { d' with evr := d.evr, out := d.out, regs := d.regs, lehr := d.lehr } = d ∧
  { d'.lehr with buffer := d.lehr.buffer, bufLost := d.lehr.bufLost } = d.lehr ∧
  ∀ o, o ≠ Reg.EVR_LOST → o ≠ Reg.EVR_COALESCED → o ≠ base → o ≠ base + 4 → o ≠ base + 8 → d'.reg o = d.reg o

/-! ### Management requests -/

/-- Skeop runs and the request comes from no VF, so that Skeop reads it (R572). -/
def Serves (s : State) (r : MgmtReq) : Prop := s.dev.skeopRuns = true ∧ r.bus ≠ .pcieVf

/-- The owner asks, in a session of its own, and no other authorised command runs (R578, R579). -/
def OwnerAsks (s : State) (r : MgmtReq) : Prop := Serves s r ∧ s.sk.byOwner r = true ∧ r.busy = false

/-- What holds of Skeop in every state that a run reaches: debug has three levels, and at INVASIVE the kind D keys are off (R602,
R604); at most four sessions are open, each under its own number below four, and none is the owner's while no owner is set (R575,
R577); key slots are the numbered ones (R578, R601); the boot ROM's recovery service runs in RECOVERY only, and SVNs go up to
64 (R569, R570). -/
def Skeop.sound (k : Skeop) : Prop :=
  k.debug ≤ 2 ∧ (k.debug = 2 → k.imgDOff = true) ∧
  k.sessions.length ≤ 4 ∧ (k.sessions.map (·.id)).Nodup ∧ (∀ x ∈ k.sessions, x.id < 4 ∧ (x.owner = true → k.owner.isSome = true)) ∧
  (∀ e ∈ k.imgV ++ k.imgD, e.1 < 4) ∧ (∀ e ∈ k.linkKeys, e.1 < 36) ∧ (k.rom = true → k.mode = .recovery) ∧
  k.svnRun ≤ 64 ∧ k.fusedSvn ≤ 64

/-! ### Instructions by family -/

/-- What R93's scalar operations give: the result `r` of `x` and `y`. A shift by 32 or more, and whether `min` and `max` compare
signed or unsigned numbers, are given nowhere, so there any value, and either comparison, may be (log 37). -/
def AluGives (f : AluOp) (x y r : Word) : Prop :=
  match f with
  | .add => r = x + y
  | .sub => r = x - y
  | .and => r = x &&& y
  | .or => r = x ||| y
  | .xor => r = x ^^^ y
  | .shl => y.toNat < 32 → r = x <<< y.toNat
  | .shr => y.toNat < 32 → r = x >>> y.toNat
  | .sra => y.toNat < 32 → r = x.sshiftRight y.toNat
  | .mul => r = x * y
  | .min => r = (if x.toInt ≤ y.toInt then x else y) ∨ r = (if x.toNat ≤ y.toNat then x else y)
  | .max => r = (if x.toInt ≤ y.toInt then y else x) ∨ r = (if x.toNat ≤ y.toNat then y else x)

end Sys2Proof.Machine
end

