-- ==== Sys2Proof/Certificates/Slice0/Obligations.lean ====
section
/-!
DEFINITION. The statements about the Valvan that are to be proved.
-/
open Sys2Proof Sys2Proof.Machine


/-! ### Tile: scalar instructions and branches (R86 to R93) -/

/-- R93: an R-form scalar instruction on registers writes `rd`, moves the pc to the next bundle, and changes nothing else. What the
manual leaves open of shifts, `min` and `max` is in `AluGives` (log 37). -/
def Obligations.ScalarRegisterResult : Prop :=
  ∀ (f : AluOp) (i : Issue) (ic : Nat) (s : State), s.dev.takes (.alu f) i ic = true → hopReads (.alu f) i.word = [] →
    let c := s.dev.own i
    ∃ r s', AluGives f (c.sreg (f2 i.word)) (c.sreg (f3 i.word)) r ∧ exec (tileInstr (.alu f) i) s = .next s' ∧
      OnlyCtx s s' i.tile.val i.ctx { c.setS (f1 i.word) r with pc := c.pc + 8 }

/-- R59, R87, R93: the I form takes IMM13, sign-extended, as its second operand; a compare writes 1 to bit 0 of its predicate and 0 to
bits 1 to 63 where it holds, else 0 to all. The conditions are presumed (log 10). Nothing else changes but the pc. -/
def Obligations.ScalarImmediateResult : Prop :=
  ∀ (i : Issue) (ic : Nat) (s : State),
    let c := s.dev.own i
    let imm := BitVec.ofInt 32 (signed (fld i.word 0 13) 13)
    (∀ f, s.dev.takes (.aluImm f) i ic = true → ∃ r s', AluGives f (c.sreg (f2 i.word)) imm r ∧
      exec (.scalarImmediate f i) s = .next s' ∧ OnlyCtx s s' i.tile.val i.ctx { c.setS (f1 i.word) r with pc := c.pc + 8 }) ∧
    (∀ q, s.dev.takes (.cmp q) i ic = true → ∃ s', exec (.compareToPredicate q i) s = .next s' ∧
      OnlyCtx s s' i.tile.val i.ctx
        { c.setP (f1 i.word) (if cmpHolds q (c.sreg (f2 i.word)) imm then 1 else 0) with pc := c.pc + 8 })

/-- R93: `br` adds 8 * OFF to the pc, `call` does so and leaves the address of the next bundle in s31, `jr` goes to `ra`, and to a
target that is no multiple of 8 it traps with ALIGN, which leaves the pc at the `jr` (R60). -/
def Obligations.BranchResult : Prop :=
  ∀ (i : Issue) (ic : Nat) (s : State),
    let c := s.dev.own i
    let w := i.word
    let dest := c.pc + BitVec.ofInt 23 (8 * signed (fld w 0 23) 23)
    (s.dev.takes .br i ic = true → ∃ s', exec (.br i) s = .next s' ∧ OnlyCtx s s' i.tile.val i.ctx { c with pc := dest }) ∧
    (s.dev.takes .call i ic = true → ∃ s', exec (.call i) s = .next s' ∧
      OnlyCtx s s' i.tile.val i.ctx { c.setS 31 ((c.pc + 8).setWidth 32) with pc := dest }) ∧
    (s.dev.takes .jr i ic = true → hopA w = false →
      ((c.sreg (f2 w)).toNat % 8 = 0 → ∃ s', exec (.jr i) s = .next s' ∧
        OnlyCtx s s' i.tile.val i.ctx { c with pc := (c.sreg (f2 w)).setWidth 23 }) ∧
      ((c.sreg (f2 w)).toNat % 8 ≠ 0 → exec (.jr i) s = .next { s with
        dev := s.dev.draw.draw.raiseTrap i.tile.val i.ctx false w (.align (c.sreg (f2 w)).toNat) }))

/-- R90, R91: an instruction with a hopper operand is issued as it is without; a scalar operation reads the low half of the oldest
entry of hopper `ra` first, which stays, and then the high half, which frees the entry and returns its credit to the sender; an
empty hopper traps with HOP_EMPTY and nothing is consumed. -/
def Obligations.HopperOperandResult : Prop :=
  ∀ (i : Issue) (ic : Nat) (s : State),
    let c := s.dev.own i
    let w := i.word
    let t := i.tile.val
    let h : Fin 8 := Fin.ofNat 8 (f2 w)
    let q := (s.dev.tile t).hop[h]
    (∀ op, hopReads op w ≠ [] → exec (.hopperOperandRead op i) s = exec (tileInstr op i) s) ∧
    (∀ f, s.dev.takes (.alu f) i ic = true → hopA w = true → hopB w = false →
      (∀ e rest, q.entries = e :: rest → e.half = false → ∃ r s',
        AluGives f (e.data.extractLsb' 0 32) (c.sreg (f3 w)) r ∧ exec (.hopperOperandRead (.alu f) i) s = .next s' ∧
        OnlyTile s s' t { s.dev.tile t with
          ctx := (s.dev.tile t).ctx.set i.ctx { c.setS (f1 w) r with pc := c.pc + 8 }
          hop := (s.dev.tile t).hop.set h { q with entries := { e with half := true } :: rest } }) ∧
      (∀ e rest, q.entries = e :: rest → e.half = true → ∃ r, AluGives f (e.data.extractLsb' 32 32) (c.sreg (f3 w)) r ∧
        let popped := { s.dev.tile t with hop := (s.dev.tile t).hop.set h { q with entries := rest } }
        let d := (s.dev.draw.draw.setTile t popped).answerSender ic t e.remote e.src .hop sOk (f2 w)
        exec (.hopperOperandRead (.alu f) i) s = .next { s with
          dev := (d.setCtx t i.ctx { d.ctx t i.ctx with pc := c.pc + 8 }).putS t i.ctx (f1 w) r }) ∧
      (q.entries = [] → exec (.hopperOperandRead (.alu f) i) s = .next { s with
        dev := s.dev.draw.draw.raiseTrap t i.ctx false w (.hopEmpty (f2 w)) }))

/-! ### Tile: memory (R66 to R80) -/

/-- R71, R74, R75: an aligned access of written memory inside the bound loads the bytes at base + address, or stores the register's
low bytes there; a misaligned one traps with ALIGN, and one outside the bound with BOUND at the lowest byte outside. The upper bits
that a load of 1 or 2 bytes leaves in its register are given nowhere (log 37). -/
def Obligations.LoadStoreResult : Prop :=
  ∀ (i : Issue) (ic : Nat) (s : State),
    let c := s.dev.own i
    let w := i.word
    let t := i.tile.val
    let fits := fun (n : Nat) => mAddr c w n % n = 0 ∧ mAddr c w n + n ≤ c.bound.toNat
    (∀ n, s.dev.takes (.load n) i ic = true → fits (sizeOf' n) →
      let a := ctxAddr t c (mAddr c w (sizeOf' n))
      s.dev.clean a (sizeOf' n) = true → ∃ v s', fld v 0 (8 * sizeOf' n) = leNat (s.dev.bytesAt a (sizeOf' n)) ∧
        exec (.scalarLoad n i) s = .next s' ∧ OnlyCtx s s' t i.ctx { c.setS (f1 w) v with pc := c.pc + 8 }) ∧
    (∀ n, s.dev.takes (.store n) i ic = true → fits (sizeOf' n) →
      let a := ctxAddr t c (mAddr c w (sizeOf' n))
      s.dev.clean a (sizeOf' n) = true → s.dev.unarmed → ∃ s', exec (.scalarStore n i) s = .next s' ∧
        Stores s s' t i.ctx { c with pc := c.pc + 8 } a (bytesOf (sizeOf' n) (c.sreg (f1 w)).toNat)) ∧
    (s.dev.takes .vld i ic = true → fits 64 →
      let a := ctxAddr t c (mAddr c w 64)
      s.dev.clean a 64 = true → ∃ s', exec (.vld i) s = .next s' ∧
        OnlyCtx s s' t i.ctx { c.setV (f1 w) (BitVec.ofNat 512 (leNat (s.dev.bytesAt a 64))) with pc := c.pc + 8 }) ∧
    (s.dev.takes .vst i ic = true → fits 64 → c.base.toNat % 64 = 0 → s.dev.unarmed → ∃ s', exec (.vst i) s = .next s' ∧
      Stores s s' t i.ctx { c with pc := c.pc + 8 } (ctxAddr t c (mAddr c w 64)) (bytesOf 64 (c.vreg (f1 w)).toNat)) ∧
    (∀ op n, (op, n) ∈ [(TileOp.load .b1, 1), (.load .b2, 2), (.load .b4, 4), (.store .b1, 1), (.store .b2, 2), (.store .b4, 4),
        (.vld, 64), (.vst, 64)] → s.dev.takes op i ic = true →
      let a := mAddr c w n
      let traps := fun tr => exec (tileInstr op i) s = .next { s with dev := s.dev.draw.draw.raiseTrap t i.ctx true w tr }
      (a % n ≠ 0 → traps (.align a)) ∧ (a % n = 0 → c.bound.toNat < a + n → traps (.bound (max a c.bound.toNat))))

/-- R76 to R80: `mem.fill` and `mem.copy` on legal operands hand one operation to the engine, which holds the context at its bundle;
a length of 0 traps with MEM_OP. The end of an operation frees the engine, leaves the destination with the pattern or with what the
source held, every other byte as it was, and moves the pc on. -/
def Obligations.MemoryEngine : Prop :=
  ∀ (i : Issue) (ic : Nat) (s : State),
    let c := s.dev.own i
    let w := i.word
    let t := i.tile.val
    let x := (c.sreg (f1 w)).toNat
    let y := (c.sreg (f2 w)).toNat
    let z := (c.sreg (f3 w)).toNat
    let nop : Slot := { op := .nop, word := 0 }
    let starts := fun (o : MemOp) => { s.dev.tile t with
      memEng := some o, ctx := (s.dev.tile t).ctx.set i.ctx { c with hold := some (.mem nop) } }
    (s.dev.takes .memFill i ic = true → (s.dev.tile t).memEng = none →
      (0 < y → x % 8 = 0 → y % 8 = 0 → x + y ≤ c.bound.toNat → ∃ s', exec (.memFill i) s = .next s' ∧ OnlyTile s s' t
        (starts { ctx := i.ctx.val, word := w, copy := false, dst := x, src := 0, len := y, pattern := c.sreg (f3 w) })) ∧
      (y = 0 → exec (.memFill i) s = .next { s with
        dev := s.dev.draw.draw.raiseTrap t i.ctx true w (.memOp sLen none) })) ∧
    (s.dev.takes .memCopy i ic = true → (s.dev.tile t).memEng = none →
      0 < z → x % 8 = 0 → y % 8 = 0 → z % 8 = 0 → x + z ≤ c.bound.toNat → y + z ≤ c.bound.toNat →
      ∃ s', exec (.memCopy i) s = .next s' ∧ OnlyTile s s' t
        (starts { ctx := i.ctx.val, word := w, copy := true, dst := x, src := y, len := z, pattern := c.sreg (f3 w) })) ∧
    (∀ o, (s.dev.tile t).memEng = some o → o.ctx = i.ctx.val → c.hold = some (.mem nop) → c.run = .run →
      s.dev.tileCtx t = some ic → (s.dev.img ic).wait ≠ .saving → o.len % 8 = 0 → s.dev.unarmed →
      (o.copy = true → ctxAddr t c o.src % 8 = 0 ∧ s.dev.clean (ctxAddr t c o.src) o.len = true) → ∃ s',
        exec (.memEngineDone i.tile) s = .next s' ∧ s'.sk = s.sk ∧ s'.pending = s.pending ∧
        s'.dev.tile t = { s.dev.tile t with
          memEng := none, ctx := (s.dev.tile t).ctx.set i.ctx { c with pc := c.pc + 8, hold := none } } ∧
        ∀ b, Memory.byte s'.dev.mem b =
          if ctxAddr t c o.dst ≤ b ∧ b < ctxAddr t c o.dst + o.len then
            let j := b - ctxAddr t c o.dst
            if o.copy then Memory.byte s.dev.mem (ctxAddr t c o.src + j)
            else some (BitVec.ofNat 8 (o.pattern.toNat / 2 ^ (8 * (j % 4))))
          else Memory.byte s.dev.mem b)

/-! ### Tile: vector and conversion instructions (R81 to R85, R95, R96, R172 to R176) -/

/-- R59, R81 to R84: vector instructions write, lane by lane where the predicate is 1, the lane operation's result; a lane that is not
enabled, and every other register, stays. Narrow formats count the saturations of enabled lanes (R176). The lane operations and
conditions are presumed (log 10). -/
def Obligations.VectorResult : Prop :=
  ∀ (i : Issue) (ic : Nat) (s : State),
    let c := s.dev.own i
    let w := i.word
    let t := i.tile.val
    let m := c.preg (predOf w)
    let a := c.vreg (f2 w)
    let b := c.vreg (f3 w)
    let old := c.vreg (f1 w)
    (∀ f fmt, s.dev.issues (.varith f fmt) i ic = true → issueAlone i = true →
      illegal c (.varith f fmt) w i.inB = false → ∃ v s1 s2,
        LanesGiven (laneWidth fmt) m old v (fun j =>
          (laneArith f fmt (laneAt (laneWidth fmt) a j) (laneAt (laneWidth fmt) b j) (laneAt (laneWidth fmt) old j)).code) ∧
        OnlyCtx s s1 t i.ctx { c.setV (f1 w) v with pc := c.pc + 8 } ∧ exec (.vectorArithmetic f fmt i) s = .next s2 ∧
        (fmt = .f32 ∨ fmt = .i8 → s2 = s1) ∧
        (fmt ≠ .f32 → fmt ≠ .i8 → s2 = onDev (fun d => d.tileTally t (enabledTally m (varith f fmt a b old)).2) s1)) ∧
    (∀ q fmt, s.dev.issues (.vcmp q fmt) i ic = true → issueAlone i = true → illegal c (.vcmp q fmt) w i.inB = false → ∃ p s',
      (∀ j, p.getLsbD j = (decide (j < 512 / laneWidth fmt) &&
        if m.getLsbD j then laneCmp q fmt (laneAt (laneWidth fmt) a j) (laneAt (laneWidth fmt) b j)
        else (c.preg (f1 w)).getLsbD j)) ∧
      exec (.vectorCompare q fmt i) s = .next s' ∧ OnlyCtx s s' t i.ctx { c.setP (f1 w) p with pc := c.pc + 8 }) ∧
    (s.dev.issues (.vmove .mov) i ic = true → issueAlone i = true → illegal c (.vmove .mov) w i.inB = false → ∃ v s',
      LanesGiven 32 m old v (laneAt 32 a) ∧
      exec (.laneMove .mov i) s = .next s' ∧ OnlyCtx s s' t i.ctx { c.setV (f1 w) v with pc := c.pc + 8 }) ∧
    (s.dev.takes (.vmove .ext) i ic = true → hopReads (.vmove .ext) w = [] → ∃ s', exec (.laneMove .ext i) s = .next s' ∧
      OnlyCtx s s' t i.ctx
        { c.setS (f1 w) (BitVec.ofNat 32 (laneAt 32 a ((c.sreg (f3 w)).toNat % 16))) with pc := c.pc + 8 }) ∧
    (s.dev.issues (.vmove .ins) i ic = true → issueAlone i = true → illegal c (.vmove .ins) w i.inB = false →
      hopReads (.vmove .ins) w = [] → ∃ v s',
      LanesGiven 32 m old v (fun j => if j = (c.sreg (f3 w)).toNat % 16 then (c.sreg (f2 w)).toNat else laneAt 32 old j) ∧
      exec (.laneMove .ins i) s = .next s' ∧ OnlyCtx s s' t i.ctx { c.setV (f1 w) v with pc := c.pc + 8 }) ∧
    (s.dev.issues .vbcast i ic = true → issueAlone i = true → illegal c .vbcast w i.inB = false → hopReads .vbcast w = [] →
      ∃ v s', LanesGiven 32 m old v (fun _ => (c.sreg (f2 w)).toNat) ∧
      exec (.broadcast i) s = .next s' ∧ OnlyCtx s s' t i.ctx { c.setV (f1 w) v with pc := c.pc + 8 }) ∧
    (s.dev.takes .vred i ic = true → ∃ v s',
      (let x := fun j => BitVec.ofNat 32 (laneAt 32 a j)
       let p2 := fun j => f32Add (x (2 * j)) (x (2 * j + 1))
       let p4 := fun j => f32Add (p2 (2 * j)) (p2 (2 * j + 1))
       let p8 := fun j => f32Add (p4 (2 * j)) (p4 (2 * j + 1))
       laneAt 32 v 0 = (f32Add (p8 0) (p8 1)).toNat) ∧ (∀ j, 1 ≤ j → j < 16 → laneAt 32 v j = 0) ∧
      exec (.vredAdd i) s = .next s' ∧ OnlyCtx s s' t i.ctx { c.setV (f1 w) v with pc := c.pc + 8 }) ∧
    (∀ f, s.dev.issues (.sfu f) i ic = true → issueAlone i = true → illegal c (.sfu f) w i.inB = false → ∃ v s',
      LanesGiven 32 m old v (fun j => (sfuWord f (BitVec.ofNat 32 (laneAt 32 a j))).toNat) ∧
      exec (tileInstr (.sfu f) i) s = .next s' ∧ OnlyCtx s s' t i.ctx { c.setV (f1 w) v with pc := c.pc + 8 })

/-- R95, R96, R172 to R176: `cvt.st` stores a block and its scale and steps TILE_CVT_SPTR; `cvt.ld` fills its register group from a
block and its scale; `cvt.bf` and `cvt.f32` convert 32 lanes, where the predicate is 1. Conversions count in the tile's counters and
the guarded tensor's. -/
def Obligations.ConversionResult : Prop :=
  ∀ (i : Issue) (ic : Nat) (s : State),
    let c := s.dev.own i
    let w := i.word
    let t := i.tile.val
    let m := c.preg (predOf w)
    let y := (c.sreg (f2 w)).toNat
    let z := (c.sreg (f3 w)).toNat
    let n := cvtBytes c.cvtCfg
    (s.dev.takes .cvtSt i ic = true → y % min n 64 = 0 → y + n ≤ c.bound.toNat → c.cvtSptr.toNat + 1 ≤ c.bound.toNat →
      s.dev.clean (ctxAddr t c y) n = true → s.dev.clean (ctxAddr t c c.cvtSptr.toNat) 1 = true → s.dev.unarmed →
      let st := cvtStore c (s.dev.stepSeed ic) (f1 w) z (modD w)
      ∃ s1 s2, Stores s s1 t i.ctx { c with pc := c.pc + 8 } (ctxAddr t c y) st.1 ∧
        Stores s1 s2 t i.ctx { c with pc := c.pc + 8 } (ctxAddr t c c.cvtSptr.toNat) [BitVec.ofNat 8 st.2.1] ∧
        exec (.cvtSt i) s = .next (onDev (fun d => d.setCtx t i.ctx { d.ctx t i.ctx with cvtSptr := c.cvtSptr + 1 })
          (onDev (fun d => (d.tileTally t st.2.2).guardTally ic c.cvtTid t (cvtBlock c.cvtCfg) st.2.2) s2))) ∧
    (s.dev.takes .cvtLd i ic = true → y % min n 64 = 0 → y + n ≤ c.bound.toNat → z + 1 ≤ c.bound.toNat →
      s.dev.clean (ctxAddr t c y) n = true → s.dev.clean (ctxAddr t c z) 1 = true →
      let ld := cvtLoad c.cvtCfg (s.dev.bytesAt (ctxAddr t c y) n) ((s.dev.bytesAt (ctxAddr t c z) 1).getD 0 0).toNat
      ∃ (c' : Ctx) (s1 : State), (∀ k j, k < groupSize c.cvtCfg → j < 16 → laneAt 32 (c'.vreg (f1 w + k)) j = ld.1.getD (16 * k + j) 0 % 2 ^ 32) ∧
        (∀ r, r < 32 → r < f1 w ∨ f1 w + groupSize c.cvtCfg ≤ r → c'.vreg r = c.vreg r) ∧ { c' with v := c.v } = c ∧
        OnlyCtx s s1 t i.ctx { c with pc := c.pc + 8 } ∧
        exec (.cvtLd i) s = .next (onDev (fun d => (d.tileTally t ld.2).setCtx t i.ctx { c' with pc := c.pc + 8 }) s1)) ∧
    (s.dev.issues .cvtBf i ic = true → issueAlone i = true → illegal c .cvtBf w i.inB = false →
      let cs := cvtNarrow c (s.dev.stepSeed ic) (f2 w) z (modD w)
      ∃ v s1, LanesGiven 16 m (c.vreg (f1 w)) v (fun j => (cs.map (·.code)).getD j 0) ∧
        OnlyCtx s s1 t i.ctx { c.setV (f1 w) v with pc := c.pc + 8 } ∧
        exec (.cvtBf i) s = .next (onDev (fun d => (d.tileTally t (enabledTally m cs).2).guardTally ic c.cvtTid t
          (enabledTally m cs).1 (enabledTally m cs).2) s1)) ∧
    (s.dev.issues .cvtF32 i ic = true → issueAlone i = true → illegal c .cvtF32 w i.inB = false → ∃ v v' s',
      LanesGiven 32 m (c.vreg (f1 w)) v (fun j => widenBf16 (laneAt 16 (c.vreg (f2 w)) j)) ∧
      LanesGiven 32 (BitVec.ofNat 64 (m.toNat / 2 ^ 16)) (c.vreg (f1 w + 1)) v' (fun j =>
        widenBf16 (laneAt 16 (c.vreg (f2 w)) (16 + j))) ∧
      exec (.cvtF32 i) s = .next s' ∧ OnlyCtx s s' t i.ctx { (c.setV (f1 w) v).setV (f1 w + 1) v' with pc := c.pc + 8 })

/-! ### Tile: instructions on queues and objects (R94) -/

/-- R230, R234, R240 to R242, R251 to R253: `sync.sig` sends a signal to an object it may reach, `sync.wait` an arrival, and its context
enters WAIT (with virtual ID 0 the arrival is held while a Sluice queue of the tile is not quiet, R302), `sync.poll` reads phase
and state, `sync.arm` re-arms a broken shared object; each refusal is logged, and its code goes to rc. Without credit at the tile,
which is the part's to say (log 19), `sync.sig`, `sync.wait` and `sync.arm` stall with no effect. -/
def Obligations.SyncInstructions : Prop :=
  ∀ (i : Issue) (ic phys : Nat) (s : State),
    let c := s.dev.own i
    let w := i.word
    let t := i.tile.val
    let vid := (c.sreg (f1 w)).toNat
    let d := s.dev.advance t i.ctx
    let evt := fun kind bytes waiter => ({ kind := kind, phys := phys, bytes := bytes, tile := some t, waiter := waiter, ictx := ic, vid := vid } : SyncEvt)
    (s.dev.takes .syncSig i ic = true → s.dev.syncCredit t = true →
      (s.dev.signalStatus ic t vid = (sOk, phys) →
        exec (.syncSig i) s = .next { s with dev := d.postSync (evt .signal (c.sreg (f2 w)).toNat none) }) ∧
      (∀ st, st ≠ sOk → s.dev.signalStatus ic t vid = (st, phys) →
        exec (.syncSig i) s = .next { s with dev := d.syncRefuse vid phys (some t) ic 0 st true })) ∧
    (s.dev.takes .syncWait i ic = true → s.dev.syncCredit t = true →
      let n := (s.dev.tile t).waitNum
      let e := evt .arrival 0 (some (i.ctx.val, n))
      let waits : Ctx := { c with
        pc := c.pc + 8, run := .wait
        wait := some { id := n, phys := phys, vid := vid, rc := f3 w, since := s.dev.cycle, reported := false, fired := none } }
      (s.dev.arriveStatus ic t vid = (sOk, phys) → (s.dev.obj phys).state ≠ .broken → vid ≠ 0 ∨ s.dev.queuesQuiet t = true →
        exec (.syncWait i) s = .next { s with dev := (d.setTile t { s.dev.tile t with
          waitNum := n + 1, ctx := (s.dev.tile t).ctx.set i.ctx waits }).postSync e }) ∧
      (s.dev.arriveStatus ic t vid = (sOk, phys) → (s.dev.obj phys).state ≠ .broken → vid = 0 → s.dev.queuesQuiet t = false →
        exec (.syncWait i) s = .next { s with dev := d.setTile t { s.dev.tile t with
          waitNum := n + 1, heldArr := (s.dev.tile t).heldArr ++ [e], ctx := (s.dev.tile t).ctx.set i.ctx waits } }) ∧
      (s.dev.arriveStatus ic t vid = (sOk, phys) → (s.dev.obj phys).state = .broken → exec (.syncWait i) s = .next { s with
        dev := (d.syncRefuse vid phys (some t) ic 0 sBroken true).putS t i.ctx (f3 w) 8 }) ∧
      (∀ st, st ≠ sOk → s.dev.arriveStatus ic t vid = (st, phys) → exec (.syncWait i) s = .next { s with
        dev := (d.syncRefuse vid phys (some t) ic 0 st true).putS t i.ctx (f3 w) (BitVec.ofNat 32 st) })) ∧
    (s.dev.takes .syncPoll i ic = true →
      (s.dev.arriveStatus ic t vid = (sOk, phys) → ∃ v s', fld v 0 16 = (s.dev.obj phys).state.code ∧
        fld v 16 16 = (s.dev.obj phys).phase % 2 ^ 16 ∧ exec (.syncPoll i) s = .next s' ∧
        OnlyCtx s s' t i.ctx { c.setS (f3 w) v with pc := c.pc + 8 }) ∧
      (∀ st, st ≠ sOk → s.dev.arriveStatus ic t vid = (st, phys) → exec (.syncPoll i) s = .next { s with
        dev := (d.syncRefuse vid phys (some t) ic 0 st false).putS t i.ctx (f3 w) 0xFFFFFFFF })) ∧
    (∀ op, op ∈ [TileOp.syncSig, .syncWait, .syncArm] → s.dev.takes op i ic = true → s.dev.syncCredit t = false → ∃ s',
      exec (tileInstr op i) s = .next s' ∧
      OnlyCtx s s' t i.ctx { c with hold := some (.full { op := op, word := w } { op := .nop, word := 0 } none) }) ∧
    (s.dev.takes .syncArm i ic = true → s.dev.syncCredit t = true →
      (s.dev.armStatus ic vid = (sOk, phys) →
        exec (.syncArm i) s = .next { s with dev := (d.putS t i.ctx (f3 w) 0).postSync (evt .arm 0 none) }) ∧
      (∀ st, st ≠ sOk → s.dev.armStatus ic vid = (st, phys) → exec (.syncArm i) s = .next { s with
        dev := (d.putS t i.ctx (f3 w) (BitVec.ofNat 32 st)).syncRefuse vid phys (some t) ic 6 st true }))

/-- R92, R257 to R271: `hop.send` on an open channel takes a credit and sends 64 bits; without one it stalls with no effect;
`hop.stat` gives each hopper's depth in four bits; `hop.rsend` takes ring space and sends a record; `hop.rfree` frees ring bytes and
returns them to the sender; `hop.close` closes a hopper, or a ring, and discards what it holds. -/
def Obligations.HopperInstructions : Prop :=
  ∀ (i : Issue) (ic : Nat) (s : State),
    let c := s.dev.own i
    let w := i.word
    let t := i.tile.val
    let x := (c.sreg (f1 w)).toNat
    let y := (c.sreg (f2 w)).toNat
    let z := (c.sreg (f3 w)).toNat
    let d := s.dev.advance t i.ctx
    (s.dev.takes .hopSend i ic = true → ∀ ch, s.dev.channel ic t x false = some ch →
      let p := { packet .hop ic t 0 with id := ch.num, ref := ch.num, chunk := x, payload := bytesOf 4 y ++ bytesOf 4 z }
      let sent := { ch with credit := ch.credit - 1, msgs := sat 0xFFFFFFFF (ch.msgs + 1) }
      (ch.state = .opened → 0 < ch.credit →
        exec (.hopSend i) s = .next { s with dev := (d.putChan t x sent).sendChan t ch p 4 }) ∧
      (ch.state = .opened → ch.credit = 0 → ∃ s', exec (.hopSend i) s = .next s' ∧
        OnlyCtx s s' t i.ctx { c with hold := some (.stall { op := .nop, word := 0 } { op := .hopSend, word := w } s.dev.cycle) }) ∧
      (ch.state ≠ .opened → exec (.hopSend i) s = .next { s with
        dev := d.putChan t x { ch with drop := sat 0xFFFFFFFF (ch.drop + 1) } })) ∧
    (s.dev.takes .hopStat i ic = true → ∃ v s', (∀ h : Fin 8, fld v (4 * h.val) 4 = min (s.dev.tile t).hop[h].entries.length 15) ∧
      exec (.hopStat i) s = .next s' ∧ OnlyCtx s s' t i.ctx { c.setS (f3 w) v with pc := c.pc + 8 }) ∧
    (s.dev.takes .hopRsend i ic = true → ∀ ch, s.dev.channel ic t x true = some ch → ch.state = .opened → ringLenOk ch z = true →
      recordSize z ≤ chanTail ch → recordSize z ≤ chanFree ch → y + z ≤ c.bound.toNat → s.dev.clean (ctxAddr t c y) z = true →
      let n := recordSize z
      let sent := { ch with wr := ch.wr + n, seq := (ch.seq + 1) % 2 ^ 32, msgs := sat 0xFFFFFFFF (ch.msgs + 1) }
      let record := ringHeader ch.seq ((s.dev.logical t).getD 0) false z ++ s.dev.bytesAt (ctxAddr t c y) z ++
        List.replicate (n - 8 - z) 0
      exec (.hopRsend i) s = .next { s with
        dev := (d.putChan t x sent).sendRing ic t x ch false (n / 256 + 1) (ch.wr % ch.size) record }) ∧
    (s.dev.takes .hopRfree i ic = true → x < 4 → ∀ r, Tab.find (s.dev.tile t).rings x = some r → y % 8 = 0 → 0 < y →
      y ≤ r.wr - r.freed →
      let r' := { r with freed := r.freed + y, records := dropRecords r.records y }
      let d' := (d.setTile t { d.tile t with rings := Tab.put (s.dev.tile t).rings x r' }).putRingCtrl t r'
      exec (.hopRfree i) s = .next { s with dev := d'.answerSender ic t r.remote r.src .ring sOk (ringRef x y) }) ∧
    (s.dev.takes .hopClose i ic = true → modD w < 8 →
      let h : Fin 8 := Fin.ofNat 8 (modD w)
      let q := (s.dev.tile t).hop[h]
      (q.closed = true → ∃ s', exec (.hopClose i) s = .next s' ∧ OnlyCtx s s' t i.ctx { c with pc := c.pc + 8 }) ∧
      (q.closed = false →
        let d' := d.setTile t { d.tile t with hop := (s.dev.tile t).hop.set h { entries := [], closed := true } }
        exec (.hopClose i) s = .next { s with
          dev := (d'.count Reg.HOP_DISCARD q.entries.length).event 0x4004 t h.val q.entries.length 0 })) ∧
    (s.dev.takes .hopClose i ic = true → 8 ≤ modD w →
      exec (.hopClose i) s = .next { s with dev := d.closeRing t (modD w - 8) 0 false })

/-- R105 to R110: a mill command that passes its entry checks joins the end of the mill's queue; a queue in FAULT discards it, and
a full queue, in FAULT or not, stalls its context with no effect. `mill.qstat` gives the free entries. `mill.fence` waits for the tile's earlier
commands, and returns the earliest of their failures that no fence has returned, which leaves those of later commands (R110). -/
def Obligations.MillQueueInstructions : Prop :=
  ∀ (i : Issue) (ic : Nat) (s : State),
    let c := s.dev.own i
    let w := i.word
    let t := i.tile.val
    let p := t / 8
    let m := s.dev.mill p
    let op := fun (kind : MillKind) => match kind with
      | .pass => TileOp.millMma
      | .drain => .millDrain
      | .smode => .millSmode
    let code := fun (n : Nat) =>
      BitVec.ofNat 32 (((m.failed.find? fun f => decide (f.tile = t % 8 ∧ f.num < n)).map (·.status)).getD sOk)
    let returned := fun (n : Nat) (s' : State) =>
      s'.dev.mill p = { m with failed := m.failed.filter fun f => !decide (f.tile = t % 8 ∧ f.num < n) } ∧
      ∀ j, j ≠ p → s'.dev.mill j = s.dev.mill j
    (∀ kind, s.dev.takes (op kind) i ic = true → m.fault = none → m.queue.length < 32 →
      let w0 := c.sreg (f1 w)
      let w1 := if kind = .smode then 0 else c.sreg (f2 w)
      let w2 := if kind = .pass then c.sreg (f3 w) else 0
      let q : MillCmd := { num := m.next, kind := kind, tile := t % 8, ctx := i.ctx.val, slot := modD w, w0 := w0, w1 := w1, w2 := w2, tid := c.cvtTid, wnum := if kind = .pass ∧ passWld w0 = true then m.next else m.lastW }
      let bad := match kind with
        | .pass => s.dev.checkPass p q
        | .drain => s.dev.checkDrain p q
        | .smode => checkSmode q
      bad = none → ∃ s', exec (tileInstr (op kind) i) s = .next s' ∧ (s'.dev.mill p).queue = m.queue ++ [q] ∧
        (s'.dev.mill p).next = m.next + 1 ∧ (s'.dev.mill p).running = m.running ∧ (s'.dev.mill p).fault = none ∧
        (∀ j, j ≠ p → s'.dev.mill j = s.dev.mill j) ∧
        OnlyCtx s { s' with dev := { s'.dev with mills := s.dev.mills, steps := s.dev.steps } } t i.ctx { c with pc := c.pc + 8 }) ∧
    (∀ kind, s.dev.takes (op kind) i ic = true → m.fault.isSome = true → m.queue.length < 32 → ∃ s',
      exec (tileInstr (op kind) i) s = .next s' ∧
      s'.dev.mill p = { m.fail (t % 8) m.next sParam with next := m.next + 1 } ∧
      s'.dev.reg (millReg Reg.MILL_DISCARD p) =
        BitVec.ofNat 32 (sat 0xFFFFFFFF ((s.dev.reg (millReg Reg.MILL_DISCARD p)).toNat + 1)) ∧
      OnlyCtx s { s' with dev := { s'.dev with mills := s.dev.mills, regs := s.dev.regs, steps := s.dev.steps } } t i.ctx
        { c with pc := c.pc + 8 }) ∧
    (∀ kind, s.dev.takes (op kind) i ic = true → 32 ≤ m.queue.length → ∃ s',
      exec (tileInstr (op kind) i) s = .next s' ∧
      OnlyCtx s s' t i.ctx { c with hold := some (.stall { op := .nop, word := 0 } { op := op kind, word := w } s.dev.cycle) }) ∧
    (s.dev.takes .millQstat i ic = true → ∃ s', exec (.millQstat i) s = .next s' ∧
      OnlyCtx s s' t i.ctx { c.setS (f3 w) (BitVec.ofNat 32 (32 - m.queue.length)) with pc := c.pc + 8 }) ∧
    (s.dev.takes .millFence i ic = true →
      (s.dev.millQuiet t m.next = false → ∃ s', exec (.millFence i) s = .next s' ∧
        OnlyCtx s s' t i.ctx { c with pc := c.pc + 8, hold := some (.fence (f3 w) m.next) }) ∧
      (s.dev.millQuiet t m.next = true → ∃ s', exec (.millFence i) s = .next s' ∧ returned m.next s' ∧
        OnlyCtx s { s' with dev := { s'.dev with mills := s.dev.mills } } t i.ctx
          { c.setS (f3 w) (code m.next) with pc := c.pc + 8, hold := none })) ∧
    (∀ rc n, c.hold = some (.fence rc n) → c.run ≠ .halted → s.dev.millQuiet t n = true → ∃ s',
      exec (.millFenceReturn i.tile i.ctx) s = .next s' ∧ returned n s' ∧
      OnlyCtx s { s' with dev := { s'.dev with mills := s.dev.mills } } t i.ctx { c.setS rc (code n) with hold := none })

/-- R283 to R287, R290, R294, R634: `slc.issue` of a descriptor that passes its checks puts it behind the others and gives 0; a queue
number above 3 gives ERR_PARAM, or all-ones for `slc.stat`, does nothing else, is logged with SOURCE 0 and recorded by event
0x5001, and no queue whose fields are in the ranges of R285 reports all-ones. `slc.stat` gives the queue's status word, `slc.lim` sets its limit of requests, and
`slc.wait` waits until the queue is EMPTY or in HALT and gives its code. -/
def Obligations.SluiceInstructions : Prop :=
  ∀ (i : Issue) (ic : Nat) (s : State),
    let c := s.dev.own i
    let w := i.word
    let t := i.tile.val
    let x := (c.sreg (f1 w)).toNat
    let y := (c.sreg (f2 w)).toNat
    let d := s.dev.advance t i.ctx
    let q := s.dev.queue (4 * t + x)
    let returns := fun (n rc : Nat) (c0 : Ctx) (s' : State) =>
      s'.dev.queue (4 * t + n) = { s.dev.queue (4 * t + n) with code := sOk } ∧
      (∀ k, k ≠ 4 * t + n → s'.dev.queue k = s.dev.queue k) ∧
      OnlyCtx s { s' with dev := { s'.dev with sluice := s.dev.sluice } } t i.ctx
        { c0.setS rc (BitVec.ofNat 32 (s.dev.queue (4 * t + n)).code) with hold := none }
    (s.dev.takes .slcIssue i ic = true → x ≤ 3 → q.halt = none → q.descs.length < 8 → y % 64 = 0 → y + 64 ≤ c.bound.toNat →
      s.dev.clean (ctxAddr t c y) 64 = true →
      let ws := wordsOf 16 (s.dev.bytesAt (ctxAddr t c y) 64)
      descStatus ws (s.dev.vlim ic) c.bound.toNat = sOk → exec (.slcIssue i) s = .next { s with
        dev := (d.pushDesc (4 * t + x) ws c.base.toNat c.bound.toNat none).putS t i.ctx (f3 w) 0 }) ∧
    (∀ n, let q := s.dev.queue n
      q.state < 4 ∧ (q.code < 16 → q.descs.length ≤ 8 → q.limit ≤ 64 → q.reqs.length ≤ 64 → q.word ≠ 0xFFFFFFFF)) ∧
    (∀ op, op ∈ [TileOp.slcIssue, .slcLim, .slcWait, .slcStat] → s.dev.takes op i ic = true → 3 < x → ∃ d' a,
      Dev.Logs d d' Reg.SLC_ERR_ADDR_LO ∧
      (bit (d.reg Reg.SLC_ERR_INFO) 31 = false → bit (d'.reg Reg.SLC_ERR_INFO) 31 = true ∧
        fld (d'.reg Reg.SLC_ERR_INFO) 8 4 = 0 ∧ fld (d'.reg Reg.SLC_ERR_INFO) 0 4 = sParam) ∧
      exec (tileInstr op i) s = .next { s with
        dev := (d'.event 0x5001 t x sParam a).putS t i.ctx (f3 w) (if op = .slcStat then 0xFFFFFFFF else 0xB) }) ∧
    (s.dev.takes .slcStat i ic = true → x ≤ 3 → ∃ s', exec (.slcStat i) s = .next s' ∧
      OnlyCtx s s' t i.ctx { c.setS (f3 w) q.word with pc := c.pc + 8 }) ∧
    (s.dev.takes .slcLim i ic = true → x ≤ 3 → 1 ≤ y → y ≤ 64 → ∃ s', exec (.slcLim i) s = .next s' ∧
      s'.dev.queue (4 * t + x) = { q with limit := y } ∧ (∀ k, k ≠ 4 * t + x → s'.dev.queue k = s.dev.queue k) ∧
      OnlyCtx s { s' with dev := { s'.dev with sluice := s.dev.sluice } } t i.ctx { c.setS (f3 w) 0 with pc := c.pc + 8 }) ∧
    (s.dev.takes .slcWait i ic = true → x ≤ 3 →
      (queueQuiet q = false → ∃ s', exec (.slcWait i) s = .next s' ∧
        OnlyCtx s s' t i.ctx { c with pc := c.pc + 8, hold := some (.slc x (f3 w)) }) ∧
      (queueQuiet q = true → ∃ s', exec (.slcWait i) s = .next s' ∧ returns x (f3 w) { c with pc := c.pc + 8 } s')) ∧
    (∀ n rc, c.hold = some (.slc n rc) → c.run ≠ .halted → queueQuiet (s.dev.queue (4 * t + n)) = true → ∃ s',
      exec (.slcWaitReturn i.tile i.ctx) s = .next s' ∧ returns n rc c s')

/-! ### Tile: supervisor instructions, traps and stalls (R54, R60 to R65, R97 to R99) -/

/-- R97 to R99: `sys.csrr` reads and `sys.csrw` writes a register of the tile; context S starts an IDLE worker at rb, resumes a
trapped one, with or without its bundle, and stops one; `sys.exit` leaves the context IDLE, and `sys.halt` halts the tile. -/
def Obligations.SystemInstructions : Prop :=
  ∀ (i : Issue) (ic : Nat) (s : State),
    let c := s.dev.own i
    let w := i.word
    let t := i.tile.val
    let tl := s.dev.tile t
    let x := c.sreg (f1 w)
    let d := s.dev.advance t i.ctx
    let k : HCtx := Fin.ofNat 4 x.toNat
    let wk := s.dev.ctx t k
    let ctxs := fun (sup worker : Ctx) => (tl.ctx.set (0 : Fin 4) sup).set k worker
    let started : Ctx := { wk with pc := (c.sreg (f2 w)).setWidth 23, run := .run, wait := none, hold := none }
    let skip := if bit w 0 then wk.pc + 8 else wk.pc
    (∀ r, s.dev.takes .sysCsrr i ic = true → s.dev.csrTrap t i.ctx x.toNat false = none → tileDesc t x.toNat = some r → ∃ s',
      exec (.sysCsrr i) s = .next s' ∧
      OnlyCtx s s' t i.ctx { c.setS (f3 w) (d.tileReg t x.toNat) with pc := c.pc + 8 }) ∧
    (∀ r, s.dev.takes .sysCsrw i ic = true → s.dev.csrTrap t i.ctx x.toNat true = none → tileDesc t x.toNat = some r →
      tileRegBad x.toNat (c.sreg (f2 w)) = false → setsReserved r (c.sreg (f2 w)) = false → x.toNat ≠ 0x18 →
      let v := fieldsWrite r.fields (s.dev.tileLocked t) (d.tileReg t x.toNat) (c.sreg (f2 w))
      exec (.sysCsrw i) s = .next { s with dev := d.putTileReg t x.toNat v }) ∧
    (s.dev.takes .sysStart i ic = true → i.ctx = 0 → 1 ≤ x.toNat → x.toNat ≤ 3 → (c.sreg (f2 w)).toNat % 8 = 0 → wk.run = .idle →
      wk.bound ≠ 0 → wk.base.toNat + wk.bound.toNat ≤ 0x600000 → ∃ s', exec (.sysStart i) s = .next s' ∧
      OnlyTile s s' t { tl with ctx := ctxs { c.setS (f3 w) 0 with pc := c.pc + 8 } started }) ∧
    (s.dev.takes .sysResume i ic = true → i.ctx = 0 → 1 ≤ x.toNat → x.toNat ≤ 3 → wk.run = .trapped → ∃ s',
      exec (.sysResume i) s = .next s' ∧
      OnlyTile s s' t { tl with
        trapQ := tl.trapQ.filter (· ≠ k.val), ctx := ctxs { c with pc := c.pc + 8 } { wk with run := .run, pc := skip } }) ∧
    (s.dev.takes .sysStop i ic = true → i.ctx = 0 → 1 ≤ x.toNat → x.toNat ≤ 3 → wk.wait = none → wk.hold = none →
      tl.heldArr = [] → ∃ s', exec (.sysStop i) s = .next s' ∧
      (wk.run = .idle → OnlyCtx s s' t i.ctx { c with pc := c.pc + 8 }) ∧
      (wk.run ≠ .idle → OnlyTile s s' t { tl with
        trapQ := tl.trapQ.filter (· ≠ k.val), ctx := ctxs { c with pc := c.pc + 8 } { wk with run := .idle } })) ∧
    (s.dev.takes .sysExit i ic = true →
      (i.ctx ≠ 0 → ∃ s', exec (.sysExit i) s = .next s' ∧ OnlyCtx s s' t i.ctx { c with pc := c.pc + 8, run := .idle }) ∧
      (i.ctx = 0 → exec (.sysExit i) s = .next { s with dev := d.sysExit ic t 0 })) ∧
    (s.dev.takes .sysHalt i ic = true → i.ctx = 0 → exec (.sysHalt i) s = .next { s with dev := d.haltTile t })

/-- R60 to R63, R98: `sys.brk` stops a worker at its bundle with cause BREAK, queued for S; S takes the oldest queued trap: it saves
its pc, continues at TILE_TRAP_VEC with INH set, and leaves its wait; `sys.tret` returns to the saved pc, takes the wait up again, or
continues with the status of a release that came meanwhile. -/
def Obligations.TrapEntryAndReturn : Prop :=
  ∀ (i : Issue) (ic : Nat) (s : State),
    let c := s.dev.own i
    let t := i.tile.val
    let tl := s.dev.tile t
    let sup := s.dev.ctx t 0
    (s.dev.takes .sysBrk i ic = true → i.ctx ≠ 0 → ∃ s', exec (.sysBrk i) s = .next s' ∧
      OnlyTile s s' t { tl with
        trapQ := tl.trapQ ++ [i.ctx.val]
        ctx := tl.ctx.set i.ctx { c with
          cause := 0xA, trapPc := c.pc, trapAddr := 0, trapInfo := i.word, hold := none, run := .trapped } }) ∧
    (∀ k rest, s.dev.stage = .ready → (s.dev.tileCtx t).isSome = true → tl.trapQ = k :: rest → tl.inh = false →
      (sup.run = .run ∨ sup.run = .wait) → sup.hold = none → tl.trapVec ≠ 0 → ∃ s', exec (.trapTake i.tile) s = .next s' ∧
      OnlyTile s s' t { tl with
        trapQ := rest, inh := true, pre := sup.wait
        ctx := tl.ctx.set (0 : Fin 4) { sup with trapPc := sup.pc, pc := tl.trapVec, run := .run, wait := none } }) ∧
    (s.dev.takes .sysTret i ic = true → i.ctx = 0 → ∃ s', exec (.sysTret i) s = .next s' ∧
      let returns := fun (c' : Ctx) => OnlyTile s s' t { tl with inh := false, pre := none, ctx := tl.ctx.set (0 : Fin 4) c' }
      (tl.pre = none → returns { c with pc := c.trapPc }) ∧
      (∀ v, tl.pre = some v → v.fired = none → returns { c with pc := c.trapPc, run := .wait, wait := some v }) ∧
      (∀ v st, tl.pre = some v → v.fired = some st → returns (({ c with pc := c.trapPc } : Ctx).setS v.rc (BitVec.ofNat 32 st))))

/-- R54, R59, R64, R86 to R89: `nop`, and any instruction that its predicate switches off, only move the pc to the next bundle; a
word that is no legal instruction traps with ILLEGAL; a stalled bundle is issued anew, with the descriptor that its `slc.issue` has
read (R283). -/
def Obligations.IssueWithoutEffect : Prop :=
  ∀ (i : Issue) (ic : Nat) (s : State),
    let c := s.dev.own i
    let t := i.tile.val
    (s.dev.takes .nop i ic = true → ∃ s', exec (.nop i) s = .next s' ∧ OnlyCtx s s' t i.ctx { c with pc := c.pc + 8 }) ∧
    (∀ op, s.dev.skips op i ic = true →
      ∃ s', exec (tileInstr op i) s = .next s' ∧ OnlyCtx s s' t i.ctx { c with pc := c.pc + 8 }) ∧
    (∀ op, s.dev.issues op i ic = true → issueAlone i = true → illegal c op i.word i.inB = true →
      exec (tileInstr op i) s = .next { s with dev := s.dev.draw.draw.raiseTrap t i.ctx i.inB i.word .illegal }) ∧
    (∀ a b n ic, c.hold = some (.stall a b n) → (s.dev.endStall t i.ctx).canIssue t i.ctx = some ic →
      exec (.queueStallResume i.tile i.ctx) s = .next { s with dev := (s.dev.endStall t i.ctx).issue t i.ctx a b none }) ∧
    (∀ a b kept ic, c.hold = some (.full a b kept) → (s.dev.endStall t i.ctx).canIssue t i.ctx = some ic →
      exec (.queueStallResume i.tile i.ctx) s = .next { s with dev := (s.dev.endStall t i.ctx).issue t i.ctx a b kept }) ∧
    ((∀ a b n, c.hold ≠ some (.stall a b n)) → (∀ a b kept, c.hold ≠ some (.full a b kept)) →
      exec (.queueStallResume i.tile i.ctx) s = .next s)
/-! ### Skeop: authorised commands (R567 to R604) -/

/-- R577, R578: SET_OWNER sets the owner root while none is set, in START-UP in any session, and afterwards for the owner only; no
open session is the owner's under the new root (log 128). Otherwise it is refused with ERR_PERM and Skeop is unchanged. -/
def Obligations.SetOwnerOutcome : Prop :=
  ∀ (s : State) (r : MgmtReq) (key : List Byte), Serves s r → r.busy = false →
    let code := (Config.commandCode 0).toNat
    let set := Host.Outcome.next (φ := Fault) (ρ := Refusal) { s with
      sk := { s.sk with owner := some key, sessions := s.sk.sessions.map fun x => { x with owner := false } }
      dev := s.dev.mgmtAnswer r code sOk [] }
    let refused := Host.Outcome.next (φ := Fault) (ρ := Refusal) { s with dev := s.dev.mgmtRefuse r 0 code sPerm }
    (s.sk.owner = none → s.sk.mode = .startUp → s.sk.inSession r = true → exec (.setOwner r key) s = set) ∧
    (s.sk.owner.isSome = true → s.sk.byOwner r = true → exec (.setOwner r key) s = set) ∧
    (s.sk.owner = none → s.sk.mode ≠ .startUp → s.sk.inSession r = true → exec (.setOwner r key) s = refused) ∧
    (s.sk.owner.isSome = true → s.sk.byOwner r = false → s.sk.inSession r = true → exec (.setOwner r key) s = refused)

/-- R567, R568: SET_MODE by the owner enters the mode it names from the modes that allow it, records event 0xA004 (after 0xA003 for
RECOVERY) and changes nothing but the mode, the recorder and what is sent; a mode that may not be entered is refused with ERR_PERM.
That START-UP is left for TEST and RECOVERY too, and the answer to the mode in force, are the model's reading (log 129). -/
def Obligations.SetModeOutcome : Prop :=
  ∀ (s : State) (r : MgmtReq), OwnerAsks s r →
    let code := (Config.commandCode 1).toNat
    let enter := fun (m : SkMode) (d : Dev) => Host.Outcome.next (φ := Fault) (ρ := Refusal) { s with
      sk := { s.sk with mode := m }
      dev := (d.event 0xA004 s.sk.mode.code m.code 0 0).mgmtAnswer r code sOk [] }
    let refused := Host.Outcome.next (φ := Fault) (ρ := Refusal) { s with dev := s.dev.mgmtRefuse r 0 code sPerm }
    let free := s.sk.mode = .startUp ∨ s.sk.mode = .operational
    (s.sk.mode = .startUp → exec (.setMode r 1) s = enter .operational s.dev) ∧
    (free → s.dev.allEmpty = true → exec (.setMode r 2) s = enter .test s.dev) ∧
    (free → s.dev.allEmpty = true → exec (.setMode r 3) s = enter .recovery (s.dev.event 0xA003 1 0 0 0)) ∧
    (free → s.dev.allEmpty = false → exec (.setMode r 2) s = refused ∧ exec (.setMode r 3) s = refused) ∧
    (¬ free → ∀ m, m < 4 → m ≠ s.sk.mode.code → exec (.setMode r m) s = refused)

/-- R570: fuses blow only on COMMIT_SVN, up to 64. COMMIT_SVN by the owner, in START-UP or RECOVERY, blows fuses until the minimum
is `v` and records event 0xA005, refuses a `v` above the running firmware's SVN, and changes nothing for a `v` at or below the
minimum. -/
def Obligations.CommitSvnOutcome : Prop :=
  (∀ (s : State) (i : Instr), ∃ t, exec i s = .next t ∧ ((∀ r v, i ≠ .commitSvn r v) → t.sk.fusedSvn = s.sk.fusedSvn) ∧
    (s.sk.svnRun ≤ 64 → s.sk.fusedSvn ≤ 64 → t.sk.svnRun ≤ 64 ∧ t.sk.fusedSvn ≤ 64)) ∧
  ∀ (s : State) (r : MgmtReq) (v : Nat), OwnerAsks s r → s.sk.mode = .startUp ∨ s.sk.mode = .recovery →
    let code := (Config.commandCode 3).toNat
    (s.sk.svnRun < v → exec (.commitSvn r v) s = .next { s with dev := s.dev.mgmtRefuse r 0 code sParam }) ∧
    (v ≤ s.sk.svnRun → v ≤ s.sk.fusedSvn → exec (.commitSvn r v) s = .next { s with dev := s.dev.mgmtAnswer r code sOk [] }) ∧
    (v ≤ s.sk.svnRun → s.sk.fusedSvn < v → exec (.commitSvn r v) s = .next { s with
      sk := { s.sk with fusedSvn := v }
      dev := (s.dev.event 0xA005 s.sk.fusedSvn v 0 0).mgmtAnswer r code sOk [] })

/-- R578, R595, R596, R601: SET_IMAGE_KEY writes image key slot 0 to 3 of kind V or D, SET_LINK_KEY one of a port's two slots, whose
frame counter starts at 0; each records event 0xA008. A link key write to the slot that the port sends with is refused with
ERR_PERM. -/
def Obligations.KeySlotWrites : Prop :=
  ∀ (s : State) (r : MgmtReq) (key : List Byte), OwnerAsks s r →
    (∀ slot kindD, slot < 4 → s.sk.mode = .startUp ∨ s.sk.mode = .recovery → ∃ t,
      exec (.setImageKey r slot kindD key) s = .next t ∧ t.pending = s.pending ∧
      t.dev = (s.dev.event 0xA008 (if kindD then 1 else 0) slot 0 0).mgmtAnswer r (Config.commandCode 4).toNat sOk [] ∧
      { t.sk with imgV := s.sk.imgV, imgD := s.sk.imgD } = s.sk ∧
      (∀ n, Tab.find t.sk.imgD n = if kindD = true ∧ n = slot then some key else Tab.find s.sk.imgD n) ∧
      (∀ n, Tab.find t.sk.imgV n = if kindD = false ∧ n = slot then some key else Tab.find s.sk.imgV n)) ∧
    (∀ port slot, port < 18 → slot < 2 → s.dev.sendSlot port ≠ some slot → ∃ t,
      exec (.setLinkKey r port slot key) s = .next t ∧ t.pending = s.pending ∧
      { t.sk with linkKeys := s.sk.linkKeys } = s.sk ∧
      (∀ p, p = (if slot = 0 then { s.dev.port port with ctr0 := 0 } else { s.dev.port port with ctr1 := 0 }) → t.dev =
        ((s.dev.setPort port p).event 0xA008 2 slot port 0).mgmtAnswer r (Config.commandCode 5).toNat sOk []) ∧
      (∀ n, Tab.find t.sk.linkKeys n = if n = 2 * port + slot then some key else Tab.find s.sk.linkKeys n) ∧
      (slot = 0 → (t.dev.port port).ctr0 = 0) ∧ (slot = 1 → (t.dev.port port).ctr1 = 0) ∧
      ∀ n, n ≠ port → t.dev.port n = s.dev.port n) ∧
    (∀ port slot, port < 18 → slot < 2 → s.dev.sendSlot port = some slot →
      exec (.setLinkKey r port slot key) s = .next { s with dev := s.dev.mgmtRefuse r 0 (Config.commandCode 5).toNat sPerm })

/-- R602 to R604: DEBUG_CHALLENGE issues a nonce of 32 bytes; DEBUG_UNLOCK spends it whatever comes, and raises the level only with
the owner's signature over nonce, serial number and level, INVASIVE only while every context is EMPTY; DEBUG_NONCE_EXPIRE drops a
nonce of 60 s. -/
def Obligations.DebugUnlocking : Prop :=
  ∀ (s : State) (r : MgmtReq), OwnerAsks s r →
    (∃ t n, exec (.debugChallenge r) s = .next t ∧ n.length = 32 ∧ t.sk = { s.sk with nonce := some (n, s.dev.cycle) } ∧
      t.pending = s.pending ∧ { t.dev with freeIx := s.dev.freeIx } = s.dev.mgmtAnswer r (Config.commandCode 6).toNat sOk n) ∧
    (∀ level sig n key, s.nonceValid = some n → s.sk.owner = some key → level = 1 ∨ (level = 2 ∧ s.dev.allEmpty = true) →
      Config.ecdsaVerify key (Config.sha384 (n ++ bytesOf 8 Config.serial.toNat ++ bytesOf 1 level)) sig = true →
      exec (.debugUnlock r level sig) s = .next { s with
        sk := { s.sk with nonce := none, debug := max s.sk.debug level, imgDOff := s.sk.imgDOff || decide (level = 2) }
        dev := ((if level = 2 then s.dev.dropKeys else s.dev).event 0xA007 level r.eid.toNat 0 0).mgmtAnswer r
          (Config.commandCode 7).toNat sOk [] }) ∧
    (∀ level sig, s.nonceValid = none → exec (.debugUnlock r level sig) s = .next { s with
      sk := { s.sk with nonce := none }, dev := s.dev.mgmtRefuse r 0 (Config.commandCode 7).toNat sPerm }) ∧
    (∀ level sig n key, s.nonceValid = some n → s.sk.owner = some key → level = 1 ∨ level = 2 →
      Config.ecdsaVerify key (Config.sha384 (n ++ bytesOf 8 Config.serial.toNat ++ bytesOf 1 level)) sig = false →
      exec (.debugUnlock r level sig) s = .next { s with
        sk := { s.sk with nonce := none }, dev := s.dev.mgmtRefuse r 0 (Config.commandCode 7).toNat sPerm }) ∧
    (∀ sig n key, s.nonceValid = some n → s.sk.owner = some key → s.dev.allEmpty = false →
      exec (.debugUnlock r 2 sig) s = .next { s with
        sk := { s.sk with nonce := none }, dev := s.dev.mgmtRefuse r 0 (Config.commandCode 7).toNat sPerm }) ∧
    (∀ n c, s.sk.nonce = some (n, c) → 96000000000 ≤ s.dev.cycle - c →
      exec .debugNonceExpire s = .next { s with sk := { s.sk with nonce := none } })

/-- R517, R583, R593: CLEAR_MAP in RECOVERY empties the NOR's copy that it names, SET_EXPORT begins an export at the records that
come next (or ends it), and EVR_CLEAR outside OPERATIONAL empties both stores and begins the erase: record 0xA00A takes the next number as it stood before this
cycle, and the records of this cycle's events follow it in their order. -/
def Obligations.OwnerMaintenance : Prop :=
  ∀ (s : State) (r : MgmtReq), OwnerAsks s r →
    (∀ which, which < 3 → s.sk.mode = .recovery → ∃ t, exec (.clearMap r which) s = .next t ∧ t.sk = s.sk ∧
      t.dev = ({ s.dev with ecc := { s.dev.ecc with
        norRows := if which = 0 then [] else s.dev.ecc.norRows
        norDies := if which = 1 then [] else s.dev.ecc.norDies
        norFenced := if which = 2 then [] else s.dev.ecc.norFenced } } : Dev).mgmtAnswer r (Config.commandCode 8).toNat sOk []) ∧
    (∀ collector port kinds minSev,
      let x : Export := {
        collector := collector, port := port, ledger := kinds.testBit 0, events := kinds.testBit 1, minSev := minSev
        nextLedger := s.dev.ledgerCount, nextEvent := s.dev.evr.head, seq := 0, lost := 0 }
      exec (.setExport r collector port kinds minSev) s = .next { s with
        sk := { s.sk with telemetry := if kinds % 4 = 0 then none else some x }
        dev := s.dev.mgmtAnswer r (Config.commandCode 9).toNat sOk [] }) ∧
    (s.sk.mode ≠ .operational → s.dev.lehr.dom50 = true → s.dev.evr.ms = s.dev.opMs → ∃ t x rest,
      exec (.evrClear r) s = .next t ∧ t.sk = s.sk ∧
      t.dev.evr.nor = [] ∧ t.dev.evr.erasing = true ∧ t.dev.evr.sram = x :: rest ∧ fld (wordAt x.words 0) 0 16 = 0xA00A ∧
      x.seq = s.dev.evr.cycleHead ∧ rest.map (·.words) = (s.dev.evr.sram.filter s.dev.evr.thisCycle).map (·.words) ∧
      (∀ i y, rest[i]? = some y → y.seq = (s.dev.evr.cycleHead + 1 + i) % 2 ^ 32) ∧
      t.dev.evr.head = (s.dev.evr.cycleHead + 1 + rest.length) % 2 ^ 32 ∧ t.dev.mem = s.dev.mem)

/-! ### Skeop: MCTP, SPDM and PLDM -/

/-- R572, R573: the MCTP control commands answer with and set the endpoint ID, the out-of-band port discards them, a packet that
starts a message replaces the partial one, one that does not fit is dropped and counted in SKP_BUS_DROP, and SCL held low discards
the partial message of the two-wire bus and records event 0xA00B. -/
def Obligations.MctpEndpoint : Prop :=
  ∀ (s : State) (r : MgmtReq), Serves s r →
    (r.bus ≠ .oob →
      (∀ eid : Byte, eid ≠ 0 → eid ≠ 0xFF → exec (.setEndpointId r eid) s = .next { s with
        sk := { s.sk with eid := eid.toNat }, dev := s.dev.mgmtAnswer r 1 sOk [eid] }) ∧
      exec (.getEndpointId r) s = .next { s with dev := s.dev.mgmtAnswer r 2 sOk (bytesOf 1 s.sk.eid) } ∧
      exec (.getEndpointUuid r) s = .next { s with dev := s.dev.mgmtAnswer r 3 sOk Config.uuid } ∧
      (∀ type, type ∈ [0, 1, 5, 6, 0x7E, 0xFF] → exec (.getVersionSupport r type) s =
        .next { s with dev := s.dev.mgmtAnswer r 4 sOk (Config.responseBody 4 type) }) ∧
      exec (.getMessageTypeSupport r) s = .next { s with dev := s.dev.mgmtAnswer r 5 sOk [0, 1, 5, 6, 0x7E] }) ∧
    (r.bus = .oob → exec (.getEndpointId r) s = .next s ∧ exec (.getEndpointUuid r) s = .next s ∧
      ∀ eid, exec (.setEndpointId r eid) s = .next s) ∧
    (∀ eid dest som eom type data, (r.bus = .oob → type = 5 ∨ type = 6) → data.length ≤ s.sk.unit → dest.toNat = s.sk.eid →
      exec (.mctpPacketReceive r.bus eid dest true true eom type data) s = .next { s with
        sk := { s.sk with partMsg := if eom then [] else data, partBus := busCode r.bus } } ∧
      (s.sk.partBus = busCode r.bus → s.sk.partMsg ≠ [] → som = false →
        exec (.mctpPacketReceive r.bus eid dest true som eom type data) s = .next { s with
          sk := { s.sk with partMsg := if eom then [] else s.sk.partMsg ++ data, partBus := busCode r.bus } })) ∧
    (∀ eid dest pecOk som eom type data, (r.bus = .oob → type = 5 ∨ type = 6) → s.sk.unit < data.length → ∃ t,
      exec (.mctpPacketReceive r.bus eid dest pecOk som eom type data) s = .next t ∧ t.sk = s.sk ∧
      t.dev.reg Reg.SKP_BUS_DROP = BitVec.ofNat 32 (sat 0xFFFFFFFF ((s.dev.reg Reg.SKP_BUS_DROP).toNat + 1))) ∧
    exec .busSclTimeout s = .next { s with
      sk := { s.sk with partMsg := if s.sk.partBus = 0 then [] else s.sk.partMsg }, dev := s.dev.event 0xA00B 0 0 0 0 }

/-- R572, R575, R576: the SPDM requests that a session does not need. Negotiation leaves the transmission unit between 64 and 1,024
bytes (that NEGOTIATE_ALGORITHMS negotiates it is the model's choice, log 127). After it Skeop answers with the chain's digest, at most
4,096 bytes of the chain, a signature over the nonce, and the measurements; before it, it refuses them. -/
def Obligations.SpdmAnswers : Prop :=
  ∀ (s : State) (r : MgmtReq), Serves s r →
    exec (.getVersion r) s = .next { s with
      sk := { s.sk with negotiated := false }, dev := s.dev.mgmtAnswer r 0x84 sOk (bytesOf 1 0x13) } ∧
    exec (.getCapabilities r) s = .next { s with dev := s.dev.mgmtAnswer r 0xE1 sOk (Config.responseBody 0xE1 0) } ∧
    (∃ t, exec (.negotiateAlgorithms r) s = .next t ∧ t.pending = s.pending ∧ 64 ≤ t.sk.unit ∧ t.sk.unit ≤ 1024 ∧
      { t.sk with unit := s.sk.unit } = { s.sk with negotiated := true } ∧
      { t.dev with freeIx := s.dev.freeIx } = s.dev.mgmtAnswer r 0xE3 sOk (Config.responseBody 0xE3 0)) ∧
    (s.sk.negotiated = true →
      exec (.getDigests r) s = .next { s with dev := s.dev.mgmtAnswer r 0x81 sOk (Config.sha384 s.sk.chain) } ∧
      (∀ off len, off < s.sk.chain.length → exec (.getCertificate r 0 off len) s =
        .next { s with dev := s.dev.mgmtAnswer r 0x82 sOk ((s.sk.chain.drop off).take (min len 4096)) }) ∧
      (∀ nonce, exec (.challenge r 0 nonce) s =
        .next { s with dev := s.dev.mgmtAnswer r 0x83 sOk (Config.aliasSign (nonce ++ Config.sha384 s.sk.chain)) }) ∧
      exec (.getMeasurements r 1) s = .next { s with dev := s.dev.mgmtAnswer r 0xE0 sOk Config.bootRomDigest } ∧
      ∀ c : ICtx,
        let m := if (s.dev.img c.val).state = .empty then List.replicate 48 0 else (s.dev.img c.val).digest
        exec (.getMeasurements r (16 + c.val)) s = .next { s with dev := s.dev.mgmtAnswer r 0xE0 sOk m }) ∧
    (s.sk.negotiated = false → exec (.getDigests r) s = .next { s with dev := s.dev.mgmtRefuseFree r 1 0x81 } ∧
      ∀ owner, exec (.keyExchange r owner) s = .next { s with dev := s.dev.mgmtRefuseFree r 1 0xE4 })

/-- R575: KEY_EXCHANGE opens a session while fewer than four are open, and gives it the lowest free number; FINISH establishes it,
or closes it where its check fails; HEARTBEAT and END_SESSION answer inside an established session, and END_SESSION closes it. -/
def Obligations.SpdmSessions : Prop :=
  ∀ (s : State) (r : MgmtReq), Serves s r →
    (∀ owner n, s.sk.negotiated = true → n < 4 → (∀ x ∈ s.sk.sessions, x.id ≠ n) →
      (∀ m, m < n → ∃ x ∈ s.sk.sessions, x.id = m) → exec (.keyExchange r owner) s = .next { s with
        sk := { s.sk with sessions := s.sk.sessions ++ [{ id := n, established := false, owner := owner && s.sk.owner.isSome }] },
        dev := s.dev.mgmtAnswer r 0xE4 sOk (bytesOf 4 n) }) ∧
    (∀ owner, s.sk.negotiated = true → (∀ n, n < 4 → ∃ x ∈ s.sk.sessions, x.id = n) →
      exec (.keyExchange r owner) s = .next { s with dev := s.dev.mgmtRefuseFree r 1 0xE4 }) ∧
    (∀ x, s.sk.sessionOf r = some x → x.established = false →
      exec (.finish r true) s = .next { s with
        sk := { s.sk with sessions := s.sk.sessions.map fun y => if y.id = x.id then { y with established := true } else y }
        dev := s.dev.mgmtAnswer r 0xE5 sOk [] } ∧
      exec (.finish r false) s = .next { s with
        sk := { s.sk with sessions := s.sk.sessions.filter fun y => y.id ≠ x.id }, dev := s.dev.mgmtRefuseFree r 1 0xE5 }) ∧
    (s.sk.inSession r = true → exec (.heartbeat r) s = .next { s with dev := s.dev.mgmtAnswer r 0xE8 sOk [] } ∧
      exec (.endSession r) s = .next { s with
        sk := { s.sk with sessions := s.sk.sessions.filter fun y => some y.id ≠ r.session }
        dev := s.dev.mgmtAnswer r 0xEC sOk [] })

/-- R571, R574, R580, R581: PLDM reads answer with the record, the sensor or the state asked for and change nothing else; a firmware
update writes only the slot that does not run, a verified slot alone can be activated, and activation names it in the boot record
and records event 0xA00C. -/
def Obligations.PldmRequests : Prop :=
  ∀ (s : State) (r : MgmtReq), Serves s r → (r.bus = .oob → s.sk.inSession r = true) →
    (s.sk.rom = false →
      (∀ c, exec (.pldmBaseRequest r c) s = .next { s with dev := s.dev.mgmtAnswer r c sOk (Config.responseBody 0 c) }) ∧
      (∀ h, exec (.getPdr r h) s = .next { s with dev := s.dev.mgmtAnswer r 0x51 sOk (Config.pdr h) }) ∧
      (∀ v, exec (.getSensorReading r 1 v) s =
        .next { s with dev := s.dev.mgmtAnswer r 0x11 sOk (bytesOf 4 (min 0xFFFF s.dev.gov.watts)) }) ∧
      (∀ p : Port, exec (.getStateSensorReadings r (0x200 + p.val)) s =
        .next { s with dev := s.dev.mgmtAnswer r 0x21 sOk (bytesOf 1 (s.dev.port p.val).state.code) }) ∧
      exec (.getStateSensorReadings r 0x300) s = .next { s with dev := s.dev.mgmtAnswer r 0x21 sOk (bytesOf 1 s.sk.mode.code) }) ∧
    (∀ off data, ∃ t, exec (.pldmFirmwareTransfer r off data) s = .next t ∧
      t.dev = s.dev.mgmtAnswer r 0x15 sOk [] ∧ t.sk.updating = true ∧ (t.sk.slotOf s.sk.spare).invalid = true ∧
      (∀ i, i < data.length → (t.sk.slotOf s.sk.spare).image[off + i]? = data[i]?) ∧
      (s.sk.slot = 0 → t.sk.slotA = s.sk.slotA) ∧ (s.sk.slot = 1 → t.sk.slotB = s.sk.slotB) ∧
      { t.sk with slotA := s.sk.slotA, slotB := s.sk.slotB, updating := s.sk.updating } = s.sk) ∧
    (s.sk.updating = true → ∃ t, exec (.verifyComplete r) s = .next t ∧ t.sk.updating = false ∧
      ((t.sk.slotOf s.sk.spare).invalid = true ↔
        (s.sk.slotFault { s.sk.slotOf s.sk.spare with invalid := false }).isSome = true) ∧
      (t.sk.slotOf s.sk.spare).image = (s.sk.slotOf s.sk.spare).image ∧
      (s.sk.slot = 0 → t.sk.slotA = s.sk.slotA) ∧ (s.sk.slot = 1 → t.sk.slotB = s.sk.slotB)) ∧
    (s.sk.updating = false → (s.sk.slotOf s.sk.spare).invalid = false →
      let h := Config.firmwareHeader (s.sk.slotOf s.sk.spare).image
      exec (.activateFirmware r false) s = .next { s with
        sk := { s.sk with active := some s.sk.spare }
        dev := (s.dev.event 0xA00C s.sk.spare h.1.val h.2.1 0).mgmtAnswer r 0x1A sOk [] }) ∧
    exec (.activateFirmware r true) s = .next { s with dev := s.dev.mgmtRefuseFree r 2 0x1A }

/-! ### The event recorder and the export (R583 to R593) -/

/-- R588 to R591: NOR copies the next record in the order of its number, the erase ends, the window takes the record that
EVR_CURSOR names with READY, or reads 0 with GONE where none is held, and the end of a millisecond writes the repeat records. -/
def Obligations.RecorderSteps : Prop :=
  ∀ s : State,
    (∀ x, s.dev.skeopRuns = true → s.dev.evr.erasing = false → s.dev.evr.sram.find? (fun r => r.seq = s.dev.evr.norNext) = some x →
      s.dev.evr.nor.length < 65536 → (s.dev.evr.norNext + 1) % 2 ^ 32 ≠ s.dev.evr.head →
      exec .evrNorCopy s = .next { s with dev := { s.dev with evr := { s.dev.evr with
        nor := s.dev.evr.nor ++ [x], norNext := (s.dev.evr.norNext + 1) % 2 ^ 32 } } }) ∧
    exec .evrNorEraseDone s = .next { s with dev := { s.dev with evr := { s.dev.evr with erasing := false } } } ∧
    (s.dev.evr.copying = true → ∃ t, exec .evrWindowReady s = .next t ∧ t.sk = s.sk ∧ t.dev.evr.copying = false ∧
      (∀ ws, s.dev.evr.record (s.dev.reg Reg.EVR_CURSOR).toNat = some ws → t.dev.evr.window = ws ∧ t.dev.reg Reg.EVR_STAT = 1) ∧
      (s.dev.evr.record (s.dev.reg Reg.EVR_CURSOR).toNat = none → t.dev.evr.window = [] ∧ t.dev.reg Reg.EVR_STAT = 2) ∧
      ∀ o, o ≠ Reg.EVR_STAT → t.dev.reg o = s.dev.reg o) ∧
    (s.dev.lehr.dom50 = true → s.dev.evr.ms ≠ s.dev.opMs → ∃ t, exec .coalesceWindowEnd s = .next t ∧
      t.dev.evr.pairs = [] ∧ t.dev.evr.ms = s.dev.opMs ∧ t.sk = s.sk ∧ t.dev.mem = s.dev.mem)

/-- R583: a datagram carries the new ledger records in the order written, at most 22, with the sequence number, and losses are
reported by event 0xA00D. -/
def Obligations.ExportSteps : Prop :=
  ∀ (s : State) (x : Export), s.sk.telemetry = some x → s.dev.ledgerCount - x.nextLedger ≤ 4096 →
    (s.dev.skeopRuns = true → x.ledger = true → x.nextLedger < s.dev.ledgerCount →
      let n := min 22 (s.dev.ledgerCount - x.nextLedger)
      exec .exportDatagramSend s = .next { s with
        sk := { s.sk with telemetry := some { x with seq := (x.seq + 1) % 2 ^ 32, nextLedger := x.nextLedger + n } }
        dev := s.dev.emit (.datagram (bytesOf 8 Config.serial.toNat ++ bytesOf 4 x.seq ++ [1, BitVec.ofNat 8 n, 0, 0] ++
          ((List.range n).map fun i => bytesOfWords
            (Tab.get (fun _ => List.replicate 16 0) s.dev.ledger ((x.nextLedger + i) % 4096))).flatten)) }) ∧
    (0 < x.lost → exec .exportLostReport s = .next { s with
      sk := { s.sk with telemetry := some { x with lost := 0 } }, dev := s.dev.event 0xA00D x.lost 0 0 0 }) ∧
    (x.lost = 0 → exec .exportLostReport s = .next s)

/-! ### The Lehr domain: comparators, inputs and supplies (R535 to R539, R555 to R560, R608, R615 to R624) -/

/-- R538, R539, R547, R558, R565: a reading that meets a comparator's condition sets its bit of ACTIVE and has its response: event
0x9001 for a supply or the coolant's WARN, throttling for a die at THR, a park for a die or the coolant at PARK; a request made while
the module parks or is parked adds its cause only. A reading within the limits does nothing; one outside the sensor's range is
ignored but for the coolant's event. A die without a sensor counts as at its PARK level. Where OFF or TRIP falls due in the same cycle,
a park or throttling does not follow; where a park does, throttling does not (log 205). The numbers of comparators and causes are the model's (log 120 to 122). -/
def Obligations.ComparatorResponses : Prop :=
  ∀ s : State, s.dev.lehr.dom50 = true → s.dev.lehr.main = true →
    let d := s.dev
    let p := d.park
    let requested := fun (n : Nat) =>
      let causes := p.causes ||| BitVec.ofNat 5 (2 ^ n)
      if p.stage = .parking ∨ p.stage = .parked then { p with causes := causes }
      else { p with causes := causes, stage := .parking, since := d.cycle, stopped := 0, begun := false }
    let parks := fun (n : Nat) => if s.powerGoes then p else requested n
    let quiet := fun (t : State) => t.pending = s.pending ∧ t.sk = s.sk ∧ t.dev.mem = d.mem ∧ t.dev.tiles = d.tiles
    (∀ mv, d.isActive 0 = false → mv < 42000 ∨ 58000 < mv → exec (.supply50vWarn mv) s = .next { s with
      dev := ((d.setActive 0 true).event 0x9001 0 mv (if mv < 42000 then 42000 else 58000) 0).crossed 2 }) ∧
    (∀ mv, 42000 ≤ mv → mv ≤ 58000 → exec (.supply50vWarn mv) s = .next s) ∧
    (∀ mv, d.isActive 1 = false → mv < 11400 ∨ 12600 < mv → exec (.supply12vWarn mv) s = .next { s with
      dev := ((d.setActive 1 true).event 0x9001 1 mv (if mv < 11400 then 11400 else 12600) 0).crossed 4 }) ∧
    (∀ die temp, d.isActive 2 = false → temp ≤ 150 → d.regFld Reg.LEHR_TJ_CFG 0 8 ≤ temp → ∃ t,
      exec (.dieTempThrottle die temp) s = .next t ∧ quiet t ∧ t.dev.isActive 2 = true ∧ t.dev.park = p ∧
      (s.powerGoes = false → s.parkGoes = false → t.dev.gov.throttle = true) ∧
      (s.powerGoes = true ∨ s.parkGoes = true → t.dev.gov = d.gov) ∧ Tab.find t.dev.lehr.dieTemp die = some temp) ∧
    (∀ die, d.isActive 3 = false →
      (∀ temp, temp ≤ 150 → d.regFld Reg.LEHR_TJ_CFG 8 8 ≤ temp → ∃ t, exec (.dieTempPark die (some temp)) s = .next t ∧
        quiet t ∧ t.dev.isActive 3 = true ∧ t.dev.park = parks 1 ∧ Tab.find t.dev.lehr.dieTemp die = some temp) ∧
      ∃ t, exec (.dieTempPark die none) s = .next t ∧ quiet t ∧ t.dev.isActive 3 = true ∧ t.dev.park = parks 1 ∧
        (d.regFld Reg.LEHR_TJ_CFG 0 8 ≤ d.regFld Reg.LEHR_TJ_CFG 8 8 → t.dev.isActive 2 = true) ∧
        Tab.find t.dev.lehr.dieTemp die = none) ∧
    (∀ temp, d.isActive 4 = false → temp ≤ 90 → d.regFld Reg.LEHR_COOL_CFG 0 8 ≤ temp → ∃ t,
      exec (.coolantWarn (some temp)) s = .next t ∧ quiet t ∧ t.dev.isActive 4 = true ∧ t.dev.lehr.tCool = temp ∧ t.dev.park = p) ∧
    (∀ temp, 90 < temp → exec (.coolantWarn (some temp)) s = .next { s with
      dev := d.event 0x9001 4 temp (d.regFld Reg.LEHR_COOL_CFG 0 8) 1 } ∧ exec (.coolantPark temp) s = .next s) ∧
    (∀ temp, d.isActive 5 = false → temp ≤ 90 → d.regFld Reg.LEHR_COOL_CFG 8 8 ≤ temp → ∃ t,
      exec (.coolantPark temp) s = .next t ∧ quiet t ∧ t.dev.isActive 5 = true ∧ t.dev.lehr.tCool = temp ∧
      t.dev.park = parks 2)

/-- R535 to R538, R608, R617, R623, R624: OFF unpowers the 50 V domain and all it holds returns to reset, but what fuses, NOR and the
Lehr domain keep; operating time stands, and the record of OFF goes to the Lehr buffer. TRIP is OFF with THERM_TRIP_N asserted. The
50 V domain powers up again only where nothing holds it off, or its input has been absent for 1 s: the power cycle is counted and the Lehr buffer moves to the recorder.
Losing both inputs clears the Lehr domain. -/
def Obligations.SuppliesAndTrip : Prop :=
  ∀ s : State,
    let d := s.dev
    let l := d.lehr
    let offed := fun (t : State) => t.pending = s.pending ∧ t.sk = s.sk.rebooted ∧ t.dev.stage = .off ∧ t.dev.lehr.dom50 = false ∧
      t.dev.lehr.opBase = d.opMs ∧ t.dev.mem = [] ∧ t.dev.tiles = [] ∧ t.dev.mills = [] ∧ t.dev.objs = [] ∧ t.dev.imgs = [] ∧
      t.dev.race = [] ∧ t.dev.flume.ports = [] ∧ ∀ o, keptReg o = false → t.dev.reg o = regReset o
    let recorded := fun (n code : Nat) (t : State) => ∃ ws, t.dev.lehr.buffer[n]? = some ws ∧ fld (wordAt ws 0) 0 16 = code
    (∀ mv, l.dom50 = true → mv < 40000 ∨ 60000 < mv → ∃ t, exec (.supply50vOff mv) s = .next t ∧ offed t ∧
      t.dev.lehr.latched = true ∧ (l.buffer = [] → recorded 0 0x9008 t)) ∧
    (∀ die temp, l.dom50 = true → 115 ≤ temp → temp ≤ 150 → ∃ t, exec (.thermalTrip die temp) s = .next t ∧ offed t ∧
      t.dev.lehr.latched = true ∧ t.dev.lehr.thermTrip = true ∧ (l.buffer = [] → recorded 0 0x9008 t ∧ recorded 1 0x9007 t)) ∧
    (l.dom50 = true → ∃ t, exec .powerLoss50v s = .next t ∧ offed t ∧ t.dev.lehr.main = false ∧ t.dev.lehr.latched = true ∧
      (l.main = true → t.dev.lehr.lostAt = d.cycle) ∧ (l.buffer = [] → recorded 0 0x9008 t)) ∧
    (l.dom50 = false → exec .powerLoss50v s = .next { s with
      dev := { d with lehr := { l with main := false, lostAt := if l.main then d.cycle else l.lostAt } } }) ∧
    (l.dom50 = false → l.latched = false ∨ (l.main = false ∧ 1600000000 ≤ d.cycle - l.lostAt) → ∃ t,
      exec .powerUp50v s = .next t ∧ t.sk = s.sk ∧ t.dev.stage = .inReset ∧
      t.dev.lehr.dom50 = true ∧ t.dev.lehr.main = true ∧ t.dev.lehr.latched = false ∧ t.dev.lehr.thermTrip = false ∧ t.dev.lehr.buffer = [] ∧
      t.dev.lehr.powerCycles = min 0xFFFFFFFF (l.powerCycles + 1) ∧ t.dev.mem = d.mem ∧
      (d.evr.sram = [] → l.bufLost = 0 → l.buffer.length ≤ 16 → t.dev.evr.sram.map (·.words) = l.buffer)) ∧
    (l.dom50 = false → l.latched = true → l.main = true ∨ d.cycle - l.lostAt < 1600000000 →
      exec .powerUp50v s = .next { s with dev := { d with lehr := { l with main := true } } }) ∧
    (l.dom50 = true → exec .powerUp50v s = .next s) ∧
    (∃ t, exec .lehrPowerLoss s = .next t ∧ t.pending = s.pending ∧ t.dev.park = Park.reset ∧
      t.dev.lehr = { Lehr.reset with
        aux := false, main := false, dom50 := false, refclk := l.refclk, opSince := d.cycle } ∧
      ∀ n, n < 8 → t.dev.reg (0x400600 + 4 * n) = regReset (0x400600 + 4 * n)) ∧
    (l.aux = false → l.main = false → exec .lehrPowerUp s = .next { s with dev := { d with lehr := { l with aux := true } } }) ∧
    (l.aux = true ∨ l.main = true → exec .lehrPowerUp s = .next s)

/-- R538, R555 to R559, R563, R615, R620: SITE_ALERT_N requests a park where LEHR_ALERT_CTL.EN is 1 and is only recorded where it
is 0; its rise ends it but under a chatter hold; REFCLK's failure from start-up on stops every running context and requests a park,
and before it only sets the comparator; where OFF or TRIP falls due in the same cycle, no park follows (R539, log 205); a comparator withdraws and leaves a temperature below its level (log 123); a chattering input
is held and released by CHATTER_HOLD_END after 10 s of one level; a change of the crystal records event 0x900D. -/
def Obligations.InputResponses : Prop :=
  ∀ s : State, s.dev.lehr.main = true →
    let d := s.dev
    let l := d.lehr
    let alerted := ({ d with lehr := { l with siteAlert := true, siteSince := d.cycle } } : Dev).setActive 7 true
    let now := fun (d : Dev) => Host.Outcome.next (φ := Fault) (ρ := Refusal) { s with dev := d }
    let enabled := bit (d.reg Reg.LEHR_ALERT_CTL) 31
    (l.siteAlert = false → exec .siteAlertAssert s =
      now (if s.powerGoes then alerted else if enabled then alerted.requestPark 0 else alerted.parkEvent 0)) ∧
    (l.siteAlert = true → (∀ h ∈ l.held, h.1 ≠ 0) → exec .siteAlertDeassert s = .next { s with dev := { d with
      lehr := { l with siteAlert := false, siteSince := d.cycle, active := l.active &&& ~~~(128 : BitVec 10) } } }) ∧
    (∀ h ∈ l.held, h.1 = 0 → exec .siteAlertDeassert s = .next s) ∧
    (l.refclk = true →
      let failed := ({ d with lehr := { l with refclk := false } } : Dev).setActive 6 true
      (d.skeopRuns = true ∨ d.stage = .boot → exec .refclkFault s = now (if s.powerGoes then failed.refclkEvent else
        (failed.refclkEvent.runningCtxs.foldl (fun d c => d.parkStop c 2) failed.refclkEvent).requestPark 3)) ∧
      (d.stage = .off ∨ d.stage = .inReset ∨ d.stage = .waitRefclk → exec .refclkFault s = .next { s with dev := failed })) ∧
    (∀ b : Fin 10, b.val < 7 → d.isActive b.val = true → (b = 6 → l.refclk = false) → ∃ t,
      exec (.comparatorWithdraw b) s = .next t ∧ t.sk = s.sk ∧ t.dev.isActive b.val = false ∧ t.dev.mem = d.mem ∧
      (∀ n, n < 10 → n ≠ b.val → t.dev.isActive n = d.isActive n) ∧
      (b = 2 → 0 < d.regFld Reg.LEHR_TJ_CFG 0 8 → t.dev.lehr.tjMax < d.regFld Reg.LEHR_TJ_CFG 0 8) ∧
      (b = 3 → 0 < d.regFld Reg.LEHR_TJ_CFG 8 8 → t.dev.lehr.tjMax < d.regFld Reg.LEHR_TJ_CFG 8 8) ∧
      (b = 4 → 0 < d.regFld Reg.LEHR_COOL_CFG 0 8 → t.dev.lehr.tCool < d.regFld Reg.LEHR_COOL_CFG 0 8) ∧
      (b = 5 → 0 < d.regFld Reg.LEHR_COOL_CFG 8 8 → t.dev.lehr.tCool < d.regFld Reg.LEHR_COOL_CFG 8 8)) ∧
    (∀ b : Fin 10, 7 ≤ b.val → exec (.comparatorWithdraw b) s = .next s) ∧
    (∀ n : Fin 4, (∀ h ∈ l.held, h.1 ≠ n.val) →
      let held := ({ d with lehr := { l with held := l.held ++ [(n.val, d.cycle)] } } : Dev).setActive 8 true
      let s1 := { s with dev := (held.count Reg.GOV_CHATTER 1).event 0x900B n.val 9 0 0 }
      (n = 0 → exec (.inputChatterHold n) s = exec .siteAlertAssert s1) ∧ (n = 1 → exec (.inputChatterHold n) s = .next s1) ∧
      (n = 2 → exec (.inputChatterHold n) s = .next s1.modReset) ∧ (n = 3 → exec (.inputChatterHold n) s = .next (onDev Dev.pfFlr s1))) ∧
    (∀ (n : Fin 4) t0, (n.val, t0) ∈ l.held → 16000000000 ≤ d.cycle - t0 → ∃ t, exec (.chatterHoldEnd n) s = .next t ∧ t.sk = s.sk ∧
      t.dev.lehr.held = l.held.filter (fun h => h.1 ≠ n.val) ∧ (t.dev.isActive 8 = true ↔ t.dev.lehr.held ≠ []) ∧
      { t.dev with lehr := l } = d) ∧
    let crystal := fun (v : Bool) => ({ d with lehr := { l with crystal := v, crystalSince := d.cycle } } : Dev)
    (l.crystal = true → exec .crystalLost s = now ((crystal false).event 0x900D 0 0 0 0) ∧ exec .crystalRestored s = .next s) ∧
    (l.crystal = false → exec .crystalRestored s = now ((crystal true).event 0x900D 1 0 0 0) ∧ exec .crystalLost s = .next s)

/-! ### Mill clocks, the Governor and parking (R540 to R549, R558 to R565) -/

/-- R540 to R542, R544, R548, R549: a mill lends after 2,000 ns idle in a running context; its clock is gated after 256 idle cycles and
power-gated as R542 says; it restarts at level 0, at most 24 clocks in a window of 8 ns; its level moves by one toward the target;
a base die's PLL stops 10 ms after its last unbinding. Each changes its own mill, or die, only. -/
def Obligations.MillClocks : Prop :=
  ∀ (s : State) (m : MillIx),
    let d := s.dev
    let k := d.clk m
    let only := fun (t : State) => t.pending = s.pending ∧ t.sk = s.sk ∧ t.dev.mem = d.mem ∧ t.dev.mills = d.mills ∧
      t.dev.regs = d.regs ∧ ∀ q, q ≠ m.val → t.dev.clk q = d.clk q
    (∀ c, d.runningOn m = some c → k.lend = false → 3200 ≤ d.idleFor m → d.waitsFor m 3200 = true → ∃ t,
      exec (.millLend m) s = .next t ∧ only t ∧ t.dev.clk m = { k with lend := true } ∧
      t.dev.measure c = { d.measure c with lent := true }) ∧
    (d.idleFor m < 3200 → exec (.millLend m) s = .next s) ∧
    (k.gate = .g0 → 256 ≤ d.millCycles m (d.idleFor m) → ∃ t, exec (.millClockGate m) s = .next t ∧ only t ∧
      t.dev.clk m = { k with gate := .g1 }) ∧
    (d.millCycles m (d.idleFor m) < 256 → exec (.millClockGate m) s = .next s) ∧
    (k.gate = .g0 ∨ k.gate = .g1 → d.millIdle m = true → d.runningOn m = none ∨ d.park.stage = .parked → ∃ t,
      exec (.millPowerGate m) s = .next t ∧ only t ∧ t.dev.clk m = { k with gate := .g2 }) ∧
    (d.millIdle m = false → exec (.millPowerGate m) s = .next s) ∧
    (∀ since, d.dueSince m = some since → (∀ q u, q < 216 → q ≠ m.val → d.dueSince q = some u → since * 5 / 64 ≤ u * 5 / 64 ∧
        (since * 5 / 64 = u * 5 / 64 → m.val < q)) →
      (d.gov.window ≠ d.window ∨ d.gov.started < 24 → ∃ t, exec (.millClockRestart m) s = .next t ∧ only t ∧
        t.dev.clk m = { k with gate := .g0, level := 0, target := 0, granted := 0, wake := none } ∧
        t.dev.gov.started = (if d.gov.window = d.window then d.gov.started else 0) + 1) ∧
      (d.gov.window = d.window → 24 ≤ d.gov.started → exec (.millClockRestart m) s = .next s)) ∧
    (k.gate = .g0 → k.level < k.target → ∃ t, exec (.millLevelStep m) s = .next t ∧ only t ∧
      t.dev.clk m = { k with level := k.level + 1 }) ∧
    (k.gate = .g0 → k.target < k.level → ∃ t, exec (.millLevelStep m) s = .next t ∧ only t ∧
      t.dev.clk m = { k with level := k.level - 1 }) ∧
    (k.gate ≠ .g0 ∨ k.level = k.target → exec (.millLevelStep m) s = .next s) ∧
    (∀ (b : Fin 8) t0, d.gov.pllIdle.find? (fun e => e.1 = b.val) = some (b.val, t0) → 16000000 ≤ d.cycle - t0 → ∃ t,
      exec (.millPllStop b) s = .next t ∧ t.sk = s.sk ∧ t.dev.mem = d.mem ∧ b.val ∉ t.dev.gov.pll ∧
      (∀ n, n < 216 → (t.dev.clk n).gate = if n / 27 = b.val then .g3 else (d.clk n).gate))

/-- R543, R547: a tick of the Governor takes the average power it is given; it throttles while a die is at THR, and where the power
exceeds the cap and no boost is granted, counts the tick in GOV_THROTTLE then, and ends throttling once neither holds. It reaches no
memory and no unit. -/
def Obligations.GovernorTick : Prop :=
  ∀ (s : State) (watts : Nat),
    let d := s.dev
    let cap := d.regFld Reg.GOV_CTL 0 12
    ∃ t, exec (.governorTick watts) s = .next t ∧ t.pending = s.pending ∧ t.sk = s.sk ∧ t.dev.gov.watts = watts ∧
      t.dev.mem = d.mem ∧ t.dev.tiles = d.tiles ∧ t.dev.mills = d.mills ∧ t.dev.imgs = d.imgs ∧
      (d.lehr.dom50 = true →
        (d.isActive 2 = true ∨ (cap < watts ∧ d.granted = 0) → t.dev.gov.throttle = true ∧
          t.dev.reg Reg.GOV_THROTTLE = BitVec.ofNat 32 (min 0xFFFFFFFF ((d.reg Reg.GOV_THROTTLE).toNat + 1))) ∧
        (d.isActive 2 = false → watts ≤ cap → t.dev.gov.throttle = false ∧
          t.dev.reg Reg.GOV_THROTTLE = d.reg Reg.GOV_THROTTLE)) ∧
      (d.lehr.dom50 = false → t = { s with dev := { d with gov := { d.gov with watts := watts } } })

/-- R560, R562 to R565: a context that misses its bound is stopped, with event 0x9006; with every context at its point the module
quiesces, and once it is quiet its links are down, its mills power-gated, its PLLs off, and it is PARKED; with AUTO it unparks where
R563's conditions hold, and it is in RUN, with no cause left, when the unpark has run. -/
def Obligations.ParkSequence : Prop :=
  ∀ s : State,
    let d := s.dev
    let p := d.park
    (∀ c : ICtx, p.stage = .parking → (d.img c).state = .running → c.val ∉ p.atPoint → (d.img c).due = none →
      let field := d.regFld Reg.LEHR_ALERT_CTL 0 16
      let ms := if p.causes.toNat.testBit 1 = true ∨ p.causes.toNat.testBit 2 = true then 100 else field
      (cyclesOfMs ms ≤ d.cycle - p.since → exec (.parkBoundExpire c) s = .next { s with
        dev := (d.parkStop c 1).event 0x9006 c (d.stepLow c) field p.causes.toNat }) ∧
      (d.cycle - p.since < cyclesOfMs ms → exec (.parkBoundExpire c) s = .next s)) ∧
    (d.stage = .ready → p.stage = .parking →
      (d.allParked = true → exec .parkBegin s = .next { s with dev := { d with park := { p with begun := true } } }) ∧
      (d.allParked = false → exec .parkBegin s = .next s) ∧
      (p.begun = true → d.allParked = true → d.moduleQuiet = true → ∃ t, exec .parkComplete s = .next t ∧ t.sk = s.sk ∧
        t.dev.park = { p with stage := .parked, parkedAt := d.cycle, begun := false } ∧ t.dev.gov.pll = [] ∧ t.dev.mem = d.mem ∧
        (∀ m, m < 216 → (t.dev.clk m).gate = if (d.binding m).isSome then .g2 else .g3)) ∧
      (p.begun = false ∨ d.moduleQuiet = false → exec .parkComplete s = .next s)) ∧
    (bit (d.reg Reg.LEHR_ALERT_CTL) 29 = true → p.stage = .parked →
      (d.unparkAllowed = true →
        exec .autoUnpark s = .next { s with dev := { d with park := { p with stage := .unparking, byHost := false } } }) ∧
      (d.unparkAllowed = false → exec .autoUnpark s = .next s)) ∧
    (d.stage = .ready → p.stage = .unparking → p.atPoint = [] → ∃ t, exec .unparkComplete s = .next t ∧ t.sk = s.sk ∧
      t.dev.park = { p with stage := .run, causes := 0 } ∧ t.dev.mem = d.mem)

/-! ### Reset and start-up (R504, R531, R567, R569, R617 to R620, R623) -/

/-- R504, R569, R617 to R620: MOD_RST_N returns the device to reset but for what fuses, NOR and Lehr domain keep; its rise starts the
boot ROM, or holds at t1 without REFCLK until REFCLK is in range; the ROM boots the bootable slot with the greatest SVN, or enters
RECOVERY; memory is then poisoned and the loader becomes ready. -/
def Obligations.StartUpSequence : Prop :=
  ∀ s : State,
    let d := s.dev
    ((∀ h ∈ d.lehr.held, h.1 ≠ 2) →
      (d.stage = .ready ∨ d.stage = .boot → ∃ t, exec .modRstAssert s = .next t ∧ t.pending = s.pending ∧ t.dev.stage = .inReset ∧
        t.sk.mode = .startUp ∧ t.sk.sessions = [] ∧ t.sk.debug = 0 ∧ t.sk.owner = s.sk.owner ∧ t.sk.fusedSvn = s.sk.fusedSvn ∧
        t.sk.imgV = s.sk.imgV ∧ t.sk.imgD = s.sk.imgD ∧ t.dev.mem = [] ∧ t.dev.tiles = [] ∧ t.dev.imgs = [] ∧ t.dev.objs = [] ∧
        t.dev.lehr = d.lehr ∧ t.dev.evr.nor = d.evr.nor ∧ t.dev.evr.head = d.evr.head ∧
        (∀ o, keptReg o = false → t.dev.reg o = regReset o) ∧ ∀ n, n < 8 → t.dev.reg (0x400600 + 4 * n) = d.reg (0x400600 + 4 * n)) ∧
      (d.stage = .inReset → exec .modRstAssert s = .next s ∧
        (d.lehr.refclk = true → exec .modRstRelease s = .next { s with dev := { d with stage := .boot } }) ∧
        (d.lehr.refclk = false → exec .modRstRelease s = .next { s with
          dev := { d with stage := .waitRefclk, lehr := { d.lehr with holdSince := some d.cycle } } })) ∧
      (d.stage = .off → d.lehr.main = true → d.isActive 0 = false →
        exec .modRstAssert s = .next { s with dev := { d with lehr := { d.lehr with latched := false } } })) ∧
    (∀ t0, d.stage = .waitRefclk → d.lehr.holdSince = some t0 → 160000000 ≤ d.cycle - t0 → exec .refclkStartupHold s = .next { s with
      dev := ({ d with lehr := { d.lehr with holdSince := none } } : Dev).refclkEvent }) ∧
    (d.stage = .waitRefclk → ∃ t, exec .startupRefclkInRange s = .next t ∧ t.dev.stage = .boot ∧ t.dev.lehr.refclk = true ∧
      t.dev.lehr.holdSince = none ∧ t.sk = s.sk ∧ { t.dev with stage := d.stage, lehr := d.lehr } = d) ∧
    (d.stage = .boot →
      let svn := fun n => (Config.firmwareHeader (s.sk.slotOf n).image).1.val
      let bootable := fun n => s.sk.slotFault (s.sk.slotOf n) = none
      (∀ n, n < 2 → bootable n → (∀ m, m < 2 → bootable m → svn m < svn n ∨ m = n) → ∃ t, exec .firmwareBoot s = .next t ∧
        t.sk = { s.sk with
          slot := n, svnRun := svn n, versionRun := (Config.firmwareHeader (s.sk.slotOf n).image).2.1 } ∧
        t.dev.stage = .poisoning) ∧
      (¬ bootable 0 → ¬ bootable 1 → ∃ t, exec .firmwareBoot s = .next t ∧
        t.sk = { s.sk with mode := .recovery, rom := true } ∧ t.dev.stage = .poisoning)) ∧
    (d.stage = .poisoning → exec .poisonInitDone s = .next { s with
      dev := { d with mem := [], ecc := { d.ecc with flips := [] }, stage := .poisoned } }) ∧
    (d.stage = .poisoned → exec .loaderReady s = .next { s with dev := { d with stage := .ready } })

/-! ### Access to registers (R3 to R17, R41, R452, R493, R518 to R522) -/

/-- R5, R6, R8, R9, R41, R452, R493: a read of an aligned register answers its value and changes nothing; narrow reads answer the
addressed bytes; a read of `_LO` captures `_HI` for the next read of `_HI`; a virtual function reads its own context's page at
0x100000; the PF reads 0 from a page that a virtual function owns; an access that no start-up has enabled, or from a function that
does not exist, reaches nothing. A tile reads a register of its own page (R99, R633); where the privilege of its context does not reach the
register, the running context traps (log 194) and no other is touched. -/
def Obligations.RegisterReads : Prop :=
  ∀ (s : State) (who : Requester),
    let d := s.dev
    let answered := fun (s : State) (bs : List Byte) =>
      Host.Outcome.next (φ := Fault) (ρ := Refusal) { s with dev := { s.dev with reply := some { data := bs, status := sOk } } }
    let single := fun (off : Nat) (w : Word) => off % 4 = 0 ∧ s.view off = some w ∧ off ≠ Reg.EVR_WINDOWw + 28 ∧
      ∃ r ix, regFind off = some (r, ix) ∧ r.base ∉ loBases ∧ (4 ≤ r.base → r.base - 4 ∉ loBases)
    (d.regsUp who = false → ∀ off len, exec (.registerReadLo who off) s = .next s ∧ exec (.illegalRegisterRead who off len) s = .next s) ∧
    (d.regsUp who = true →
      (who = .host 0 ∨ who = .skeop →
        (∀ off w, (who = .skeop ∨ ∀ c, pageOf off = some c → d.owner c = 0) → single off w →
          exec (.registerReadLo who off) s = answered s (bytesOf 4 w.toNat) ∧
          (∀ k, k < 4 → exec (.illegalRegisterRead who (off + k) 1) s = answered s (((bytesOf 4 w.toNat).drop k).take 1)) ∧
          ∀ k, k = 0 ∨ k = 2 → exec (.illegalRegisterRead who (off + k) 2) s = answered s (((bytesOf 4 w.toNat).drop k).take 2)) ∧
        (∀ off r ix q qx lo hi, (who = .skeop ∨ ∀ c, pageOf off = some c ∨ pageOf (off + 4) = some c → d.owner c = 0) → off % 4 = 0 →
          regFind off = some (r, ix) → r.base ∈ loBases → regFind (off + 4) = some (q, qx) → q.base = r.base + 4 → q.base ∉ loBases →
          s.view off = some lo → s.view (off + 4) = some hi → ∃ t, exec (.registerReadLo who off) s = .next t ∧
            t.pending = s.pending ∧ t.sk = s.sk ∧ { t.dev with reply := d.reply, halves := d.halves } = d ∧
            t.dev.reply = some { data := bytesOf 4 lo.toNat, status := sOk } ∧
            ∀ t' : State, t'.dev.halves = t.dev.halves → t'.dev.stage = d.stage → t'.dev.numVf = d.numVf →
              (t'.view (off + 4)).isSome → ∃ u, exec (.registerReadLo who (off + 4)) t' = .next u ∧
                u.dev.reply = some { data := bytesOf 4 hi.toNat, status := sOk } ∧ u.dev.regs = t'.dev.regs ∧ u.dev.mem = t'.dev.mem)) ∧
      (∀ f : Fin 17, who = .host f → f ≠ 0 → ∀ off w, off < 0x1000 → single (0x100000 + off + (f.val - 1) * 0x1000) w →
        exec (.registerReadLo who (0x100000 + off)) s = answered s (bytesOf 4 w.toNat)) ∧
      (who = .host 0 → ∀ off c, pageOf off = some c → d.owner c ≠ 0 → off % 4 = 0 →
        exec (.registerReadLo who off) s = answered s [0, 0, 0, 0]) ∧
      ∀ t k off, who = .tile t k →
        (∀ tr, d.csrTrap t k off false = some tr →
          ((d.ctx t k).run ≠ .run → exec (.registerReadLo who off) s = .next s) ∧
          ((d.ctx t k).run = .run → ∃ w n, exec (.registerReadLo who off) s = .next { s with
            dev := ({ d with freeIx := n } : Dev).raiseTrap t k false w tr })) ∧
        (d.csrTrap t k off false = none → tileDesc t off ≠ none →
          exec (.registerReadLo who off) s = answered s (bytesOf 4 (d.tileReg t off).toNat)))

/-- R5, R7, R11, R41, R518, R521, R522: an access at an offset that is no multiple of its size, a write of 1 or 2 bytes, and an access
to a reserved offset change no register and are violations with ERR_PARAM, captured where nothing has been captured since VALID was
cleared; the reads among them answer zeros. -/
def Obligations.RegisterAccessRefused : Prop :=
  ∀ (s : State) (who : Requester) (off len v : Nat), who = .host 0 ∨ who = .skeop → s.dev.regsUp who = true →
    let d := s.dev
    let logged := fun (base : Nat) (t : State) => t.pending = s.pending ∧ t.sk = s.sk ∧
      (∃ n, Dev.Logs { d with freeIx := n, reply := t.dev.reply } t.dev base) ∧
      (bit (d.reg (base + 8)) 31 = false → bit (t.dev.reg (base + 8)) 31 = true ∧ fld (t.dev.reg (base + 8)) 0 4 = sParam ∧
        fld (t.dev.reg (base + 8)) 16 15 = 1)
    let zeros := some { data := List.replicate len (0 : Byte), status := sParam }
    let home := fun (o : Nat) => match regBlock o with
      | .flm | .twin => Reg.FLM_ERR_ADDR_LO
      | .upd _ => Reg.UPD_ERR_ADDR_LO
      | .hst _ => Reg.HST_ERR_ADDR_LO
      | .skp => Reg.SKP_ERR_ADDR_LO
      | .other => Reg.ECC_ERR_ADDR_LO
    (len = 2 ∨ len = 4 ∨ len = 8 → off % len ≠ 0 →
      (∃ t, exec (.registerWrite who off len v) s = .next t ∧ logged Reg.ECC_ERR_ADDR_LO t ∧ t.dev.reply = d.reply) ∧
      ∃ t, exec (.illegalRegisterRead who off len) s = .next t ∧ logged Reg.ECC_ERR_ADDR_LO t ∧ t.dev.reply = zeros) ∧
    (len = 1 ∨ (len = 2 ∧ off % 2 = 0) → (who = .skeop ∨ ∀ c, pageOf (off / 4 * 4) ≠ some c) → regFind (off / 4 * 4) ≠ none →
      ∃ t, exec (.registerWrite who off len v) s = .next t ∧ logged (home (off / 4 * 4)) t ∧ t.dev.reply = d.reply) ∧
    (off % 4 = 0 → regFind off = none → capHeader off = none → (∀ c, pageOf off = some c → d.owner c = 0) →
      (∃ t, exec (.registerWrite who off 4 v) s = .next t ∧ logged Reg.ECC_ERR_ADDR_LO t ∧ t.dev.reply = d.reply) ∧
      ∃ t, exec (.registerReadLo who off) s = .next t ∧ logged Reg.ECC_ERR_ADDR_LO t ∧
        t.dev.reply.map (·.data) = some [0, 0, 0, 0])

/-- R9, R10, R11, R100, R229, R522: a write of a register whose fields only store gives each RW field the bits written and leaves the
others, and nothing else changes; a 1 in a reserved bit is discarded and logged while the fields take effect; a 1 in VALID of an
`_ERR_INFO` clears VALID with COUNT; a write of a locked RWL register changes nothing and is logged with ERR_PERM. A tile's write
reaches its own page (R99): of a register that its privilege does not reach, or that is locked, the running context traps (log 194). -/
def Obligations.RegisterWriteStores : Prop :=
  (∀ (s : State) (t : TileIx) (k : HCtx) (off : Nat) (v : Word), s.dev.regsUp (.tile t k) = true →
    let d := s.dev
    let writes := exec (.registerWrite (.tile t k) off 4 v.toNat) s
    (∀ tr, d.csrTrap t k off true = some tr → ((d.ctx t k).run ≠ .run → writes = .next s) ∧
      ((d.ctx t k).run = .run → ∃ w n, writes = .next { s with dev := ({ d with freeIx := n } : Dev).raiseTrap t k false w tr })) ∧
    (∀ r, d.csrTrap t k off true = none → tileDesc t off = some r → tileRegBad off v = false → setsReserved r v = false →
      isErrInfo r = false → ∃ w, writes = .next { s with dev := d.putTileReg t off w } ∧
        ∀ f ∈ r.fields, f.type = .rw ∨ (f.type = .rwl ∧ d.tileLocked t = false) → fld w f.lo f.len = fld v f.lo f.len)) ∧
  ∀ (s : State) (who : Requester) (off : Nat) (v : Word) (r : RegDesc) (ix : List Nat), who = .host 0 ∨ who = .skeop →
    s.dev.regsUp who = true → off % 4 = 0 → regFind off = some (r, ix) → capHeader off = none → pageOf off = none → tileOfOff off = none →
    let d := s.dev
    let stored := fun (w : Word) => ∀ f ∈ r.fields, fld w f.lo f.len = if f.type = .rw ∨ f.type = .rwl then fld v f.lo f.len
      else fld (d.reg off) f.lo f.len
    let writes := exec (.registerWrite who off 4 v.toNat) s
    let plain := r.base = Reg.SYNC_OBJ_SEL ∨ r.base = Reg.SYNC_WDOGc ∨ r.base = Reg.SLC_DRY ∨ r.base = Reg.SLC_FTMOc ∨
      r.base = Reg.FLM_CX_TMOc ∨ r.base = Reg.FLM_CX_TSEL ∨ r.base = Reg.UPD_SAT ∨ r.base = Reg.UPD_PL_CURSOR ∨
      r.base = Reg.FLM_DISCARD ∨ r.base = Reg.TWIN_RJ_STEP ∨ r.base = Reg.HST_CPL_LOST ∨ r.base = Reg.ECC_HBM_CE ∨
      r.base = Reg.GOV_THROTTLE ∨ r.base = Reg.GOV_PG_US ∨ r.base = Reg.SKP_DMA_RATE ∨ r.base = Reg.RACE_PAD_OVR
    (plain → setsReserved r v = false → ∃ w, writes = .next { s with dev := d.setReg off w } ∧ stored w) ∧
    (plain → setsReserved r v = true → ∃ w t base, writes = .next t ∧ stored w ∧ t.pending = s.pending ∧ t.sk = s.sk ∧
      base ∈ [Reg.FLM_ERR_ADDR_LO, Reg.UPD_ERR_ADDR_LO, Reg.HST_ERR_ADDR_LO, Reg.SKP_ERR_ADDR_LO, Reg.ECC_ERR_ADDR_LO] ∧
      ∃ n, Dev.Logs { d.setReg off w with freeIx := n } t.dev base) ∧
    (isErrInfo r = true → setsReserved r v = false → ∃ w, writes = .next { s with dev := d.setReg off w } ∧
      (bit v 31 = false → w = d.reg off) ∧ (bit v 31 = true → bit w 31 = false ∧ fld w 16 15 = 0 ∧ fld w 0 16 = fld (d.reg off) 0 16)) ∧
    (∀ c l, r.base = Reg.SYNC_XLATc_v ∧ ix = [c, l] ∨ r.base = Reg.SLC_PTBc_LO ∧ ix = [c] → (d.img c).locked = true → ∃ t n,
      writes = .next t ∧ t.pending = s.pending ∧ t.sk = s.sk ∧
      ∃ h, Dev.Logs { d with freeIx := n, halves := h } t.dev Reg.ECC_ERR_ADDR_LO) ∧
    (∀ c l, r.base = Reg.SYNC_XLATc_v → ix = [c, l] → (d.img c).locked = false → setsReserved r v = false →
      ∃ w, writes = .next { s with dev := d.setReg off w } ∧ stored w)

/-- R8, R472: a write of `_LO` is held and the write of `_HI` that follows commits both halves; a write of `_HI` alone commits it with
the `_LO` in force; an 8-byte write writes both, the lower first; a refused `_LO` stands, and the `_HI` after it is refused with it. -/
def Obligations.SixtyFourBitWrites : Prop :=
  ∀ (s : State) (who : Requester) (off : Nat) (lo hi : Word), who = .host 0 ∨ who = .skeop → s.dev.regsUp who = true →
    let d := s.dev
    let pair := off = Reg.TWIN_NET_LO ∨ off = Reg.TWIN_RJ_TAB_LO ∨
      (∃ c, c < 16 ∧ off = hostReg Reg.HST_CMD_BASE_LO c ∧ (who = .skeop ∨ d.owner c = 0) ∧ bit (d.reg (hostReg Reg.HST_CMD_CFG c)) 31 = false)
    let maskLo : Word := if off = Reg.TWIN_NET_LO then 0xFFFFFFC0 else if off = Reg.TWIN_RJ_TAB_LO then 0xFFFFFFF0 else 0xFFFFF000
    let maskHi : Word := if off = Reg.TWIN_NET_LO ∨ off = Reg.TWIN_RJ_TAB_LO then 0xFFFF else 0xFFFFFFFF
    let both := fun (t : State) => t.dev.reg off &&& maskLo = lo ∧ t.dev.reg (off + 4) &&& maskHi = hi
    let unchanged := fun (t : State) => t.pending = s.pending ∧ t.sk = s.sk ∧ t.dev.mem = d.mem ∧
      ∀ o, o ≠ off → o ≠ off + 4 → t.dev.reg o = d.reg o
    (pair → lo &&& maskLo = lo → hi &&& maskHi = hi →
      (∃ t, exec (.registerWrite who off 4 lo.toNat) s = .next t ∧ unchanged t ∧ t.dev.reg off = d.reg off ∧
        t.dev.reg (off + 4) = d.reg (off + 4) ∧ ∃ u, exec (.registerWrite who (off + 4) 4 hi.toNat) t = .next u ∧ unchanged u ∧ both u) ∧
      (off % 8 = 0 → ∃ u, exec (.registerWrite who off 8 (lo.toNat + hi.toNat * 2 ^ 32)) s = .next u ∧ unchanged u ∧ both u) ∧
      ((d.halvesAt off).held = none → (d.halvesAt off).refused = none → ∃ u,
        exec (.registerWrite who (off + 4) 4 hi.toNat) s = .next u ∧ unchanged u ∧ u.dev.reg off = d.reg off ∧
          u.dev.reg (off + 4) &&& maskHi = hi)) ∧
    (∀ c, c < 16 → off = hostReg Reg.HST_CMD_BASE_LO c → who = .skeop ∨ d.owner c = 0 → bit (d.reg (hostReg Reg.HST_CMD_CFG c)) 31 = true →
      ∃ t, exec (.registerWrite who off 4 lo.toNat) s = .next t ∧ t.dev.reg off = d.reg off ∧ t.dev.reg (off + 4) = d.reg (off + 4) ∧
        (t.dev.halvesAt off).held = none ∧
        ∀ t' : State, t'.dev.halves = t.dev.halves → t'.dev.regsUp who = true → who = .skeop ∨ t'.dev.owner c = 0 → ∃ u,
          exec (.registerWrite who (off + 4) 4 hi.toNat) t' = .next u ∧ u.dev.reg off = t'.dev.reg off ∧
          u.dev.reg (off + 4) = t'.dev.reg (off + 4) ∧ (u.dev.halvesAt off).refused = none)

/-- R248 to R250, R472, R476, R478 to R480, R493: a sync doorbell of a context's function sends its event, or is logged and counted as
refused; a command doorbell moves PROD unless it names more entries than the ring has; enabling a ring starts it anew; a write of
HEAD beyond TAIL is refused. The PF's writes to a page that a virtual function owns are refused, and any other function reaches no
such page. -/
def Obligations.DoorbellsAndRings : Prop :=
  ∀ (s : State) (f : Fin 17) (c : ICtx), s.dev.regsUp (.host f) = true →
    let d := s.dev
    let i := d.img c
    let cmdCfg := hostReg Reg.HST_CMD_CFG c
    let cplCfg := hostReg Reg.HST_CPL_CFG c
    let cmdIdx := hostReg Reg.HST_CMD_IDX c
    let cplIdx := hostReg Reg.HST_CPL_IDX c
    let refused := fun (o : Host.Outcome State Fault Refusal) => ∃ t n h, o = .next t ∧ t.pending = s.pending ∧ t.sk = s.sk ∧
      Dev.Logs { d with freeIx := n, halves := h } t.dev Reg.HST_ERR_ADDR_LO
    let size := fun (w : Word) => 4 ≤ fld w 0 4 ∧ fld w 0 4 ≤ 12
    let rows := fun (p : Instr → Prop) => ∀ lo hi w, p (.syncDoorbellSignal f c lo hi) ∧ p (.syncDoorbellArrival f c lo hi) ∧
      p (.syncDoorbellArm f c lo hi) ∧ p (.cmdDoorbell f c w) ∧ p (.cmdRingEnable f c w) ∧ p (.cplRingEnable f c w) ∧ p (.cplHeadWrite f c w)
    (f.val ≠ 0 → f.val ≠ c.val + 1 → rows fun r => exec r s = .next s) ∧
    (f.val = 0 → d.owner c ≠ 0 → rows fun r => refused (exec r s)) ∧
    ((f.val = 0 ∧ d.owner c = 0) ∨ f.val = c.val + 1 →
      (∀ kind row code lo hi, (kind, row, code) ∈ [(SyncKind.signal, Instr.syncDoorbellSignal f c lo hi, 0),
          (SyncKind.arrival, Instr.syncDoorbellArrival f c lo hi, 1), (SyncKind.arm, Instr.syncDoorbellArm f c lo hi, 2)] →
        let st := d.doorbellStatus c (putFld lo 12 2 code) hi
        (st.1 = sOk → ∃ t, exec row s = .next t ∧ t.pending = s.pending ∧ t.sk = s.sk ∧ (∀ o, t.dev.reg o = d.reg o) ∧
          { t.dev with regs := d.regs, halves := d.halves } = { d with syncFly := d.syncFly ++
            [{ kind := kind, phys := st.2, bytes := 0, tile := none, waiter := none, ictx := c, vid := fld lo 0 12 }] }) ∧
        (st.1 ≠ sOk → ∃ t n, exec row s = .next t ∧ t.pending = s.pending ∧ t.sk = s.sk ∧ t.dev.syncFly = d.syncFly ∧
          ∃ h, Dev.Logs (({ d with freeIx := n, halves := h } : Dev).count Reg.SYNC_REFUSED 1) t.dev Reg.SYNC_ERR_ADDR_LO)) ∧
      (∀ w, let ahead := (fld w 0 16 + 2 ^ 16 - d.regFld cmdIdx 16 16) % 2 ^ 16
        (ahead ≤ ringSize (d.reg cmdCfg) → ∃ v, exec (.cmdDoorbell f c w) s = .next { s with dev := d.setReg cmdIdx v } ∧
          fld v 0 16 = fld w 0 16 ∧ fld v 16 16 = d.regFld cmdIdx 16 16) ∧
        (ringSize (d.reg cmdCfg) < ahead → refused (exec (.cmdDoorbell f c w) s))) ∧
      (∀ w, w &&& 0x3FFFFFF0 = 0 →
        (size w → bit (d.reg cmdCfg) 31 = false → ∃ v, fld v 0 4 = fld w 0 4 ∧ bit v 31 = true ∧ bit v 30 = (bit (d.reg cmdCfg) 30 && !bit w 30) ∧
          exec (.cmdRingEnable f c w) s = .next { s with
            dev := ((d.setReg cmdCfg v).setReg cmdIdx 0).setImg c { i with cmdStop := false } }) ∧
        (¬size w ∨ (bit (d.reg cmdCfg) 31 = true ∧ fld w 0 4 ≠ d.regFld cmdCfg 0 4) → refused (exec (.cmdRingEnable f c w) s))) ∧
      (∀ w, w &&& 0x3FFF00F0 = 0 →
        (size w → bit (d.reg cplCfg) 31 = false →
          (i.waiting = [] → ∃ v, fld v 0 4 = fld w 0 4 ∧ fld v 8 8 = fld w 8 8 ∧ bit v 31 = true ∧
            exec (.cplRingEnable f c w) s = .next { s with
              dev := ((d.setReg cplCfg v).setReg cplIdx 0).setImg c { i with phase := true } }) ∧
          (d.cplErr = [] → bit (d.reg cplCfg) 30 = false → i.waiting.length ≤ 16 → ∃ t, exec (.cplRingEnable f c w) s = .next t ∧
            (t.dev.img c).waiting = [] ∧ t.dev.regFld cplIdx 16 16 = i.waiting.length ∧ t.dev.regFld cplIdx 0 16 = 0)) ∧
        (¬size w ∨ (bit (d.reg cplCfg) 31 = true ∧ fld w 0 4 ≠ d.regFld cplCfg 0 4) → refused (exec (.cplRingEnable f c w) s))) ∧
      ∀ w, let behind := (d.regFld cplIdx 16 16 + 2 ^ 16 - fld w 0 16) % 2 ^ 16
        (behind ≤ ringSize (d.reg cplCfg) → i.waiting = [] → ∃ v, exec (.cplHeadWrite f c w) s = .next { s with dev := d.setReg cplIdx v } ∧
          fld v 0 16 = fld w 0 16 ∧ fld v 16 16 = d.regFld cplIdx 16 16) ∧
        (ringSize (d.reg cplCfg) < behind → refused (exec (.cplHeadWrite f c w) s)))

/-- R370, R371, R387 to R389, R391, R392: a step size or a seed written is pending for the next step start, but a NaN or infinite step
size is refused; ARM is accepted where R387's checks hold and clears what the last replay has left (log 137); RESUME releases a
replay held in DONE into live running, with the pending step size and seed; setting EN of capture reserves the region that BASE and SIZE name. -/
def Obligations.UpdateRegisterWrites : Prop :=
  ∀ (s : State) (who : Requester) (c : ICtx) (w : Word), who = .host 0 ∨ who = .skeop → s.dev.regsUp who = true →
    let d := s.dev
    let p := d.stepOf c
    let cmt := cmtReg c
    let rpl := rplReg c
    let capCtl := at1 Reg.UPD_CAP_CTLc 0x100 c
    let refused := fun (o : Host.Outcome State Fault Refusal) => ∃ t n, o = .next t ∧ t.pending = s.pending ∧ t.sk = s.sk ∧
      Dev.Logs { d with freeIx := n } t.dev Reg.UPD_ERR_ADDR_LO
    (fld w 23 8 ≠ 255 → exec (.updStepSizeWrite who c w) s = .next { s with
      dev := (d.setStep c { p with etaPend := w }).setReg cmt (putBit (d.reg cmt) 4 true) }) ∧
    (fld w 23 8 = 255 → refused (exec (.updStepSizeWrite who c w) s)) ∧
    exec (.updSeedWrite who c w) s = .next { s with dev := (d.setStep c { p with seedPend := w }).setReg cmt (putBit (d.reg cmt) 5 true) } ∧
    (let block := p.capBlocks.find? fun b => decide (b.step = (d.rplRec c 0).toNat)
      let recordFits := (d.rplRec c 0).toNat = d.stepLow c ∧ fld (d.rplRec c 1) 16 16 = fld (d.img c).imageId 0 16
      let still := (d.img c).state = .loaded ∨ (d.img c).state = .stopped
      w &&& 0x30FFFFE0 = 0 →
      (still → d.rplState c ≠ 3 → recordFits → (bit w 3 = true → ∃ b, block = some b ∧ b.complete = true) → ∃ t v,
        exec (.replayArm who c w) s = .next t ∧ t.pending = s.pending ∧ t.sk = s.sk ∧ { t.dev with regs := d.regs } = d ∧
        (∀ o, o ≠ rpl → t.dev.reg o = d.reg o) ∧ t.dev.reg rpl = v ∧ fld v 30 2 = 1 ∧ fld v 24 4 = 0 ∧ bit v 4 = false ∧
        bit v 3 = bit w 3 ∧ bit v 2 = bit w 2 ∧ fld v 0 2 = 0) ∧
      (¬(still ∨ d.rplState c = 3) ∨ ¬recordFits ∨ (bit w 3 = true ∧ ∀ b, block = some b → b.complete = false) →
        refused (exec (.replayArm who c w) s)) ∧
      (bit w 0 = false → d.rplState c ≠ 3 → ∃ v, exec (.replayResume who c w) s = .next { s with dev := d.setReg rpl v } ∧
        fld v 30 2 = d.rplState c ∧ bit v 3 = bit w 3 ∧ bit v 2 = bit w 2) ∧
      (bit w 0 = false → d.rplState c = 3 → ∃ t, exec (.replayResume who c w) s = .next t ∧ t.sk = s.sk ∧
        t.dev.rplState c = 0 ∧ (t.dev.stepOf c).action = 0 ∧ (t.dev.stepOf c).waiters = [] ∧
        (t.dev.stepOf c).eta = (if bit (d.reg cmt) 4 then p.etaPend else p.eta) ∧
        (t.dev.stepOf c).seed = (if bit (d.reg cmt) 5 then p.seedPend else p.seed) ∧
        t.dev.regFld cmt 30 2 = 1 ∧ t.dev.regFld cmt 4 2 = 0 ∧ t.dev.mem = d.mem)) ∧
    (let a := (d.reg (at1 Reg.UPD_CAP_BASEc 0x100 c)).toNat * 65536
      let n := (d.reg (at1 Reg.UPD_CAP_SIZEc 0x100 c)).toNat * 65536
      let clear := ∀ k : ICtx, (∀ x ∈ (d.img k).allocs, overlaps a n x.start x.size = false) ∧
        (k ≠ c → ∀ x, (d.stepOf k).capRegion = some x → overlaps a n x.1 x.2 = false)
      (fld w 0 16 ≠ 0 → 0 < n → a + n ≤ d.hbmSize → clear → ∃ v, bit v 31 = true ∧ fld v 0 16 = fld w 0 16 ∧
        exec (.captureEnable who c w) s = .next { s with
          dev := if bit (d.reg capCtl) 31 then d.setReg capCtl v
            else (d.setReg capCtl v).setStep c { p with capRegion := some (a, n), capPos := 0, capBlocks := [] } }) ∧
      (fld w 0 16 = 0 ∨ n = 0 ∨ d.hbmSize < a + n ∨ ¬clear → refused (exec (.captureEnable who c w) s)))

/-- R558, R561 to R563, R590: a PARK that the host writes adds its cause, and starts a park where none is under way; an UNPARK starts
the unpark where R563's conditions hold and is refused otherwise; a write of EVR_CURSOR starts a copy into the window, and with
AUTO a read of the window's last word while READY moves the cursor on. -/
def Obligations.ParkAndWindowWrites : Prop :=
  ∀ (s : State) (who : Requester) (w : Word), who = .host 0 ∨ who = .skeop → s.dev.regsUp who = true →
    let d := s.dev
    let p := d.park
    let causes := p.causes ||| 16
    let now := fun (d : Dev) => Host.Outcome.next (φ := Fault) (ρ := Refusal) { s with dev := d }
    let moved := fun (t : State) (n : Word) => t.pending = s.pending ∧ t.sk = s.sk ∧
      { t.dev with regs := d.regs, evr := d.evr, reply := d.reply } = d ∧
      t.dev.evr = { d.evr with copying := true, window := [] } ∧ t.dev.reg Reg.EVR_CURSOR = n ∧ t.dev.reg Reg.EVR_STAT = 0 ∧
      ∀ o, o ≠ Reg.EVR_CURSOR → o ≠ Reg.EVR_STAT → t.dev.reg o = d.reg o
    (w &&& 0x3FE0FFFE = 0 →
      (p.stage = .parking ∨ p.stage = .parked →
        exec (.hostParkRequest who w) s = .next { s with dev := { d with park := { p with causes := causes } } }) ∧
      (p.stage = .run ∨ p.stage = .unparking →
        exec (.hostParkRequest who w) s = now (({ d with park := { p with
          causes := causes, stage := .parking, since := d.cycle, stopped := 0, begun := false } } : Dev).parkEvent 4))) ∧
    (w &&& 0x3FE0FFFD = 0 →
      (d.unparkAllowed = true →
        (p.stage = .parked → exec (.hostUnpark who w) s = now { d with park := { p with stage := .unparking, byHost := true } }) ∧
        (p.stage = .parking → exec (.hostUnpark who w) s = now { d with
          park := { p with stage := .unparking, byHost := true, parkedAt := d.cycle, begun := false } }) ∧
        (p.stage = .run ∨ p.stage = .unparking → exec (.hostUnpark who w) s = .next s)) ∧
      (d.unparkAllowed = false → ∃ t n, exec (.hostUnpark who w) s = .next t ∧ t.pending = s.pending ∧ t.sk = s.sk ∧
        Dev.Logs { d with freeIx := n } t.dev Reg.GOV_ERR_ADDR_LO)) ∧
    (∃ t, exec (.evrCursorWrite who w) s = .next t ∧ moved t w) ∧
    ∃ t, exec (.evrWindowAutoRead who) s = .next t ∧
      t.dev.reply = some { data := bytesOf 4 (if bit (d.reg Reg.EVR_STAT) 0 then wordAt d.evr.window 7 else 0).toNat, status := sOk } ∧
      (bit (d.reg Reg.EVR_CTL) 31 = true → bit (d.reg Reg.EVR_STAT) 0 = true → moved t (d.reg Reg.EVR_CURSOR + 1)) ∧
      (bit (d.reg Reg.EVR_CTL) 31 = false ∨ bit (d.reg Reg.EVR_STAT) 0 = false → { t with dev := { t.dev with reply := d.reply } } = s)

/-! ### Flume ports, links, frames for tiles, and global time (R398 to R432, R555) -/

/-- R399, R406, R407, R409, R411, R412: training forms the widest lane group that passes and a port never widens by itself; with no pair the
port is DOWN; a trained port sends HELLO frames, each under a number of its key slot, and its first valid HELLO, protected as the port
asks, makes it UP with the neighbour stored; a port without HELLOs for 500 ms, with too many corrected symbols, or on command retrains. -/
def Obligations.PortTraining : Prop :=
  ∀ (s : State) (p : Port),
    let d := s.dev
    let q := d.port p
    let info := portReg Reg.FLM_NBR_INFOn p
    let ctl := portReg Reg.FLM_PORT_CTLn p
    let now := fun (d : Dev) => Host.Outcome.next (φ := Fault) (ρ := Refusal) { s with dev := d }
    let rest := fun (t : State) => t.pending = s.pending ∧ t.sk = s.sk ∧ t.dev.mem = d.mem ∧ ∀ n : Port, n ≠ p → t.dev.port n = d.port n
    (∀ lanes, q.state = .train ∨ q.state = .retrain →
      let k := if q.widen = true ∨ q.lanes = 0 then lanes else min lanes q.lanes
      let new := if 8 ≤ k then 8 else if 4 ≤ k then 4 else if 2 ≤ k then 2 else 0
      (k < 2 → ∃ t, exec (.portTrainDone p lanes) s = .next t ∧ t.pending = s.pending ∧ t.sk = s.sk ∧ (t.dev.port p).state = .down) ∧
      (2 ≤ k → d.portMode p ≠ 2 → exec (.portTrainDone p lanes) s =
        now (((if new < q.lanes then d.event 0x7003 p q.lanes new 0 else d).setPort p { q with
          state := .hello, lanes := new, widen := false, helloIn := d.cycle, helloOut := d.cycle, timeOut := d.cycle }).setFld info 0 1 0)) ∧
      (2 ≤ k → d.portMode p = 2 → ∃ t, exec (.portTrainDone p lanes) s = .next t ∧ rest t ∧ (t.dev.port p).state = .up ∧
        (t.dev.port p).lanes = new)) ∧
    (q.state = .down ∨ q.state = .hello ∨ q.state = .up → ∀ lanes, exec (.portTrainDone p lanes) s = .next s) ∧
    (∀ who w, who = .host 0 ∨ who = .skeop → d.regsUp who = true → w &&& 0x07FF0000 = 0 → fld w 30 2 = 1 ∨ (fld w 30 2 = 2 ∧ 16 ≤ p.val) →
      (fld w 30 2 = d.portMode p ∨ q.state = .down → ∃ t, exec (.portRetrainRequest who p w) s = .next t ∧ rest t ∧
        bit (t.dev.reg ctl) 29 = false ∧ t.dev.portMode p = fld w 30 2 ∧ t.dev.regFld ctl 0 16 = fld w 0 16 ∧
        (q.state = .up ∨ q.state = .hello → (t.dev.port p).state = .retrain ∧ (t.dev.port p).retry = q.retry ∧ (t.dev.port p).widen = true) ∧
        (q.state = .down → (t.dev.port p).state = .train)) ∧
      (fld w 30 2 ≠ d.portMode p → q.state ≠ .down → ∃ t n, exec (.portRetrainRequest who p w) s = .next t ∧ t.pending = s.pending ∧
        t.sk = s.sk ∧ Dev.Logs { d with freeIx := n } t.dev Reg.FLM_ERR_ADDR_LO)) ∧
    (∀ who w, who = .host 0 ∨ who = .skeop → d.regsUp who = true → w &&& 0xC7FF0000 = 0 → d.portMode p = 0 ∨ q.state = .down →
      ∃ v, exec (.portRetrainRequest who p w) s = now (d.setReg ctl v) ∧ fld v 30 2 = 0) ∧
    (d.portMode p = 1 → q.state = .hello ∨ q.state = .up →
      let period := if bit (d.reg info) 0 then 160000000 else 1600000
      (period ≤ d.cycle - q.helloOut → ∃ f : Frame, f.kind = 0 ∧ f.cls = 0 ∧ f.payload = bytesOf 8 Config.serial.toNat ++ bytesOf 1 p ++
          bytesOf 1 q.lanes ++ bytesOf 2 (if bit (d.reg Reg.FLM_FA) 31 then d.fa else 0x7FFF) ++ s.capDigest ++ [0, 0, 0, 0] ∧
        f.keyId = d.keySel p ∧ f.enc = d.portEnc p ∧
        exec (.helloTimer p) s = now ((d.setPort p { q.counted1 (d.keySel p) with helloOut := d.cycle }).emit (.frame p f))) ∧
      (d.cycle - q.helloOut < period → exec (.helloTimer p) s = .next s) ∧
      (∀ f : Frame, f.enc ≠ d.portEnc p → exec (.helloFrame p f) s = .next s) ∧
      (∀ f : Frame, f.kind = 0 → f.cls = 0 → f.payload.length = 32 → f.enc = d.portEnc p → ∃ t, exec (.helloFrame p f) s = .next t ∧
        t.pending = s.pending ∧ t.sk = s.sk ∧ t.dev.mem = d.mem ∧ (t.dev.port p).state = .up ∧ (t.dev.port p).helloIn = d.cycle ∧
        (t.dev.reg (portReg Reg.FLM_NBR_SNn_LO p)).toNat = leAt f.payload 0 4 ∧
        (t.dev.reg (portReg Reg.FLM_NBR_SNn_HI p)).toNat = leAt f.payload 4 4 ∧ t.dev.regFld info 16 16 = leAt f.payload 10 2 ∧
        t.dev.regFld info 11 5 = byteAt f.payload 8 % 32 ∧ bit (t.dev.reg info) 0 = true ∧
        bit (t.dev.reg info) 10 = decide ((f.payload.drop 12).take 16 ≠ s.capDigest)) ∧
      (800000000 ≤ d.cycle - q.helloIn → ∃ t, exec (.helloTimeout p) s = .next t ∧ rest t ∧ (t.dev.port p).state = .retrain ∧
        (t.dev.port p).retry = q.retry) ∧
      (d.cycle - q.helloIn < 800000000 → exec (.helloTimeout p) s = .next s) ∧
      (∀ rates, d.regFld ctl 0 16 ≠ 0 → (∃ r ∈ rates, d.regFld ctl 0 16 < r) → ∃ t, exec (.berWindowExpire p rates) s = .next t ∧ rest t ∧
        (t.dev.port p).state = .retrain ∧ (t.dev.port p).retry = q.retry)) ∧
    (∀ rates, d.regFld ctl 0 16 = 0 ∨ (∀ r ∈ rates, r ≤ d.regFld ctl 0 16) → exec (.berWindowExpire p rates) s = .next s)

/-- R403, R405, R406, R410, R413, R417, R418: an acknowledgement frees the frames up to its LSEQ; a NAK sends again from its LSEQ, and
the eighth for one LSEQ retrains, and while ROUTE_EN is 0 the frames stay owed; a failed CRC or authentication is counted and answered by
a NAK, and a second failed authentication of one LSEQ not delivered since takes the port DOWN; a frame for another device goes on with TTL one less, or is discarded at 0;
RT_COMMIT applies what is staged; a frame held too long is counted. -/
def Obligations.LinkAndRouting : Prop :=
  ∀ (s : State) (p : Port),
    let d := s.dev
    let q := d.port p
    let errs := portReg Reg.FLM_PORT_ERRn p
    let now := fun (d : Dev) => Host.Outcome.next (φ := Fault) (ρ := Refusal) { s with dev := d }
    (q.state = .up → d.portMode p = 1 →
      (∀ lseq i, q.seqAt lseq = some i →
        (q.waiting = [] → exec (.linkAck p lseq) s = now (d.setPort p { q with retry := q.retry.drop (i + 1) })) ∧
        let k := if q.nakSeq = lseq then q.nakCount + 1 else 1
        let again := q.retry.drop i
        (k < 8 → d.routeEn = false → (∃ f ∈ again, 2 ≤ f.kind) → exec (.linkNak p lseq) s = now (d.setPort p { q with
          nakSeq := lseq, nakCount := k, owed := true })) ∧
        (k < 8 → d.routeEn = true ∨ (∀ f ∈ again, f.kind < 2) → ∃ t, exec (.linkNak p lseq) s = .next t ∧ t.dev.port p = { q with
            nakSeq := lseq, nakCount := k, ctr0 := q.ctr0 + (again.filter fun f => !f.keyId).length
            ctr1 := q.ctr1 + (again.filter fun f => f.keyId).length } ∧
          t.dev.out = d.out ++ again.map (.frame p ·) ∧ t.dev.mem = d.mem ∧
          t.dev.regFld errs 16 16 = (if d.regFld errs 16 16 + (q.retry.length - i) < 0xFFFF then d.regFld errs 16 16 + (q.retry.length - i)
            else 0xFFFF)) ∧
        (8 ≤ k → exec (.linkNak p lseq) s = now ((d.setPort p { q with
          nakSeq := lseq, nakCount := 0, state := .retrain, widen := false }).event 0x7004 p 0 lseq 0))) ∧
      (∀ lseq, q.seqAt lseq = none → exec (.linkAck p lseq) s = .next s ∧ exec (.linkNak p lseq) s = .next s) ∧
      (q.ackDue ≠ 0 → exec (.linkAckTimer p) s = now ((d.setPort p { q with ackDue := 0 }).emit (.ack p ((q.expect + 4095) % 4096)))) ∧
      (q.ackDue = 0 → exec (.linkAckTimer p) s = .next s) ∧
      (∀ lseq key, exec (.frameCrcFail p lseq none) s = now ((d.countFld errs 0 16 1).emit (.nak p q.expect)) ∧
        ∃ t, exec (.frameCrcFail p lseq (some key)) s = .next t ∧
          t.dev.reg Reg.FLM_AUTH_FAIL = BitVec.ofNat 32 (min 0xFFFFFFFF ((d.reg Reg.FLM_AUTH_FAIL).toNat + 1)) ∧
          (lseq % 4096 ∈ q.authSeq → (t.dev.port p).state = .down) ∧
          (lseq % 4096 ∉ q.authSeq → t.dev.port p = { q with authSeq := q.authSeq ++ [lseq % 4096] } ∧
            t.dev.out = d.out ++ [.nak p q.expect])) ∧
      (∀ f : Frame, f.lseq = q.expect → f.enc = d.portEnc p → q.ackDue < 63 → d.routeEn = true → 2 ≤ f.kind → badClass f = false → f.dfa ≠ d.fa →
        let d1 := d.setPort p { q with
          expect := (q.expect + 1) % 4096, ackDue := q.ackDue + 1, authSeq := q.authSeq.filter (· ≠ f.lseq) }
        (1 < f.ttl → exec (.frameForward p f) s = now (d1.sendFrame p { f with ttl := f.ttl - 1 })) ∧
        (f.ttl ≤ 1 → exec (.frameForward p f) s = now ((((d1.count Reg.FLM_DISCARD 1).flmError f p 0 1 sParam).event 0x7007 f.dfa f.sfa f.kind
          p).answerTo { f with ttl := f.ttl - 1 } sParam (frameRef f)))) ∧
      (∀ f : Frame, f.lseq ≠ q.expect ∨ f.enc ≠ d.portEnc p → f.dfa ≠ d.fa → exec (.frameForward p f) s = .next s)) ∧
    (∀ i (x : Frame × Nat × Bool), q.waiting[i]? = some x → x.2.2 = false → d.regFld Reg.FLM_CTL 16 16 ≠ 0 →
      1600 * d.regFld Reg.FLM_CTL 16 16 < d.cycle - x.2.1 →
      (∀ j y, j < i → q.waiting[j]? = some y → y.2.2 = true ∨ d.cycle - y.2.1 ≤ 1600 * d.regFld Reg.FLM_CTL 16 16) →
      exec (.frameStallTimeout p) s = now (((d.setPort p { q with waiting := q.waiting.set i (x.1, x.2.1, true) }).event 0x7009 p x.1.cls
        x.1.dfa ((d.cycle - x.2.1) / 1600)).count Reg.FLM_STALL 1)) ∧
    (d.regFld Reg.FLM_CTL 16 16 = 0 → exec (.frameStallTimeout p) s = .next s) ∧
    (∀ who w, who = .host 0 ∨ who = .skeop → d.regsUp who = true → w &&& 0xFFF8 = 0 → (bit w 0 = true → bit (d.reg Reg.FLM_FA) 31 = true) →
      (d.flume.staged.map (·.1)).Nodup → (∀ e ∈ d.flume.staged, e.1 < 8192) → ∃ t, exec (.flmRtCommit who w) s = .next t ∧ t.pending = s.pending ∧
        t.sk = s.sk ∧ t.dev.mem = d.mem ∧ t.dev.flume.staged = [] ∧ t.dev.routeEn = bit w 0 ∧ bit (t.dev.reg Reg.FLM_CTL) 1 = false ∧
        (∀ e ∈ d.flume.staged, t.dev.reg (at1 Reg.FLM_RTd 4 e.1) = e.2) ∧
        ∀ n : Port, d.routeEn = bit w 0 ∨ bit w 0 = false ∨ ((d.port n).waiting = [] ∧ (d.port n).owed = false) →
          t.dev.port n = { d.port n with counted := (d.port n).counted || (decide ((d.port n).state = .up) && decide (d.portMode n = 1)) })

/-- R207, R208, R403, R405, R409, R419, R422, R424, R491: a frame for this device that the link accepts goes, as the packet its header words give, to
the tile that its context's map gives for its destination, and does there what the packet's arrival does; it is logged and answered
with ERR_PERM where no context holds its JOB or that context is pre-empted, and with ERR_PARAM where the tile is unmapped or the Race header
names another KIND or VC (log 201): a HOP message enters its hopper, RING, DATA and PART bytes land or wait at their node, an answer
gives its channel the credit back. A SIG frame of OP 3 is such a packet where the tile's sequencer has the sender as its parent. -/
def Obligations.FramesForTiles : Prop :=
  ∀ (s : State) (p : Port) (f : Frame),
    let d := s.dev
    let q := d.port p
    let row : Option (Instr × PktKind × (Nat → Instr)) :=
      if f.kind = 2 then
        if fld f.arg0 27 3 = 6 then some (.flumeDataFrame p f, .pass, .passPacketArrive) else some (.flumeDataFrame p f, .data, .dataPacketArrive)
      else if f.kind = 3 then (if fld f.arg1 28 4 < 8 then some (.flumeAnswerFrame p f, .answer, .answerPacketArrive) else none)
      else if f.kind = 4 then some (.flumeHopFrame p f, .hop, .hopPacketArrive)
      else if f.kind = 5 then some (.flumeRingFrame p f, .ring, .ringPacketArrive)
      else if f.kind = 7 then some (.flumePartFrame p f, .part, .partPacketArrive)
      else if f.kind = 6 then (if fld f.arg1 16 2 = 3 then some (.flumeSigFrame p f, .sig, .combiningCreditArrive) else none)
      else none
    let d1 := d.setPort p { q with
      expect := (q.expect + 1) % 4096, ackDue := q.ackDue + 1, authSeq := q.authSeq.filter (· ≠ f.lseq) }
    let now := fun (d : Dev) => Host.Outcome.next (φ := Fault) (ρ := Refusal) { s with dev := d }
    ∀ i kind arrive, row = some (i, kind, arrive) →
      (q.state = .up → d.portMode p = 1 → f.lseq = q.expect → f.enc = d.portEnc p → q.ackDue < 63 → d.routeEn = true →
        f.cls = frameClass f.kind → f.dfa = d.fa → f.sfa ≠ d.fa →
        (d.jobCtx f.job = none → exec i s = now ((d1.flmError f p 0 3 sPerm).answerTo f sPerm (frameRef f))) ∧
        (∀ c, d.jobCtx f.job = some c → d.soloReplay c = false → d.capturing c = false → (kind = .sig → (d.creditTile c f).isSome) →
          ((d.img c).state = .preempted → exec i s = now ((d1.flmError f p c 3 sPerm).answerTo f sPerm (frameRef f))) ∧
          ((d.img c).state ≠ .preempted →
            (d.mapTile c (fld f.arg0 11 11) = none → exec i s = now ((d1.flmError f p c 3 sParam).answerTo f sParam (frameRef f))) ∧
            (∀ t, d.mapTile c (fld f.arg0 11 11) = some t → kind ≠ .sig → fld f.arg0 30 2 ≠ kind.vc ∨ fld f.arg0 27 3 ≠ kind.code →
              exec i s = now (((d1.raceError 0 t c 2 sParam).event 0x3002 t (fld f.arg0 0 11)
                (if kind = .part then fld f.arg1 20 12 else fld f.arg1 24 8) sParam).answerTo f sParam (frameRef f))) ∧
            (∀ t, d.mapTile c (fld f.arg0 11 11) = some t → kind ≠ .sig → fld f.arg0 30 2 = kind.vc → fld f.arg0 27 3 = kind.code →
              ∃ pkt : Packet, pkt.kind = kind ∧ pkt.ictx = c ∧ pkt.dst = t ∧ pkt.at_ = t ∧ pkt.src = fld f.arg0 0 11 ∧ pkt.remote = true ∧
                pkt.sfa = f.sfa ∧ pkt.payload = f.payload ∧ pkt.last = bit f.arg2 22 ∧
                (kind = .data ∨ kind = .pass → pkt.id = fld f.arg1 24 8 ∧ pkt.offset = fld f.arg1 0 23) ∧
                (kind = .part → pkt.tag = fld f.arg1 20 12 ∧ pkt.chunk = fld f.arg1 0 20) ∧
                let s1 := { s with dev := d1.inject pkt }
                (s1.dev.arrived d.race.length = none → exec i s = .next s1) ∧
                (s1.dev.arrived d.race.length = some pkt → d.isFenced (t / 8) = false → exec i s = exec (arrive d.race.length) s1) ∧
                (s1.dev.arrived d.race.length = some pkt → d.isFenced (t / 8) = true → exec i s = exec (.packetToFencedTile d.race.length) s1)) ∧
            (∀ t, d.mapTile c (fld f.arg0 11 11) = some t → kind ≠ .sig → fld f.arg0 30 2 = kind.vc → fld f.arg0 27 3 = kind.code →
              (∀ x ∈ d.race, ¬(x.src = fld f.arg0 0 11 ∧ x.dst = t ∧ x.vc = kind.vc ∧ x.remote = true ∧ x.sfa = f.sfa)) →
              d.isFenced (t / 8) = false → (d.img c).halted = false → d.tileCtx t = some c → d.unarmed →
              let tl := d.tile t
              let e := d.seq t
              let pkt := framePacket kind c t f
              let lands := fun (a : Nat) (u : State) => u.pending = s.pending ∧ u.sk = s.sk ∧ u.dev.race = d.race ∧
                ∀ x, Memory.byte u.dev.mem x = if a ≤ x ∧ x < a + f.payload.length then f.payload[x - a]? else Memory.byte d.mem x
              (kind = .hop → ∀ h : Fin 8, h.val = fld f.arg1 24 8 % 8 → tl.hop[h].closed = false → ∃ x : HopEntry,
                x.data = BitVec.ofNat 64 (leAt f.payload 0 8) ∧ x.half = false ∧ x.remote = some f.sfa ∧ x.src = fld f.arg0 0 11 ∧
                exec i s = now (d1.setTile t { tl with hop := tl.hop.set h { tl.hop[h] with entries := tl.hop[h].entries ++ [x] } })) ∧
              (kind = .ring → ∀ r, Tab.find tl.rings (fld f.arg1 24 8 % 4) = some r → r.closed = false → bit f.arg2 22 = false →
                ¬((if r.part = 0 then leAt f.payload 0 2 / 2 ^ 15 % 2 = 1 else r.payload = 0) ∧
                  fld f.arg1 0 23 + f.payload.length = r.size) →
                ∃ u, exec i s = .next u ∧ lands (ctxAddr t (d.ctx t 0) (r.base + fld f.arg1 0 23)) u) ∧
              (kind = .data → (d1.inject pkt).portAct pkt = .accept c → bit f.arg2 22 = false →
                ∀ k x, e.findId 2 (fld f.arg1 24 8) = some k → e.entries[k]? = some x →
                  fld f.arg1 0 23 + f.payload.length ≤ recvSize x.w → x.count + f.payload.length ≤ recvExpect x.w → ∃ u,
                    exec i s = .next u ∧ lands (tileAddr t ((d.ctx t 0).base.toNat + recvBase x.w + fld f.arg1 0 23)) u) ∧
              (kind = .part → (d1.inject pkt).portAct pkt = .accept c → ∀ k x j, e.findTag (fld f.arg1 20 12) = some k →
                e.entries[k]? = some x → d.childNo x.w pkt = some j → 256 * fld f.arg1 0 20 < rnLen x.w →
                exec i s = now (d1.setSeq t { e with entries := e.entries.set k { x with
                  inputs := x.inputs ++ [(j, fld f.arg1 0 20, f.payload)], kidFa := Tab.put x.kidFa j f.sfa } })) ∧
              (kind = .answer → fld f.arg1 28 4 = 2 → Tab.rising 0 tl.chans = true → ∀ m ch, Tab.find tl.chans m = some ch →
                ch.ring = false → ch.num = fld f.arg1 0 23 % 8 → ch.remote = true → ch.dfa = f.sfa → ch.dtile = fld f.arg0 0 11 → ∃ u,
                  exec i s = .next u ∧ u.sk = s.sk ∧ u.dev.race = d.race ∧ u.dev.mem = d.mem ∧
                  Tab.find (u.dev.tile t).chans m = some (if fld f.arg1 24 4 = sOk then { ch with credit := ch.credit + 1 }
                    else if fld f.arg1 24 4 = sClosed then { ch with state := .closed }
                    else if fld f.arg1 24 4 = sFenced then { ch with state := .fenced } else ch))) ∧
            (∀ t, d.mapTile c (fld f.arg0 11 11) = some t → kind = .sig → exec i s = now (d1.creditArrive { packet .sig c t t with
              tag := fld f.arg1 0 12, chunk := f.arg2.toNat }))))) ∧
      (q.state ≠ .up → d.soloReplay ((d.jobCtx f.job).getD 16) = false → f.sfa ≠ d.fa → exec i s = .next s)

/-- R409, R427 to R429, R432, R555: an UP port sends a time request each millisecond and answers one; an answer from UPPORT measures a
delay and an offset, of which the first leaves FREE and the eighth in a row within 20 ns locks; without UPPORT for 10 ms time holds over and
slews no more; a new master's first accepted edge takes it through ACQUIRE; an edge of SYNC_PPS that is too short is ignored, one out of place is rejected; queue pairs go back N, halve and recover their rate. -/
def Obligations.TimeAndQueuePairs : Prop :=
  ∀ (s : State) (p : Port),
    let d := s.dev
    let q := d.port p
    let g := d.flume.time
    let l := d.lehr
    let now := fun (d : Dev) => Host.Outcome.next (φ := Fault) (ρ := Refusal) { s with dev := d }
    let ns : Word := BitVec.ofNat 32 d.globalNs
    (q.state = .up → d.portMode p = 1 →
      (1600000 ≤ d.cycle - q.timeOut → exec (.timeExchangeTimer p) s =
        now ((d.setPort p { q with timeOut := d.cycle }).sendOn p (d.timeFrame ns 0 0))) ∧
      (d.cycle - q.timeOut < 1600000 → exec (.timeExchangeTimer p) s = .next s) ∧
      (∀ f : Frame, f.kind = 1 → f.cls = 0 → f.lseq = q.expect → f.enc = d.portEnc p → q.ackDue < 63 →
        let d1 := d.setPort p { q with
          expect := (q.expect + 1) % 4096, ackDue := q.ackDue + 1, authSeq := q.authSeq.filter (· ≠ f.lseq) }
        let d2 := if p.val = d.upPort then { d1 with flume := { d1.flume with time := { g with last := d.cycle } } } else d1
        (f.arg1 = 0 → f.arg2 = 0 → exec (.timeFrame p f) s = now (d2.sendOn p (d.timeFrame f.arg0 ns ns))) ∧
        (f.arg1 ≠ 0 ∨ f.arg2 ≠ 0 → d.timeMaster = true ∨ p.val ≠ d.upPort → exec (.timeFrame p f) s = now d2) ∧
        (f.arg1 ≠ 0 ∨ f.arg2 ≠ 0 → d.timeMaster = false → p.val = d.upPort →
          let o : Int := ((f.arg1 - f.arg0).toInt - (ns - f.arg2).toInt) / 2
          ∃ t, exec (.timeFrame p f) s = .next t ∧ t.pending = s.pending ∧ t.sk = s.sk ∧ t.dev.mem = d.mem ∧
            t.dev.regFld Reg.FLM_TIME_STAT 0 16 = offsetField o ∧ t.dev.flume.time.last = d.cycle ∧
            t.dev.flume.time.delay = ((f.arg1 - f.arg0).toInt + (ns - f.arg2).toInt) / 2 ∧
            (g.state = 0 → t.dev.flume.time.state = 1) ∧ (20 < o.natAbs → t.dev.flume.time.good = 0) ∧
            (g.state = 1 ∨ g.state = 3 → o.natAbs ≤ 20 → 7 ≤ g.good → t.dev.flume.time.state = 2) ∧
            (g.state = 1 ∨ g.state = 3 → o.natAbs ≤ 20 → g.good < 7 → t.dev.flume.time.state = g.state ∧ t.dev.flume.time.good = g.good + 1) ∧
            (g.state = 1 → 0 < o → g.stepped = false → t.dev.flume.time.base = d.global1024 + o.toNat * 1024 ∧ t.dev.flume.time.slew = 0) ∧
            (o ≤ 0 ∨ (g.state ≠ 0 ∧ g.state ≠ 1) → t.dev.flume.time.base = d.global1024 ∧ t.dev.flume.time.slew = o)))) ∧
    (q.state ≠ .up → exec (.timeExchangeTimer p) s = .next s ∧ ∀ f : Frame, exec (.timeFrame p f) s = .next s) ∧
    (d.timeMaster = false → g.state = 1 ∨ g.state = 2 →
      (16000000 ≤ d.cycle - g.last → ∃ t, exec .timeHoldoverTimeout s = .next t ∧ t.dev.flume.time = { g with
          state := 3, good := 0, stepped := false, base := d.global1024, at_ := d.cycle, slew := 0 } ∧
        t.pending = s.pending ∧ t.dev.mem = d.mem) ∧
      (d.cycle - g.last < 16000000 → exec .timeHoldoverTimeout s = .next s)) ∧
    (∀ w, let gap := match l.ppsLast with
        | some t => (d.cycle - t) * 5 / 8
        | none => 0
      let fits := w ≤ 500000000 ∧ (l.ppsLast = none ∨ (999900000 ≤ gap ∧ gap ≤ 1000100000))
      (w < 1000 ∨ (∃ h ∈ l.held, h.1 = 1) → exec (.syncPpsEdge w) s = .next s) ∧
      (1000 ≤ w → (∀ h ∈ l.held, h.1 ≠ 1) →
        (¬fits → exec (.syncPpsEdge w) s = now ((d.count Reg.GOV_PPS_REJ 1).event 0x900A 0 (w / 1000) (min 0xFFFFFFFF (gap / 1000)) 0)) ∧
        (fits → d.ppsEn = false → exec (.syncPpsEdge w) s = now { d with
          lehr := { l with ppsLast := some d.cycle, ppsLost := false, active := l.active &&& 0x1FF } }) ∧
        (fits → d.ppsEn = true → ∃ t, exec (.syncPpsEdge w) s = .next t ∧ t.pending = s.pending ∧ t.dev.lehr.ppsLast = some d.cycle ∧
          t.dev.lehr.ppsLost = false ∧ t.dev.regFld Reg.FLM_TIME_STAT 0 16 = offsetField d.ppsOffset ∧
          (g.newMaster = true → t.dev.flume.time.newMaster = false ∧ t.dev.flume.time.state = 1)))) ∧
    (l.ppsLost = false → 3200000000 ≤ d.cycle - l.ppsLast.getD l.opSince → ∃ t, exec .ppsTimeout s = .next t ∧ t.pending = s.pending ∧
      t.dev.lehr.ppsLost = true ∧ t.dev.lehr.ppsLast = none ∧ t.dev.lehr.active = l.active ||| 0x200 ∧ t.dev.mem = d.mem) ∧
    (l.ppsLost = true ∨ d.cycle - l.ppsLast.getD l.opSince < 3200000000 → exec .ppsTimeout s = .next s) ∧
    (∀ k : Fin 2, let r := d.qpair p k
      (d.ethUp p = true →
        exec (.roceCnp p k) s = now (d.setQpair p k { r with rate := r.rate / 2 }) ∧
        exec (.roceRateRecover p k) s = now (d.setQpair p k { r with rate := min 1000000 (r.rate + 50000) }) ∧
        ∀ psn, let back := (r.psn + 2 ^ 24 - psn) % 2 ^ 24
          (back ≤ (r.psn + 2 ^ 24 - r.unacked) % 2 ^ 24 → ∃ t, exec (.roceNak p k psn) s = .next t ∧
            t.dev.qpair p k = { r with unacked := psn % 2 ^ 24 } ∧ t.pending = s.pending ∧ t.dev.mem = d.mem ∧
            t.dev.out = d.out ++ (List.range back).map fun i => .roce p k ((psn + i) % 2 ^ 24)) ∧
          ((r.psn + 2 ^ 24 - r.unacked) % 2 ^ 24 < back → exec (.roceNak p k psn) s = .next s)) ∧
      (d.ethUp p = false → exec (.roceCnp p k) s = .next s ∧ exec (.roceRateRecover p k) s = .next s ∧ ∀ psn, exec (.roceNak p k psn) s = .next s))

/-! ### The Race: exchange phases, packets, arrivals (R194 to R228, R256 to R269) -/

/-- R195, R196, R198, R202 to R206, R220 to R226: the release starts the setup pass; a program too long, misaligned or out of bounds is
refused with XSTAT written and the context stopped; one whose every entry passes its checks opens the tile port, with each node's credits on
their way to its children, up to the first SEND or STREAM; SEND and STREAM entries issue in order, a lead-in after the end of its phase too; a
node combines its next chunk when every input and its credit are there; the phase ends when every entry has completed, and the
waiters at the superstep barrier are released with the status of XSTAT. -/
def Obligations.ExchangePhases : Prop :=
  ∀ (s : State) (t : TileIx) (c : Nat), s.dev.xchOf t = some c →
    let d := s.dev
    let q := d.seq t
    let k := d.ctx t 0
    let xcb := d.xcbAddr t
    let now := fun (d : Dev) => Host.Outcome.next (φ := Fault) (ρ := Refusal) { s with dev := d }
    (q.stage = .due → exec (.exchangeRelease t) s = now (d.setSeq t { q with stage := .setup, start := d.cycle, entries := [], pos := 0 })) ∧
    (q.stage ≠ .due → exec (.exchangeRelease t) s = .next s) ∧
    (q.stage ≠ .setup → exec (.exchangeSetupEnd t) s = .next s) ∧
    (q.stage = .setup → d.clean xcb 64 = true → d.unarmed →
      let prog := leAt (d.bytesAt xcb 64) 0 4
      let n := leAt (d.bytesAt xcb 64) 4 2
      let fails := fun (st : Nat) => ∃ u, exec (.exchangeSetupEnd t) s = .next u ∧ u.pending = s.pending ∧ u.sk = s.sk ∧ u.dev.race = d.race ∧
        Memory.bytes u.dev.mem 4 (xcb + 8) = some (bytesOf 4 (0x1FFF * 2 ^ 16 + st)) ∧ (u.dev.img c).state = .stopped ∧ (u.dev.img c).cause = 5
      (4096 < n → fails sLen) ∧
      (n ≤ 4096 → prog % 32 ≠ 0 → fails sParam) ∧
      (0 < n → n ≤ 4096 → prog % 32 = 0 → inBound k.bound.toNat prog (32 * n) = false → fails sBound) ∧
      (n = 0 → prog % 32 = 0 → exec (.exchangeSetupEnd t) s = now (d.setSeq t { q with stage := .opened, entries := [], pos := 0 })) ∧
      (0 < n → n ≤ 4096 → prog % 32 = 0 → inBound k.bound.toNat prog (32 * n) = true → d.clean (ctxAddr t k prog) (32 * n) = true →
        let ws := (List.range n).map fun i => wordsOf 8 (d.bytesAt (ctxAddr t k prog + 32 * i) 32)
        (∀ i w, ws[i]? = some w → d.entryStatus c k.bound.toNat ws i w = sOk ∧
            (xKind w = 6 → ∃ sw, d.checkDesc t 0 (queueKey t (strQueue w)) (strDesc w) = (d, sOk, sw))) → ∃ u rest,
          exec (.exchangeSetupEnd t) s = .next u ∧ u.pending = s.pending ∧ u.sk = s.sk ∧ u.dev.mem = d.mem ∧
          u.dev.race = d.race ++ rest ∧ (∀ x ∈ rest, x.kind = .sig ∧ x.src = t.val ∧ x.ictx = c) ∧ (u.dev.seq t).stage = .opened ∧
          (u.dev.seq t).entries.map (·.w) = ws ∧ (u.dev.seq t).pos ≤ n ∧
          ∀ j w, ws[j]? = some w → (j < (u.dev.seq t).pos → xKind w ≠ 1 ∧ xKind w ≠ 6) ∧
            (j = (u.dev.seq t).pos → xKind w = 1 ∨ xKind w = 6))) ∧
    (∀ e, q.stage = .opened → q.entries[q.pos]? = some e → xKind e.w = 1 →
      let src := tileAddr t (k.base.toNat + sendSrc e.w + 256 * e.next)
      let m := min 256 (sendLen e.w - 256 * e.next)
      let last := decide (sendLen e.w ≤ 256 * e.next + 256)
      let q' : XSeq := { q with
        entries := q.entries.set q.pos { e with next := e.next + 1, issued := last }, pos := if last then q.pos + 1 else q.pos }
      let pkt := { packet (if sendPass e.w then .pass else .data) c t 0 with
        id := xId e.w, offset := (sendDoff e.w + 256 * e.next) % 2 ^ 23, last := last, payload := d.bytesAt src m, ref := q.pos }
      d.clean src m = true →
        (xRemote e.w = false → ∀ u, d.mapTile c (sendDtile e.w) = some u →
          exec (.sendPacketIssue t) s = now ((d.setSeq t (q'.skip q.entries.length)).inject { pkt with dst := u })) ∧
        (xRemote e.w = true → exec (.sendPacketIssue t) s = now ((d.setSeq t (q'.skip q.entries.length)).sendFrame 32 (d.packetFrame
          { pkt with remote := true, dst := sendDtile e.w, src := (d.logical t).getD 0, dfa := sendDfa e.w, sfa := d.fa } 2)))) ∧
    (∀ e, q.stage = .opened ∨ q.stage = .ended → q.entries[q.pos]? = some e → xKind e.w = 6 →
      let key := queueKey t (strQueue e.w)
      let q' : XSeq := { q with entries := q.entries.set q.pos { e with issued := true }, pos := q.pos + 1 }
      ((d.queue key).halt = none → (d.queue key).descs.length < 8 → exec (.streamEntryIssue t) s =
        now ((d.setSeq t (q'.skip q.entries.length)).pushDesc key e.sw k.base.toNat k.bound.toNat (some q.pos))) ∧
      ((d.queue key).halt = none → 8 ≤ (d.queue key).descs.length → exec (.streamEntryIssue t) s = .next s) ∧
      (∀ st, (d.queue key).halt = some st → ∃ u, exec (.streamEntryIssue t) s = .next u ∧ u.sk = s.sk ∧ (u.dev.img c).state = .stopped ∧
        (u.dev.img c).cause = 5)) ∧
    (∀ i e, q.stage = .opened → q.entries[i]? = some e → xKind e.w = 4 → 256 * e.next < rnLen e.w → rnRoot e.w = true ∨ 0 < e.credit →
      let m := min 256 (rnLen e.w - 256 * e.next)
      ∀ own ins : List (List Byte), ins.length = rnIn e.w →
        (rnLocal e.w = false → own = []) →
        (rnLocal e.w = true → ∃ ri re, q.localRed (xTag e.w) = some (ri, re) ∧
          let src := tileAddr t (k.base.toNat + redSrc re.w + 256 * e.next)
          d.clean src m = true ∧ own = [d.bytesAt src m]) →
        (∀ j bs, ins[j]? = some bs → bs.length = m ∧ e.inputs.find? (fun x => decide (x.1 = j ∧ x.2.1 = e.next)) = some (j, e.next, bs)) →
        let sum := combine (rnBf16 e.w) m (own ++ ins)
        exec (.redChunkCombine t i) s =
          now (((({ d with freeIx := d.freeIx + 1 } : Dev).count Reg.RACE_RED_SAT sum.2).sendSum c t i e sum.1).sendCredits c t e 1) ∧
        (xRemote e.w = false → ∀ u, d.mapTile c (rnPtile e.w) = some u → ∃ v, exec (.redChunkCombine t i) s = .next v ∧ v.pending = s.pending ∧
          v.sk = s.sk ∧ v.dev.mem = d.mem ∧ (∀ x, (v.dev.seq t).entries[i]? = some x → x.next = e.next + 1 ∧
            (∀ y ∈ x.inputs, y.2.1 ≠ e.next) ∧ (rnRoot e.w = false → x.credit = e.credit - 1)) ∧
          ∃ pkt rest, v.dev.race = d.race ++ [pkt] ++ rest ∧ pkt.dst = u ∧ pkt.src = t.val ∧ pkt.payload = sum.1 ∧
            (∀ x ∈ rest, x.kind = .sig ∧ x.tag = xTag e.w ∧ x.chunk = 1) ∧
            (rnRoot e.w = true → pkt.kind = .data ∧ pkt.id = rnDrid e.w ∧ pkt.offset = (rnDoff e.w + 256 * e.next) % 2 ^ 23) ∧
            (rnRoot e.w = false → pkt.kind = .part ∧ pkt.tag = xTag e.w ∧ pkt.chunk = e.next))) ∧
    (q.stage = .opened → q.entries.all q.entryOver = true → d.unarmed → ∃ u, exec (.exchangePhaseEnd t) s = .next u ∧
      u.pending = s.pending ∧ u.sk = s.sk ∧ u.dev.seq t = { q with stage := .ended, waiters := [] } ∧ u.dev.race = d.race ∧
      Memory.bytes u.dev.mem 8 (xcb + 8) = some (bytesOf 4 (0x1FFF * 2 ^ 16 + sOk) ++ bytesOf 4 (min 0xFFFFFFFF (d.cycle - q.start))) ∧
      ∀ x, x < xcb + 8 ∨ xcb + 16 ≤ x → Memory.byte u.dev.mem x = Memory.byte d.mem x) ∧
    (q.stage ≠ .opened ∨ q.entries.all q.entryOver = false → exec (.exchangePhaseEnd t) s = .next s)

/-- R212 to R216, R219, R226: a packet whose leg began in its destination's mill crosses the crossbar in one step, and any other the mesh one
router at a time, along X and then Y, or from the router before a blocked one along Y and then X, and each step brings it nearer; what
else a move does is to count, by chance, a corrected link error (log 200); an uncorrectable one takes it from the Race and is
an exchange error; at a fenced tile it is counted and discarded, and a DATA, PASS or PART packet is answered with ERR_FENCED. -/
def Obligations.PacketMovement : Prop :=
  ∀ (s : State) (n : Nat),
    let d := s.dev
    let dist := fun (a b : Nat) => ((meshOf a).1 - (meshOf b).1) + ((meshOf b).1 - (meshOf a).1) + (((meshOf a).2 - (meshOf b).2) +
      ((meshOf b).2 - (meshOf a).2))
    (d.race[n]? = none → exec (.packetHop n) s = .next s ∧ exec (.linkUe n) s = .next s) ∧
    let ce := d.linkCe
    ({ ce with freeIx := d.freeIx, regs := d.regs } = d ∧ ∀ o, o ≠ Reg.RACE_LINK_CE → ce.reg o = d.reg o) ∧
    (∀ p, d.race[n]? = some p → p.at_ < 1728 → p.dst < 1728 →
      (p.at_ = p.dst → exec (.packetHop n) s = .next s) ∧
      (p.at_ ≠ p.dst → p.leg / 8 = p.dst / 8 →
        exec (.packetHop n) s = .next { s with dev := { ce with race := d.race.set n { p with at_ := p.dst } } }) ∧
      (p.at_ ≠ p.dst → p.leg / 8 ≠ p.dst / 8 → ∃ a esc u, exec (.packetHop n) s = .next u ∧ u.pending = s.pending ∧ u.sk = s.sk ∧
        u.dev.race = d.race.set n { p with at_ := a, escape := esc } ∧ a < 1728 ∧ dist a p.dst + 1 = dist p.at_ p.dst ∧
        (esc = true ↔ p.escape = true ∨ d.blocked (nextHop false p.at_ p.dst) = true) ∧
        ((meshOf a).1 = (meshOf p.at_).1 ∨ (meshOf a).2 = (meshOf p.at_).2) ∧
        (esc = false → (meshOf p.at_).1 ≠ (meshOf p.dst).1 → (meshOf a).2 = (meshOf p.at_).2) ∧
        (esc = true → (meshOf p.at_).2 ≠ (meshOf p.dst).2 → (meshOf a).1 = (meshOf p.at_).1) ∧
        (p.escape = esc → { u.dev with race := d.race } = ce) ∧
        (p.escape ≠ esc → u.dev.reg Reg.RACE_DETOUR = BitVec.ofNat 32 (min 0xFFFFFFFF ((d.reg Reg.RACE_DETOUR).toNat + 1)))) ∧
      (∃ u, exec (.linkUe n) s = .next u ∧ u.pending = s.pending ∧ u.sk = s.sk ∧ u.dev.race = d.race.eraseIdx n ∧ u.dev.mem = d.mem ∧
        ((d.img p.ictx).state = .running → (d.img p.ictx).halted = false → (u.dev.img p.ictx).state = .stopped ∧
          (u.dev.img p.ictx).cause = 5))) ∧
    (d.arrived n = none → exec (.packetToFencedTile n) s = .next s) ∧
    (∀ p, d.arrived n = some p →
      (d.isFenced (p.dst / 8) = false → exec (.packetToFencedTile n) s = .next s) ∧
      (d.isFenced (p.dst / 8) = true → ∃ u, exec (.packetToFencedTile n) s = .next u ∧ u.pending = s.pending ∧ u.sk = s.sk ∧
        u.dev.mem = d.mem ∧ u.dev.tiles = d.tiles ∧ u.dev.imgs = d.imgs ∧
        u.dev.reg Reg.RACE_FENCED = BitVec.ofNat 32 (min 0xFFFFFFFF ((d.reg Reg.RACE_FENCED).toNat + 1)) ∧
        (p.remote = false → p.kind ≠ .answer → p.kind ≠ .sig → u.dev.race = d.race.eraseIdx n ++
          [{ packet .answer p.ictx p.dst p.src with id := sFenced, ref := p.ref, answers := p.kind, last := p.last }]) ∧
        (p.kind = .answer ∨ p.kind = .sig → u.dev.race = d.race.eraseIdx n)))

/-- R204, R206, R222, R224, R227, R256, R259 to R269: where the tile port takes a DATA packet its payload lands in the region its RID
names and is counted, and the LAST packet is answered; one that names no region or overruns it is refused and stops the context; PASS
packets go on along their chain; PART packets become inputs of their node; answers complete SEND entries and give hopper channels
their credits back; combining credits add up; a HOP packet enters its hopper and a RING packet its ring, unless
it is CLOSED; the last packet of a record, or of a wrap marker at the ring's end, moves WR on. -/
def Obligations.PacketArrivals : Prop :=
  ∀ (s : State) (n : Nat) (p : Packet), s.dev.arrived n = some p → s.dev.unarmed →
    let d := s.dev
    let t := p.dst
    let q := d.seq t
    let tl := d.tile t
    let base := (d.ctx t 0).base.toNat
    let left := d.race.eraseIdx n
    let now := fun (d : Dev) => Host.Outcome.next (φ := Fault) (ρ := Refusal) { s with dev := d }
    let back := fun (st : Nat) => { packet .answer p.ictx t p.src with id := st, ref := p.ref, answers := p.kind, last := p.last }
    let lands := fun (a : Nat) (u : State) => u.pending = s.pending ∧ u.sk = s.sk ∧
      ∀ x, Memory.byte u.dev.mem x = if a ≤ x ∧ x < a + p.payload.length then p.payload[x - a]? else Memory.byte d.mem x
    let stops := fun (c st : Nat) (o : Host.Outcome State Fault Refusal) => ∃ u, o = .next u ∧ u.pending = s.pending ∧ u.sk = s.sk ∧
      u.dev.mem = d.mem ∧ (u.dev.img c).state = .stopped ∧ (u.dev.img c).cause = 5 ∧ (p.remote = false → u.dev.race = left ++ [back st])
    let bulk := fun (row : Instr) =>
      (d.portAct p = .wait → exec row s = .next s) ∧ (d.portAct p = .discard → exec row s = now { d with race := left }) ∧
      (∀ c, d.portAct p = .refuse c → stops c sParam (exec row s))
    (p.kind = .data → bulk (.dataPacketArrive n)) ∧ (p.kind = .pass → bulk (.passPacketArrive n)) ∧
    (p.kind = .part → bulk (.partPacketArrive n)) ∧
    (∀ c, p.kind = .data → d.portAct p = .accept c →
      (q.findId 2 p.id = none → stops c sParam (exec (.dataPacketArrive n) s)) ∧
      ∀ i e, q.findId 2 p.id = some i → q.entries[i]? = some e →
        (recvSize e.w < p.offset + p.payload.length → stops c sBound (exec (.dataPacketArrive n) s)) ∧
        (p.offset + p.payload.length ≤ recvSize e.w → recvExpect e.w < e.count + p.payload.length → stops c sLen (exec (.dataPacketArrive n) s)) ∧
        (p.offset + p.payload.length ≤ recvSize e.w → e.count + p.payload.length ≤ recvExpect e.w → p.tag ≠ 1 ∨ p.last = false → ∃ u x,
          exec (.dataPacketArrive n) s = .next u ∧ lands (tileAddr t (base + recvBase e.w + p.offset)) u ∧
          (u.dev.seq t).entries[i]? = some x ∧ x.w = e.w ∧ x.count = e.count + p.payload.length ∧
          (p.remote = false → u.dev.race = if p.last then left ++ [back sOk] else left))) ∧
    (∀ c i e j r, p.kind = .pass → d.portAct p = .accept c → q.findId 5 p.id = some i → q.entries[i]? = some e →
      q.findId 2 (passRid e.w) = some j → q.entries[j]? = some r → p.offset + p.payload.length ≤ recvSize r.w →
      r.count + p.payload.length ≤ recvExpect r.w → ∃ u, exec (.passPacketArrive n) s = .next u ∧
        lands (tileAddr t (base + recvBase r.w + p.offset)) u ∧
        (passEnd e.w = false → ∀ v, d.mapTile c (passNext e.w) = some v →
          u.dev.race = left ++ [{ p with at_ := t, leg := t, dst := v, escape := false }]) ∧
        (passEnd e.w = true → p.remote = false → u.dev.race = if p.last then left ++ [back sOk] else left)) ∧
    (∀ c, p.kind = .part → d.portAct p = .accept c →
      (q.findTag p.tag = none → stops c sParam (exec (.partPacketArrive n) s)) ∧
      ∀ i e j, q.findTag p.tag = some i → q.entries[i]? = some e → d.childNo e.w p = some j →
        (rnLen e.w ≤ 256 * p.chunk → stops c sLen (exec (.partPacketArrive n) s)) ∧
        (256 * p.chunk < rnLen e.w → exec (.partPacketArrive n) s = now (({ d with race := left } : Dev).setSeq t { q with
          entries := q.entries.set i { e with
            inputs := e.inputs ++ [(j, p.chunk, p.payload)], kidFa := if p.remote then Tab.put e.kidFa j p.sfa else e.kidFa } }))) ∧
    (∀ c, d.tileCtx t = some c → c = p.ictx → d.isFenced (t / 8) = false → (d.img c).halted = false →
      (∀ i e, p.kind = .answer → p.answers = .data → p.remote = false → p.ref = i → q.entries[i]? = some e → xKind e.w = 1 →
        (d.img c).state = .running →
        (p.id = sOk → exec (.answerPacketArrive n) s = now (({ d with race := left } : Dev).setSeq t { q with
          entries := q.entries.set i { e with done := true } })) ∧
        (p.id ≠ sOk → ∃ u, exec (.answerPacketArrive n) s = .next u ∧ u.sk = s.sk ∧ u.dev.race = left ∧ (u.dev.img c).state = .stopped ∧
          (u.dev.img c).cause = 5)) ∧
      (∀ m ch, p.kind = .answer → p.answers = .hop → p.remote = false → Tab.find tl.chans m = some ch → ch.ring = false →
        ch.num = p.ref % 8 → ch.remote = false → d.mapTile c ch.dtile = some p.src → Tab.rising 0 tl.chans = true → ∃ u,
          exec (.answerPacketArrive n) s = .next u ∧ u.sk = s.sk ∧ u.dev.race = left ∧ u.dev.mem = d.mem ∧
          Tab.find (u.dev.tile t).chans m = some (if p.id = sOk then { ch with credit := ch.credit + 1 } else if p.id = sClosed
            then { ch with state := .closed } else if p.id = sFenced then { ch with state := .fenced } else ch)) ∧
      (∀ i e, p.kind = .sig → q.findTag p.tag = some i → q.entries[i]? = some e → exec (.combiningCreditArrive n) s =
        now (({ d with race := left } : Dev).setSeq t { q with entries := q.entries.set i { e with credit := e.credit + p.chunk } })) ∧
      (p.kind = .hop → ∀ h : Fin 8, h.val = p.id % 8 →
        (tl.hop[h].closed = false → ∃ x : HopEntry, x.data = BitVec.ofNat 64 (leAt p.payload 0 8) ∧ x.half = false ∧
          exec (.hopPacketArrive n) s = now (({ d with race := left } : Dev).setTile t { tl with
            hop := tl.hop.set h { tl.hop[h] with entries := tl.hop[h].entries ++ [x] } })) ∧
        (tl.hop[h].closed = true → p.remote = false → ∃ u, exec (.hopPacketArrive n) s = .next u ∧ u.dev.tiles = d.tiles ∧
          u.dev.race = left ++ [back sClosed])) ∧
      (p.kind = .ring → ∀ r, Tab.find tl.rings (p.id % 4) = some r →
        let marker := if r.part = 0 then leAt p.payload 0 2 / 2 ^ 15 % 2 = 1 else r.payload = 0
        let whole := p.last = true ∨ (marker ∧ p.offset + p.payload.length = r.size)
        (r.closed = true → p.remote = false → ∃ u, exec (.ringPacketArrive n) s = .next u ∧ u.dev.tiles = d.tiles ∧
          u.dev.race = left ++ [back sClosed]) ∧
        (r.closed = false → ¬whole → ∃ u, exec (.ringPacketArrive n) s = .next u ∧
          lands (ctxAddr t (d.ctx t 0) (r.base + p.offset)) u ∧ u.dev.race = left ∧ ∃ r', Tab.find (u.dev.tile t).rings (p.id % 4) = some r' ∧
          r'.part = r.part + p.payload.length ∧ r'.wr = r.wr) ∧
        (r.closed = false → whole → ∃ u r', exec (.ringPacketArrive n) s = .next u ∧ u.dev.race = left ∧
          Tab.find (u.dev.tile t).rings (p.id % 4) = some r' ∧ r'.part = 0 ∧ r'.wr = r.wr + r.part + p.payload.length ∧
          Memory.bytes u.dev.mem 8 (ctxAddr t (d.ctx t 0) r.ctrl) = some (bytesOf 4 (r'.wr % 2 ^ 32) ++ bytesOf 4 (r.freed % 2 ^ 32)))))

/-! ### The collective engine and the step commit (R311 to R372, R419 to R423) -/

/-- R312, R314, R316, R325, R329 to R332, R334, R340, R348, R349, R354, R360: an operation whose trigger has fired and whose turn it is runs,
or fails its checks before any request is sent; a gather names its generation and sends one request per remote shard; an
operation that is over writes its status entry and then signals DONE once, and fails where the entry cannot be written; a peer that does
not answer in time fails it; every failure stops the context. -/
def Obligations.CollectiveProgress : Prop :=
  ∀ (s : State) (c : ICtx) (op : Nat),
    let d := s.dev
    let now := fun (d : Dev) => Host.Outcome.next (φ := Fault) (ρ := Refusal) { s with dev := d }
    (d.cxOp c op = none → exec (.collectiveStart c op) s = .next s ∧ exec (.collectiveFinish c op) s = .next s ∧
      exec (.collectiveTimeout c op) s = .next s) ∧
    ∀ o, d.cxOp c op = some o →
      let w := o.w
      let n := (d.rankTable c (oRt w)).length
      let same := fun (u : State) => u.pending = s.pending ∧ u.sk = s.sk
      let fails := fun (i : Instr) => ∃ u, exec i s = .next u ∧ same u ∧ (u.dev.cxOp c op).map (·.stage) = some .failed ∧
        (c.val, op) ∉ u.dev.cxRun ∧ (u.dev.img c).state = .stopped ∧ (u.dev.img c).cause = 7
      let o' : CxOp := { o with stage := .running, started := true, start := d.cycle }
      let run := d.cxRun ++ [(c.val, op)]
      (o.stage ≠ .waiting ∨ d.mayStart c op = false → exec (.collectiveStart c op) s = .next s) ∧
      (o.stage = .waiting → d.mayStart c op = true →
        let ok := fun (good : Prop) => (¬good → fails (.collectiveStart c op))
        (oKind w = 1 → ∀ x, (d.coll c).tensors[oTensor w]? = some x →
          let rt := d.rankTable c x.rt
          let g := if gSel w then (x.cur + 2 ^ 32 - 1) % 2 ^ 32 else x.cur
          ok (gFirst w + gNsh w ≤ rt.length) ∧
          (gDsp w = false → ok (oAddr w 4 + gNsh w * x.shb ≤ d.vlim c)) ∧
          (gDsp w = true → d.mapTile c (gTile w) = none → fails (.collectiveStart c op)) ∧
          (gDsp w = true → ∀ t, d.mapTile c (gTile w) = some t → ok (oAddr w 4 % 2 ^ 23 + gNsh w * x.shb ≤ (d.ctx t 0).bound.toNat)) ∧
          (d.gatherCheck c w x = sOk → (∀ j, j < gNsh w → rt.getD (gFirst w + j) 0 ≠ d.fa) → ∃ u, exec (.collectiveStart c op) s = .next u ∧
            same u ∧ u.dev.mem = d.mem ∧ u.dev.cxRun = run ∧ u.dev.cxOp c op = some { o' with
              gen := g, pend := o.pend ++ (List.range (gNsh w)).map fun j =>
                { peer := rt.getD (gFirst w + j) 0, segment := 0, key := j, sent := d.cycle } }) ∧
          (let d0 : Dev := ({ d.putOp c op o' with cxWait := d.cxWait.filter (· ≠ (c.val, op)), cxRun := run } : Dev).putOp c op { o' with gen := g }
            ∀ d1 bs d2, d.gatherCheck c w x = sOk → gNsh w = 1 → rt.getD (gFirst w) 0 = d.fa → x.holds g = true →
              d0.engineRead 11 c (x.buf g) x.shb = (d1, bs, none) → d1.parisonWrite c w 0 bs = (d2, none) →
              exec (.collectiveStart c op) s = now (d2.addBytes c op bs.length))) ∧
        (oKind w = 2 →
          let seg := oSegn w * rscWidth w
          let fits := oAddr w 4 + n * seg ≤ d.vlim c ∧ oAddr w 6 + seg ≤ d.vlim c
          ok fits ∧ (fits → exec (.collectiveStart c op) s =
            now { d.putOp c op o' with cxWait := d.cxWait.filter (· ≠ (c.val, op)), cxRun := run })) ∧
        (oKind w = 3 → (xCdb w = false → bit (d.reg (at1 Reg.FLM_CX_CTLc 4 c)) 0 = true → fails (.collectiveStart c op)) ∧
          ok (oAddr w 4 + n * oSegn w * (if xSt w then 2 else 4) ≤ d.vlim c ∧ oAddr w 6 + oSegn w * (if xDt w then 2 else 4) ≤ d.vlim c ∧
            oAddr w 8 + (if xCdb w then 2 else 1) * (n * rsxFrames w * culletSize (xCfmt w)) ≤ d.vlim c ∧
            oAddr w 10 + n * rsxFrames w * 272 ≤ d.vlim c)) ∧
        (oKind w = 4 → ok (oAddr w 4 + 16 * pCount w ≤ d.vlim c))) ∧
      (o.stage ≠ .running ∨ d.cxOver c o = false → exec (.collectiveFinish c op) s = .next s) ∧
      (o.stage = .running → d.cxOver c o = true → (d.cxStatus c op sOk o.bytes).2 ≠ none →
        (d.img c).state = .running ∨ (d.img c).state = .preempted → fails (.collectiveFinish c op)) ∧
      (o.stage = .running → d.cxOver c o = true → (d.cxStatus c op sOk o.bytes).2 = none →
        ∃ u, exec (.collectiveFinish c op) s = .next u ∧ same u ∧ u.dev.cxOp c op = some { o with stage := .finished } ∧
          u.dev.cxRun = d.cxRun.filter (· ≠ (c.val, op)) ∧ u.dev.imgs = d.imgs ∧
          (∀ x, oKind w = 4 → (d.coll c).tensors[oTensor w]? = some x →
            (u.dev.coll c).tensors[oTensor w]? = some { x with perm := some op }) ∧
          ((d.img c).state = .preempted → (u.dev.coll c).heldDone = (d.coll c).heldDone ++ [oDone w] ∧ u.dev.syncFly = d.syncFly) ∧
          ((d.img c).state ≠ .preempted → (u.dev.coll c).heldDone = (d.coll c).heldDone ∧
            let phys := (d.translate c (oDone w)).2
            let good := (d.translate c (oDone w)).1 = sOk ∧ (d.obj phys).state ≠ .broken ∧ (d.obj phys).sigs ≠ 0
            (good → u.dev.syncFly = d.syncFly ++
              [{ kind := .signal, phys := phys, bytes := 0, tile := none, waiter := none, ictx := c, vid := oDone w }]) ∧
            (¬good → u.dev.syncFly = d.syncFly)) ∧
          (∀ a d', d.engineXlat c ((d.coll c).cstat + 8 * op) true = (d', .ok false a) → ((d.coll c).cstat + 8 * op) % 8 = 0 → a % 8 = 0 →
            d'.unarmed → Memory.bytes u.dev.mem 8 a =
              some (bytesOf 4 (d.stepLow c % 2 ^ 16 * 2 ^ 16 + sOk) ++ bytesOf 4 (min 0xFFFFFFFF o.bytes)))) ∧
      (let lim := (d.reg (at1 Reg.FLM_CX_TMOc 4 c)).toNat;
        (o.stage = .running → lim ≠ 0 → (d.img c).state = .running → (∃ p ∈ o.pend, p.sent + 1600 * lim ≤ d.cycle) →
          ∃ u, exec (.collectiveTimeout c op) s = .next u ∧ same u ∧ (u.dev.cxOp c op).map (·.stage) = some .failed ∧
            (c.val, op) ∉ u.dev.cxRun ∧ (u.dev.img c).state = .stopped ∧ (u.dev.img c).cause = 7 ∧
            (d.ecc.pending = [] → u.dev.reg Reg.FLM_CX_TMO = BitVec.ofNat 32 (min 0xFFFFFFFF ((d.reg Reg.FLM_CX_TMO).toNat + 1)))) ∧
        (o.stage ≠ .running ∨ lim = 0 ∨ (∀ p ∈ o.pend, d.cycle < p.sent + 1600 * lim) → exec (.collectiveTimeout c op) s = .next s))

/-- R330, R333, R334, R337, R339, R346, R347, R353, R419, R421: an owner serves a gather from the buffer of its generation or answers
ERR_STALE or ERR_PERM; shard data lands in the parison; a partial-sum, compressed or permute frame under a tag of this step and
bucket is taken by its operation, and any other is refused and stops the context, be it pre-empted (log 203), with the bucket's operation; a tree node adds a chunk when every input is there and sends or writes
the sum; the owner decodes and adds a frame when those of all ranks have landed. -/
def Obligations.CollectiveFrames : Prop :=
  ∀ (s : State),
    let d := s.dev
    let now := fun (d : Dev) => Host.Outcome.next (φ := Fault) (ρ := Refusal) { s with dev := d }
    let same := fun (u : State) => u.pending = s.pending ∧ u.sk = s.sk
    (∀ (p : Port) (f : Frame), let q := d.port p
      q.state = .up → d.portMode p = 1 → f.lseq = q.expect → f.enc = d.portEnc p → q.ackDue < 63 → d.routeEn = true →
      f.cls = frameClass f.kind → f.dfa = d.fa → f.sfa ≠ d.fa →
      let d1 := d.setPort p { q with
        expect := (q.expect + 1) % 4096, ackDue := q.ackDue + 1, authSeq := q.authSeq.filter (· ≠ f.lseq) }
      let tagged : Option (Instr × Nat) := if f.kind = 10 then some (.rscpFrame p f, 2) else if f.kind = 11 then some (.rsxfFrame p f, 3)
        else if f.kind = 12 then some (.permFrame p f, 4) else none
      (d.jobCtx f.job = none →
        (f.kind = 8 → exec (.greqFrame p f) s = now ((d1.cxError 0xF f.sfa 0 1 sPerm).answerTo f sPerm 0)) ∧
        (f.kind = 9 → exec (.gdatFrame p f) s = now ((d1.cxError 0xF f.sfa 0 4 sPerm).answerTo f sPerm 0)) ∧
        (∀ i k, tagged = some (i, k) → exec i s = now ((((d1.cxError 0xF f.sfa 0 4 sPerm).count Reg.FLM_CX_ARR_REF 1).event 0x6006 0xF
          f.flow f.sfa sPerm).answerTo f sPerm 0))) ∧
      ∀ c, d.jobCtx f.job = some c → d.soloReplay c = false → d.capturing c = false →
        (f.kind = 8 → ∀ x, (d.coll c).tensors[f.flow]? = some x →
          let g := f.arg0.toNat
          let served := g = x.cur ∨ (x.prevValid = true ∧ g = (x.cur + 2 ^ 32 - 1) % 2 ^ 32)
          (¬served → exec (.greqFrame p f) s = now ((((d1.cxError c f.sfa (x.buf g) 1 sStale).count Reg.FLM_CX_STALE 1).event 0x6002
            f.flow g x.cur f.sfa).answerTo f sStale 0)) ∧
          (served → ∀ d2 bs, d1.engineRead 11 c (if g % 2 = 0 then x.buf0 else x.buf1) x.shb = (d2, bs, none) →
            exec (.greqFrame p f) s = now ((List.range (ceilDiv bs.length 8192)).foldl (fun e k => e.sendFrame 32
              (e.cxFrame c 9 f.sfa f.flow g ((d2.ownRank c x.rt - f.arg1.toNat) * x.shb + 8192 * k) 0 ((bs.drop (8192 * k)).take 8192))) d2)) ∧
          (served → ∀ d2 bs st a, d1.engineRead 11 c (if g % 2 = 0 then x.buf0 else x.buf1) x.shb = (d2, bs, some (st, a)) →
            exec (.greqFrame p f) s = now ((d2.cxError c f.sfa a 1 st).answerTo f st 0))) ∧
        (f.kind = 9 → d.gatherOf c f = none → exec (.gdatFrame p f) s = now d1) ∧
        (f.kind = 9 → ∀ i j o x, d.gatherOf c f = some (i, j) → d.cxOp c i = some o → (d.coll c).tensors[f.flow]? = some x →
          let off := f.arg1.toNat
          let n := f.payload.length
          let op' : CxOp := { o with
            bytes := o.bytes + n
            pend := (o.pend.map fun y => if y.peer = f.sfa ∧ y.key = j then { y with segment := y.segment + n } else y).filter fun y =>
              decide (y.key ≠ j ∨ y.segment < x.shb) }
          (gDsp o.w = false → ∀ d2, d1.engineWrite 11 c (oAddr o.w 4 + off) f.payload = (d2, none) →
            exec (.gdatFrame p f) s = now (d2.putOp c i op')) ∧
          (gDsp o.w = true → ∀ t, d.physical c (gTile o.w) = some t → d.unarmed →
            let a := tileAddr t ((d.ctx t 0).base.toNat + oAddr o.w 4 % 2 ^ 23 + off)
            ∃ u, exec (.gdatFrame p f) s = .next u ∧ same u ∧ u.dev.cxOp c i = some op' ∧ u.dev.imgs = d.imgs ∧
              ∀ y, Memory.byte u.dev.mem y = if a ≤ y ∧ y < a + n then f.payload[y - a]? else Memory.byte d.mem y)) ∧
        (∀ ins k, tagged = some (ins, k) →
          let mine := d.bucketOp c (f.flow % 4096)
          let refused := ∃ u, exec ins s = .next u ∧ same u ∧
            ((d.img c).state = .running ∨ (d.img c).state = .preempted → (u.dev.img c).state = .stopped ∧ (u.dev.img c).cause = 7 ∧
              ∀ i o, mine = some (i, o) → (u.dev.cxOp c i).map (·.stage) = some .failed) ∧ (d.ecc.pending = [] → u.dev.reg Reg.FLM_CX_ARR_REF =
              BitVec.ofNat 32 (min 0xFFFFFFFF ((d.reg Reg.FLM_CX_ARR_REF).toNat + 1)))
          (mine = none → refused) ∧
          (f.flow / 4096 ≠ d.stepLow c % 16 → refused) ∧
          (∀ i o, mine = some (i, o) → oKind o.w ≠ k → refused) ∧
          (∀ i o, mine = some (i, o) → oKind o.w = k → f.flow / 4096 = d.stepLow c % 16 →
            let rt := d.rankTable c (oRt o.w)
            let own := d.ownRank c (oRt o.w)
            let root := f.arg0.toNat
            (k = 2 → ∀ r, rankOf rt f.sfa = some r → root < rt.length → f.arg1.toNat % 256 = 0 →
              relRank rt.length root r ∈ treeKids rt.length (relRank rt.length root own) → f.arg2.toNat = (if rBf16 o.w then 1 else 0) →
              let first := f.arg1.toNat / 256
              let m := ceilDiv f.payload.length 256
              first + m ≤ rscChunks o.w → exec ins s = now (d1.putOp c i { o with
                held := o.held ++ (List.range m).map fun y =>
                  (root, first + y, relRank rt.length root r, (f.payload.drop (256 * y)).take 256)
                frames := o.frames ++ [(root, r, first, m)] })) ∧
            (k = 3 → root = own → f.arg1.toNat % 272 = 0 → f.payload.length = 272 → f.arg1.toNat / 272 < rt.length * rsxFrames o.w →
              ∀ d2, d1.engineWrite 11 c (oAddr o.w 10 + f.arg1.toNat) f.payload = (d2, none) →
                exec ins s = now ((d2.putOp c i { o with
                  landed := o.landed ++ [(f.arg1.toNat / 272 / rsxFrames o.w, f.arg1.toNat / 272 % rsxFrames o.w)] }).answerTo f sOk 0)) ∧
            (k = 4 → root = own → f.arg1.toNat + f.payload.length ≤ pShb o.w → ∀ x, (d.coll c).tensors[oTensor o.w]? = some x →
              ∀ d2, d1.engineWrite 11 c ((if x.cur % 2 = 0 then oAddr o.w 6 else oAddr o.w 8) + f.arg1.toNat) f.payload = (d2, none) →
                exec ins s = now ((d2.putOp c i { o with
                  permBytes := o.permBytes + f.payload.length, bytes := o.bytes + f.payload.length }).answerTo f sOk 0)) ∧
            (k = 3 ∨ k = 4 → root ≠ own → refused)))) ∧
    (∀ (c : ICtx) (op k : Nat) (o : CxOp), d.cxOp c op = some o →
      let w := o.w
      let n := (d.rankTable c (oRt w)).length
      (∀ root, let q := relRank n root (d.ownRank c (oRt w))
        let ready := oKind w = 2 ∧ o.stage = .running ∧ root < n ∧ k < rscChunks w ∧ (root, k) ∉ o.combined ∧
          (q ≠ 0 → (o.pend.filter fun x => decide (x.segment = root)).length < 4)
        (∀ ins : List (List Byte), ready → ins.length = (treeKids n q).length → (∀ bs ∈ ins, bs.length = 256) →
          (∀ (y : Nat) j, (treeKids n q)[y]? = some j →
            (o.held.find? fun x => decide (x.1 = root ∧ x.2.1 = k ∧ x.2.2.1 = j)).map (·.2.2.2) = ins[y]?) →
          ∀ d2 bs, d.engineRead 11 c (oAddr w 4 + root * (oSegn w * rscWidth w) + 256 * k) 256 = (d2, bs, none) →
            let r := combine (rBf16 w) 256 (bs :: ins)
            let d3 := (d2.draw.count Reg.RACE_RED_SAT r.2).putOp c op { o with
              combined := o.combined ++ [(root, k)], held := o.held.filter fun x => !decide (x.1 = root ∧ x.2.1 = k) }
            (q = 0 → ∀ d4, d3.engineWrite 11 c (oAddr w 6 + 256 * k) r.1 = (d4, none) →
              exec (.rscpChunkCombine c op root k) s = now ((d4.addBytes c op 256).rscAnswer c op)) ∧
            (q ≠ 0 →
              let up := (d.rankTable c (oRt w)).getD (absRank n root ((q - 1) / 8)) 0
              exec (.rscpChunkCombine c op root k) s = now (((d3.addPend c op up root k).sendFrame 32 (d3.cxFrame c 10 up
                (d3.bucketTag c ((oBucket w op).getD 0)) root (256 * k) (if rBf16 w then 1 else 0) r.1)).rscAnswer c op))) ∧
        (¬ready ∨ (∃ j ∈ treeKids n q, o.held.find? (fun x => decide (x.1 = root ∧ x.2.1 = k ∧ x.2.2.1 = j)) = none) →
          exec (.rscpChunkCombine c op root k) s = .next s)) ∧
      (let ready := oKind w = 3 ∧ o.stage = .running ∧ k < rsxFrames w ∧ k ∉ o.summed ∧ ∀ r, r < n → (r, k) ∈ o.landed;
        (ready → ∀ d2 fs, d.rsxRead c w k = (d2, fs, none) →
          let cs := (decodeSum fs).1.map fun x => Fmt.bf16.narrow1 .rne (f32 x)
          let bs := if xDt w then cs.flatMap (fun x => bytesOf 2 x.code) else (decodeSum fs).1.flatMap fun x => bytesOf 4 x.toNat
          let d3 := d2.count Reg.FLM_CX_CMP_SAT ((decodeSum fs).2 + if xDt w then (cs.filter (·.sat)).length else 0)
          ∀ d4, d3.engineWrite 11 c (oAddr w 6 + k * 2048 * (if xDt w then 2 else 4)) bs = (d4, none) →
            exec (.rsxDecodeSum c op k) s = now (d4.putOp c op { o with summed := o.summed ++ [k], bytes := o.bytes + bs.length })) ∧
        (¬ready → exec (.rsxDecodeSum c op k) s = .next s)))

/-- R186, R187, R327, R354, R364 to R371, R389, R423: action 1 ends when everything is quiet, and a device with no children contributes:
a leaf sends its contribution up, and a device alone, or one the result has come down to, takes the decisions, applies them and
runs the update pass; a node waits for all its children; what has been counted for the guard goes with the contribution,
and the counts start anew; HALT stops the context with cause 9 and a mismatch with cause 8; the end of
the pass advances every updated tensor and switches permuted ones, steps the number, latches step size and seed, and releases
the waiters; an error tears the commit. -/
def Obligations.StepCommit : Prop :=
  ∀ (s : State) (c : ICtx),
    let d := s.dev
    let p := d.stepOf c
    let kids := d.cmtKids c
    let rt := d.rankTable c 0
    let q := d.ownRank c 0
    let now := fun (d : Dev) => Host.Outcome.next (φ := Fault) (ρ := Refusal) { s with dev := d }
    let same := fun (u : State) => u.pending = s.pending ∧ u.sk = s.sk
    let zeroed := fun (e : GuardEntry) => { e with elems := 0, sat := 0, ftz := 0, nan := 0 }
    let decided := fun (i : Instr) (folds : Bool) (totals : List (Nat × Nat × Nat × Nat)) => ∃ u, exec i s = .next u ∧ same u ∧
      (u.dev.stepOf c).action = 5 ∧ (u.dev.stepOf c).totals = totals ∧ u.dev.imgs = d.imgs ∧
      (u.dev.coll c).tensors = ((d.coll c).tensors.map fun x => if x.upd then { x with prevValid := false } else x) ∧
      (u.dev.guard c).entries = ((d.guard c).entries.zipIdx.map fun (e, g) =>
        let t := totals.getD g (0, 0, 0, 0)
        let r := e.decision t.1 t.2.1 t.2.2.1
        { (if folds then zeroed e else e) with rung := r.2.1, clean := r.2.2 })
    let stops := fun (i : Instr) (folds : Bool) (cause : Nat) => ∃ u, exec i s = .next u ∧ same u ∧ (u.dev.img c).state = .stopped ∧
      (u.dev.img c).cause = cause ∧ (u.dev.stepOf c).action = 0 ∧ (u.dev.coll c).tensors = (d.coll c).tensors ∧
      (folds = false → u.dev.guard c = d.guard c) ∧ (u.dev.guard c).entries.map zeroed = (d.guard c).entries.map zeroed
    let runs := (d.img c).state = .running ∧ (d.img c).halted = false
    let halts := d.twin.halt = true ∧ d.twinCtx = c ∧ d.replaying c = false
    (¬runs ∨ p.action ≠ 1 ∨ d.commitQuiet c = false → exec (.commitQuiesced c) s = .next s) ∧
    (runs → p.action = 1 → d.commitQuiet c = true →
      (kids = [] → q = 0 → ¬halts → d.replaying c = false →
        decided (.commitQuiesced c) true ((d.guard c).entries.map fun e => (e.elems, e.sat, e.ftz, e.nan))) ∧
      (kids = [] → q = 0 → halts → stops (.commitQuiesced c) true 9) ∧
      (kids = [] → q ≠ 0 → ¬halts → exec (.commitQuiesced c) s =
        let d1 := (d.setStep c { p with action := 2, halting := false, sent := false })
        now (((d1.setStep c { p with action := 2, halting := false, sent := true, children := [] }).guardFold c).sendFrame 32
          (d1.cmtFrame c (rt.getD ((q - 1) / 8) 0) 0 (d1.ownContribution c)))) ∧
      (∀ fa ∈ kids, (∀ x ∈ p.children, x.1 ≠ fa) → ¬halts →
        exec (.commitQuiesced c) s = now (d.setStep c { p with action := 2, halting := false, sent := false }))) ∧
    (∀ (n : Port) (f : Frame), let r := d.port n
      r.state = .up → d.portMode n = 1 → f.lseq = r.expect → f.enc = d.portEnc n → r.ackDue < 63 → d.routeEn = true → f.cls = 0 → f.kind = 13 → f.dfa = d.fa →
      f.sfa ≠ d.fa →
      let d1 := d.setPort n { r with
        expect := (r.expect + 1) % 4096, ackDue := r.ackDue + 1, authSeq := r.authSeq.filter (· ≠ f.lseq) }
      (d.jobCtx f.job = none → (f.arg1 = 0 → exec (.cmtFrameUp n f) s = now ((d1.flmError f 0 0 3 sPerm).answerTo f sPerm (frameRef f))) ∧
        (f.arg1 = 1 → exec (.cmtFrameDown n f) s = now ((d1.flmError f 0 0 3 sPerm).answerTo f sPerm (frameRef f)))) ∧
      (d.jobCtx f.job = some c.val → d.soloReplay c = false → d.capturing c = false →
        let a := contributionOf (d.guard c).entries.length f.payload
        (f.arg1 = 0 → f.sfa ∉ kids ∨ (∃ x ∈ p.children, x.1 = f.sfa) → exec (.cmtFrameUp n f) s = now d1) ∧
        (f.arg1 = 0 → f.sfa ∈ kids → (∀ x ∈ p.children, x.1 ≠ f.sfa) →
          let p' : Step := { p with children := p.children ++ [(f.sfa, a)] }
          (p.action ≠ 2 ∨ (∃ fa ∈ kids, fa ≠ f.sfa ∧ ∀ x ∈ p.children, x.1 ≠ fa) → exec (.cmtFrameUp n f) s = now (d1.setStep c p')) ∧
          (kids = [f.sfa] → p.children = [] → runs → p.action = 2 → p.sent = false →
            let sum := ((d1.setStep c p').ownContribution c).join false a
            (q ≠ 0 → exec (.cmtFrameUp n f) s = now (((d1.setStep c { p with sent := true, children := [] }).guardFold c).sendFrame 32
              ((d1.setStep c p').cmtFrame c (rt.getD ((q - 1) / 8) 0) 0 sum))) ∧
            (q = 0 → sum.halt = true → stops (.cmtFrameUp n f) true 9) ∧
            (q = 0 → sum.halt = false → sum.mismatch ≠ none → stops (.cmtFrameUp n f) true 8) ∧
            (q = 0 → sum.halt = false → sum.mismatch = none → d.replaying c = false → decided (.cmtFrameUp n f) true sum.totals))) ∧
        (f.arg1 = 1 →
          let mine := q ≠ 0 ∧ f.sfa = rt.getD ((q - 1) / 8) 0 ∧ f.arg0.toNat = d.stepLow c ∧ p.action = 2 ∧ p.sent = true ∧ runs
          (¬mine → exec (.cmtFrameDown n f) s = now d1) ∧
          (mine → a.halt = true → stops (.cmtFrameDown n f) false 9) ∧
          (mine → a.halt = false → a.mismatch ≠ none → stops (.cmtFrameDown n f) false 8) ∧
          (mine → a.halt = false → a.mismatch = none → d.replaying c = false → decided (.cmtFrameDown n f) false a.totals) ∧
          (mine → a.halt = false → a.mismatch = none → d.replaying c = true →
            ((List.range 4).map (fun k => d.rplRec c (4 + k)) ≠ words128 (d.inputDigest c) ∨
              fld (d.rplRec c 1) 0 12 ≠ p.barriers % 4096) → stops (.cmtFrameDown n f) false 11)))) ∧
    (p.section_ = none ∨ p.action ≠ 5 ∨ ¬runs → exec (.updatePassDone c) s = .next s) ∧
    (∀ sec, p.section_ = some sec → p.action = 5 → runs →
      let e := d.updPass c sec
      let fresh := fun (i : Nat) => bit (d.reg (cmtReg c)) i
      (∀ x, e.bad = some x → stops (.updatePassDone c) false 10 ∧ ∀ u, exec (.updatePassDone c) s = .next u → d.ecc.pending = [] →
        bit (u.dev.reg (cmtReg c)) 29 = true ∧ u.dev.regFld (cmtReg c) 0 4 = x.2.1 % 16 ∧ u.dev.stepNum c = d.stepNum c) ∧
      (e.bad = none → d.twinCtx ≠ c.val → d.park.stage ≠ .parking → d.replaying c = false → ∃ u, exec (.updatePassDone c) s = .next u ∧ same u ∧
        u.dev.stepNum c = (d.stepNum c + 1) % 2 ^ 64 ∧ (u.dev.stepOf c).action = 0 ∧ (u.dev.stepOf c).waiters = [] ∧
        (u.dev.stepOf c).digest = stateDigest (d.stepNum c) (d.img c).imageId.toNat e.sums ∧
        (u.dev.stepOf c).eta = (if fresh 4 then p.etaPend else p.eta) ∧ (u.dev.stepOf c).seed = (if fresh 5 then p.seedPend else p.seed) ∧
        fresh 4 = !(u.dev.stepOf c).stale ∧ u.dev.regFld (cmtReg c) 4 2 = 0 ∧
        (∀ (i : Nat) (x : Tensor), (d.coll c).tensors[i]? = some x →
          (x.perm = none → (u.dev.coll c).tensors[i]? = some (Tensor.keep
            (if x.upd then { x with cur := (x.cur + 1) % 2 ^ 32, prevValid := true } else x))) ∧
          (∀ k o, x.perm = some k → d.cxOp c k = some o → (u.dev.coll c).tensors[i]? = some (Tensor.keep { x with
            rt := oRt o.w, shb := pShb o.w, buf0 := oAddr o.w 6, buf1 := oAddr o.w 8, prevValid := false, perm := none }))) ∧
        ((u.dev.coll c).ops.all fun o => decide (o.stage = .idle) && !o.started) = true) ∧
      (e.bad = none → d.twinCtx ≠ c.val → d.park.stage ≠ .parking → d.replaying c = true → ∃ u, exec (.updatePassDone c) s = .next u ∧ same u ∧
        u.dev.stepNum c = (d.stepNum c + 1) % 2 ^ 64 ∧ u.dev.rplState c = 3 ∧ (u.dev.stepOf c).waiters = p.waiters ∧
        (u.dev.stepOf c).rplHeld = true))

/-! ### The twin (R433 to R445) -/

/-- R432, R433, R435 to R445: TWIN_CTL.EN reads the network descriptor and lockstep waits for the next step start; a message is acknowledged
by its queue pair (log 90); an accepted one is used in its first copy and any other is discarded and counted; equal records raise
TWIN_AGREED and a difference diverges, but in SOLO, which only an equal record ends; silence leads to SOLO, and HOLD ends when the lag allows it, the twin diverges or falls silent; a rejoin is armed by GO, agrees on the version, writes its
regions, ends with the named step's own record, installs the commit state, and on a failure, of the journal's write too, or without progress
aborts. The values that hold while no commit stands after
action 7 are stated whole; one that does goes on, once the twin no longer holds it. -/
def Obligations.TwinLockstep : Prop :=
  ∀ (s : State),
    let d := s.dev
    let w := d.twin
    let c := d.twinCtx
    let now := fun (d : Dev) => Host.Outcome.next (φ := Fault) (ρ := Refusal) { s with dev := d }
    let same := fun (u : State) => u.pending = s.pending ∧ u.sk = s.sk
    let idle := (d.stepOf c).action ≠ 7
    let waits := (d.stepOf c).action = 7 ∧ d.park.stage ≠ .parking ∧ d.replaying c = false
    let goes := fun (i : Instr) => ∃ u, exec i s = .next u ∧ same u ∧ u.dev.stepNum c = (d.stepNum c + 1) % 2 ^ 64 ∧
      (u.dev.stepOf c).action = 0 ∧ (u.dev.stepOf c).waiters = []
    let ms := 1600000 * (d.reg Reg.TWIN_TMO).toNat
    let aborts := fun (i : Instr) (prior : Nat) => ∃ u, exec i s = .next u ∧ same u ∧ u.dev.twin.rejoin = none ∧
      (w.state = 6 → u.dev.twin.state = 0 ∧ u.dev.reg Reg.TWIN_RJ_CTL = d.reg Reg.TWIN_RJ_CTL) ∧
      (w.state = 5 → u.dev.twin.state = prior ∧ bit (u.dev.reg Reg.TWIN_RJ_CTL) 31 = false)
    (∀ (p : Port) (msg : List Byte), p.val = 16 ∨ p.val = 17 → d.portMode p = 2 → (d.port p).state = .up →
      let m := twinBody msg
      let t := m.step
      let good := 100 ≤ msg.length ∧ leAt msg 0 4 / 2 ^ 30 = 3 ∧ leAt msg 4 2 = d.twinFa ∧ 1 ≤ byteAt msg 28 ∧ byteAt msg 28 ≤ 5 ∧
        BitVec.ofNat 32 (leAt msg 8 4) = (d.coll c).job
      let n := (if p.val = 16 then w.rx16 else w.rx17) + 1
      let w1 : Twin := { w with
        rx16 := if p.val = 16 then n else w.rx16, rx17 := if p.val = 16 then w.rx17 else n, used := max w.used n, last := d.cycle }
      let d0 := d.roceTake p 0 msg.length
      let d1 := d0.setTwin w1
      let lost := d0.count Reg.TWIN_DISCARD 1
      (¬good → exec (.keepalive p msg) s = now lost ∧ (idle → exec (.digest p msg) s = now lost ∧ exec (.rjStart p msg) s = now lost ∧
        exec (.rjDone p msg) s = now lost ∧ exec (.rjAbort p msg) s = now lost)) ∧
      (good → byteAt msg 28 = 2 → exec (.keepalive p msg) s = now d1) ∧
      (good → n ≤ w.used → idle →
        (byteAt msg 28 = 1 → exec (.digest p msg) s = now d1) ∧ (byteAt msg 28 = 3 → exec (.rjStart p msg) s = now d1) ∧
        (byteAt msg 28 = 4 → exec (.rjDone p msg) s = now d1) ∧ (byteAt msg 28 = 5 → exec (.rjAbort p msg) s = now d1)) ∧
      (good → w.used < n → byteAt msg 28 = 1 →
        let older := ∃ k, w.kept.head? = some k ∧ t < k.1
        let takes := (w.state ≠ 0 ∨ bit (d.reg Reg.TWIN_CTL) 31 = true) ∧ ¬older
        let r := max w.r t
        let lagOk := (d.stepNum c : Int) ≤ r + d.regFld Reg.TWIN_CTL 16 8
        let w2 : Twin := { w1 with r := r, received := keepRecord w.received t m.record }
        let free := if w.state = 2 ∧ lagOk then 1 else w.state
        (idle → w.state = 0 → bit (d.reg Reg.TWIN_CTL) 31 = false → exec (.digest p msg) s = now d1) ∧
        (idle → (w.state ≠ 0 ∨ bit (d.reg Reg.TWIN_CTL) 31 = true) → older → exec (.digest p msg) s = now (d1.count Reg.TWIN_MISS 1)) ∧
        (idle → takes → recordOf w.kept t = none → exec (.digest p msg) s = now (d0.setTwin { w2 with state := free })) ∧
        (∀ own, takes → recordOf w.kept t = some own →
          let eq := fun i => if i = 1 then putFld (wordAt own 1) 12 4 0 = putFld (wordAt m.record 1) 12 4 0
            else wordAt own i = wordAt m.record i
          (idle → (∀ i, i < 16 → eq i) →
            let d2 := d0.setTwin { w2 with state := if w.state = 3 then 1 else free }
            (w.failed = true ∨ t ≤ d.twinAgreed → exec (.digest p msg) s = now d2) ∧
            (w.failed = false → d.twinAgreed < t → exec (.digest p msg) s =
              now ((d2.setReg Reg.TWIN_AGREED_LO (BitVec.ofNat 32 t)).setReg Reg.TWIN_AGREED_HI (BitVec.ofNat 32 (t / 2 ^ 32))))) ∧
          (∀ i, i < 16 → ¬eq i → (∀ j, j < i → eq j) →
            (idle → w.state = 3 → exec (.digest p msg) s = now (d0.setTwin w2)) ∧
            (idle → w.state ≠ 3 → exec (.digest p msg) s =
              now ((d0.setTwin { w2 with state := 4, failed := true, halt := true, rejoin := none }).event 0x7203 c (t % 2 ^ 32) i 0)) ∧
            (waits → w.state ≠ 3 → goes (.digest p msg)))) ∧
        (takes → recordOf w.kept t = none → w.state = 2 → lagOk → waits → goes (.digest p msg))) ∧
      (good → w.used < n → byteAt msg 28 = 3 →
        (idle → w.state ≠ 5 → w.state ≠ 6 → exec (.rjStart p msg) s = now d1) ∧
        (idle → w.state = 6 → m.ver = 1 →
          let r : Rejoin := { regions := [], agreed := false, doneSent := false, last := d.cycle, prior := 0, record := [] }
          exec (.rjStart p msg) s = now ((d1.setTwin { w1 with rejoin := some r }).twinSend (d1.twinMsg 3 1 (m.stepHi * 2 ^ 32) [] []))) ∧
        (w.state = 6 → idle → m.ver ≠ 1 → aborts (.rjStart p msg) 0) ∧
        (∀ r, w.state = 5 → w.rejoin = some r → r.agreed = false → idle →
          (m.ver ≠ 1 → aborts (.rjStart p msg) r.prior) ∧
          (m.ver = 1 →
            let d2 := d1.setTwin { w1 with rejoin := some { r with agreed := true, last := d.cycle } }
            let pages := r.regions.flatMap fun e => (List.range (e.2 / 4096)).map fun k => e.1 + 4096 * k
            (∀ d3 st, d2.rjRegions pages = (d3, some st) → aborts (.rjStart p msg) r.prior) ∧
            (∀ d3, d2.rjRegions pages = (d3, none) →
              let d4 := d3.setTwin { w1 with rejoin := some { r with agreed := true, doneSent := true, last := d.cycle } }
              exec (.rjStart p msg) s = now (d4.twinSend
                (d4.twinMsg 4 0 (d4.stepNum c) r.record (d4.csbBytes c))))))) ∧
      (good → w.used < n → byteAt msg 28 = 4 →
        (idle → w.state ≠ 5 ∨ w.rejoin = none → w.state ≠ 6 ∨ w.rejoin = none → exec (.rjDone p msg) s = now d1) ∧
        (∀ r, w.state = 5 → w.rejoin = some r → (r.doneSent = false → idle → exec (.rjDone p msg) s = now d1) ∧
          (r.doneSent = true → (waits → goes (.rjDone p msg)) ∧ (idle → exec (.rjDone p msg) s = now (((d0.setTwin { w1 with
            state := 1, r := max w.r (d.stepNum c), rejoin := none, failed := false, halt := false }).setReg Reg.TWIN_RJ_CTL
              (putBit (d.reg Reg.TWIN_RJ_CTL) 31 false)).event 0x7205 c (d.stepNum c % 2 ^ 32) r.regions.length 0)))) ∧
        (∀ r x, w.state = 6 → w.rejoin = some r → idle → (d.stepOf c).section_ = some x → (d1.engineWrite 12 c
            (oAddr x.header 2 + t % 2 ^ fld (wordAt x.header 1) 23 5 * 64) (bytesOfWords m.record)).2 ≠ none → aborts (.rjDone p msg) 0) ∧
        (∀ r, w.state = 6 → w.rejoin = some r → idle → (∀ x, (d.stepOf c).section_ = some x → (d1.engineWrite 12 c
            (oAddr x.header 2 + t % 2 ^ fld (wordAt x.header 1) 23 5 * 64) (bytesOfWords m.record)).2 = none) → ∃ u, exec (.rjDone p msg) s = .next u ∧ same u ∧ u.dev.twin = { w1 with
            state := 1, r := t, rejoin := none, failed := false, halt := false } ∧ u.dev.stepNum c = (t + 1) % 2 ^ 64 ∧
          (u.dev.stepOf c).eta = BitVec.ofNat 32 (leAt m.tail 8 4) ∧ (u.dev.stepOf c).seed = BitVec.ofNat 32 (leAt m.tail 12 4) ∧
          u.dev.reg (at1 Reg.UPD_STEP_SIZEc 0x100 c) = (u.dev.stepOf c).eta ∧ u.dev.reg (at1 Reg.UPD_SEEDc 0x100 c) = (u.dev.stepOf c).seed ∧
          u.dev.imgs = d.imgs)) ∧
      (good → w.used < n → byteAt msg 28 = 5 → idle →
        (w.rejoin = none → exec (.rjAbort p msg) s = now d1) ∧ (∀ r, w.rejoin = some r → w.state = 5 ∨ w.state = 6 → aborts (.rjAbort p msg) r.prior))) ∧
    (∀ (p : Port) (va : Nat) (bs : List Byte),
      (w.state ≠ 6 ∨ w.rejoin = none ∨ d.portMode p ≠ 2 ∨ (d.port p).state ≠ .up → exec (.rjWrite p va bs) s = .next s) ∧
      (∀ r, w.state = 6 → w.rejoin = some r → p.val = 16 ∨ p.val = 17 → d.portMode p = 2 → (d.port p).state = .up →
        let d0 := d.roceTake p 1 bs.length
        (∀ d2, d0.engineWrite 12 c va bs = (d2, none) → exec (.rjWrite p va bs) s =
          now (d2.setTwin { w with rejoin := some { r with agreed := true, last := d.cycle }, last := d.cycle })) ∧
        (∀ d2 x, d0.engineWrite 12 c va bs = (d2, some x) → aborts (.rjWrite p va bs) r.prior))) ∧
    (w.state ≠ 0 → 1600000 ≤ d.cycle - w.sent → exec .keepaliveTimer s =
      now ((d.setTwin { w with sent := d.cycle }).twinSend (d.twinMsg 2 0 (d.stepNum c) [] []))) ∧
    (w.state = 0 ∨ d.cycle - w.sent < 1600000 → exec .keepaliveTimer s = .next s) ∧
    (w.state = 1 ∨ w.state = 2 → ms ≤ d.cycle - w.last →
      (idle → exec .twinSilent s = now ((d.setTwin { w with state := 3 }).event 0x7201 c (d.stepLow c) (w.r % 2 ^ 32).toNat 0)) ∧
      (waits → goes .twinSilent)) ∧
    (idle → (w.state ≠ 1 ∧ w.state ≠ 2) ∨ d.cycle - w.last < ms → exec .twinSilent s = .next s) ∧
    (idle → w.rejoin = none → exec .rejoinTimeout s = .next s) ∧
    (∀ r, w.rejoin = some r → (idle → d.cycle - r.last < ms → exec .rejoinTimeout s = .next s) ∧
      (ms ≤ d.cycle - r.last → (idle → w.state = 5 ∨ w.state = 6 → aborts .rejoinTimeout r.prior) ∧
        (waits → w.state = 5 → r.prior ≠ 2 → r.prior ≠ 5 → goes .rejoinTimeout))) ∧
    (∀ (who : Requester) (x : Word), who = .host 0 ∨ who = .skeop → d.regsUp who = true →
      let ctl := d.reg Reg.TWIN_CTL
      let refused := fun (i : Instr) => ∃ u n, exec i s = .next u ∧ same u ∧ Dev.Logs { d with freeIx := n } u.dev Reg.FLM_ERR_ADDR_LO
      let holds := fun (v : Word) => fld v 0 4 = fld x 0 4 ∧ fld v 16 8 = fld x 16 8
      (fld x 16 8 = 0 → refused (.twinEnable who x) ∧ refused (.twinRjRecv who x)) ∧
      (fld x 16 8 ≠ 0 → x &&& 0x3F00FFF0 = 0 →
        (bit ctl 31 = false → bit x 30 = false → ∃ v, holds v ∧ bit v 31 = true ∧
          let va := (d.reg Reg.TWIN_NET_LO).toNat + d.regFld Reg.TWIN_NET_HI 0 16 * 2 ^ 32
          ∀ d2 bs, ((d.setReg Reg.TWIN_CTL v).setTwin { w with pendingEn := true }).engineRead 12 (fld x 0 4) va 128 = (d2, bs, none) →
            exec (.twinEnable who x) s = now (d2.setTwin { w with pendingEn := true, net := bs })) ∧
        (bit ctl 30 = false → bit x 31 = false → ∃ v, holds v ∧ bit v 30 = true ∧ bit v 31 = false ∧
          ((d.img (fld x 0 4)).state = .loaded ∨ (d.img (fld x 0 4)).state = .stopped →
            exec (.twinRjRecv who x) s = now ((d.setReg Reg.TWIN_CTL v).setTwin { w with state := 6, rejoin := none })) ∧
          (¬((d.img (fld x 0 4)).state = .loaded ∨ (d.img (fld x 0 4)).state = .stopped) →
            exec (.twinRjRecv who x) s = now (d.setReg Reg.TWIN_CTL v)))) ∧
      (x &&& 0x7FFFFE00 = 0 → bit (d.reg Reg.TWIN_RJ_CTL) 31 = false →
        let k := fld x 0 9
        (k = 0 ∨ 256 < k ∨ (d.reg Reg.TWIN_RJ_STEP).toNat < d.stepLow c → refused (.twinRjGo who x)) ∧
        (0 < k → k ≤ 256 → d.stepLow c ≤ (d.reg Reg.TWIN_RJ_STEP).toNat → ∃ v, fld v 0 9 = k ∧ bit v 31 = true ∧
          ∀ d2 es, (d.setReg Reg.TWIN_RJ_CTL v).rjTable = (d2, es, none) →
            (∀ e ∈ es, e.2 ≠ 0 ∧ e.1 % 4096 = 0 ∧ e.2 % 4096 = 0 ∧ e.1 + e.2 ≤ d.vlim c) →
            exec (.twinRjGo who x) s = now (d2.setTwin { w with armed := some ((d.reg Reg.TWIN_RJ_STEP).toNat, es) }))))

/-! ### Images and the host interface (R449 to R454, R472 to R492, R529) -/

/-- R473 to R476, R478, R482, R483, R485, R486, R488, R489, R491: a ring's next command is fetched once the one before it has completed, and
a failed fetch stops the ring; each command acts in each state as the table of R482 says, and the others complete with ERR_PERM or OK;
a completion carries TAG, OP, PHASE and STATUS and waits where the ring is full; a STOP or PREEMPT without NOW waits for the next
boundary; a context that is quiet is saved and PREEMPTED. -/
def Obligations.HostCommands : Prop :=
  ∀ (s : State) (c : ICtx),
    let d := s.dev
    let i := d.img c
    let idx := hostReg Reg.HST_CMD_IDX c
    let cfg := hostReg Reg.HST_CMD_CFG c
    let now := fun (d : Dev) => Host.Outcome.next (φ := Fault) (ρ := Refusal) { s with dev := d }
    let same := fun (u : State) => u.pending = s.pending ∧ u.sk = s.sk
    let takes := fun (op : Nat) (ws : List Word) => i.wait = .none ∧ i.busy = false ∧ i.cmd = some ws ∧ fld (wordAt ws 0) 0 8 = op ∧
      (op = 1 ∨ op = 2 ∨ op = 4 ∨ op = 5 → d.park.stage = .run)
    let stops := fun (j : Instr) (cause : Nat) => ∃ u, exec j s = .next u ∧ same u ∧ (u.dev.img c).state = .stopped ∧
      (u.dev.img c).cause = cause ∧ (u.dev.img c).locked = false
    (∀ (e : Dev) (ws : List Word) (st : Nat), (e.img c).cmd = some ws → st < 16 →
      let k := e.img c
      let tail := e.regFld (hostReg Reg.HST_CPL_IDX c) 16 16
      let words := cplWords (fld (wordAt ws 0) 16 16) (fld (wordAt ws 0) 0 8) st 0 (if fld (wordAt ws 0) 0 8 = 1 then 0 else e.stepLow c) 0 0 []
      let u := e.complete c st
      (u.img c).cmd = none ∧ (u.img c).wait = .none ∧ (u.img c).busy = false ∧ (u.img c).state = k.state ∧ u.mem = e.mem ∧
      (e.cplRoom c = true → k.waiting = [] → e.cplErr.head? ≠ some true → ∃ out, u.out = e.out ++
          [.completion c (tail % ringSize (e.reg (hostReg Reg.HST_CPL_CFG c))) out, .msix (e.owner c) (fld (e.reg (hostReg Reg.HST_CPL_CFG c)) 8 8)] ∧
        fld (wordAt out 0) 16 16 = fld (wordAt ws 0) 16 16 ∧ fld (wordAt out 0) 8 8 = fld (wordAt ws 0) 0 8 ∧ fld (wordAt out 0) 0 4 = st ∧
        bit (wordAt out 0) 4 = k.phase ∧ wordAt out 1 = 0 ∧ wordAt out 2 = wordAt words 2 ∧
        u.regFld (hostReg Reg.HST_CPL_IDX c) 16 16 = (tail + 1) % 2 ^ 16) ∧
      (∀ rest, e.cplRoom c = true → k.waiting = [] → e.cplErr = true :: rest → (u.img c).waiting = [words] ∧
        bit (u.reg (hostReg Reg.HST_CPL_CFG c)) 30 = true ∧ u.regFld (hostReg Reg.HST_CPL_IDX c) 16 16 = tail ∧ u.out = e.out ∧
        u.cplErr = rest) ∧
      (e.cplRoom c = false ∨ k.waiting ≠ [] → (k.waiting.length < 16 → (u.img c).waiting = k.waiting ++ [words] ∧ u.out = e.out) ∧
        (16 ≤ k.waiting.length → (u.img c).waiting = k.waiting ∧
          u.reg Reg.HST_CPL_LOST = BitVec.ofNat 32 (min 0xFFFFFFFF ((e.reg Reg.HST_CPL_LOST).toNat + 1))))) ∧
    (d.mayFetch c = false → ∀ entry, exec (.cmdFetch c entry) s = .next s) ∧
    (d.mayFetch c = true →
      (∃ u, exec (.cmdFetch c none) s = .next u ∧ same u ∧ bit (u.dev.reg cfg) 30 = true ∧ (u.dev.img c).cmdStop = true ∧ u.dev.mem = d.mem ∧
        u.dev.reg idx = d.reg idx) ∧
      ∀ ws : List Word, ws.length = 16 →
        let op := fld (wordAt ws 0) 0 8
        let d1 := (d.setFld idx 16 16 ((fld (d.reg idx) 16 16 + 1) % 2 ^ 16)).setImg c { i with cmd := some ws }
        let clean := fld (wordAt ws 0) 8 8 = 0 ∧ (op = 1 → wordAt ws 1 &&& 0xFFFFFFFE = 0 ∧ ∀ k, 8 ≤ k → k < 16 → wordAt ws k = 0) ∧
          (op = 3 → wordAt ws 1 &&& 0xFFFFFFFE = 0 ∧ ∀ k, 2 ≤ k → k < 16 → wordAt ws k = 0) ∧
          (op ≠ 1 → op ≠ 3 → ∀ k, 1 ≤ k → k < 16 → wordAt ws k = 0)
        (op = 0 ∨ 7 < op → ∃ u, exec (.cmdFetch c (some ws)) s = .next u ∧ same u ∧ (u.dev.img c).cmd = none ∧ (u.dev.img c).state = i.state) ∧
        (1 < op → op ≤ 7 → ¬clean → exec (.cmdFetch c (some ws)) s = now (d1.complete c sParam)) ∧
        (op = 1 → ¬clean → exec (.cmdFetch c (some ws)) s = now ((d1.event 0x8001 c 0 0 0).complete c
          (if wordAt ws 4 = 0 ∨ 64 < (wordAt ws 7).toNat then sLen else sParam))) ∧
        (op = 7 → clean → exec (.cmdFetch c (some ws)) s = now (d1.complete c sOk)) ∧
        (0 < op → op < 7 → clean → exec (.cmdFetch c (some ws)) s = now d1)) ∧
    (∀ image hosts, (∀ ws, ¬takes 1 ws) → exec (.load c image hosts) s = .next s) ∧
    (∀ ws image hosts, takes 1 ws →
      (i.state ≠ .empty → exec (.load c image hosts) s = now (d.complete c sPerm)) ∧
      (i.state = .empty → s.sk.mode = .recovery → exec (.load c image hosts) s = now ((d.event 0x8001 c 0 0 0).complete c sPerm)) ∧
      (i.state = .empty → s.sk.mode = .startUp → ∃ u, exec (.load c image hosts) s = .next u ∧ u.pending = s.pending ∧
        u.sk = if (u.dev.img c).state = .loaded then { s.sk with mode := .operational } else s.sk) ∧
      (i.state = .empty → s.sk.mode ≠ .recovery →
        let refuse := fun (d1 : Dev) (f : LoadFail) => now ((d1.event 0x8001 c f.code f.type f.off).completeWith c f.status
          (f.code + (if f.code = rField then f.status * 2 ^ 8 else 0) + f.type * 2 ^ 16) f.off 0 0)
        (∀ d1 st, d.loadSource ws image hosts = (d1, .operands st) →
          exec (.load c image hosts) s = now ((d1.event 0x8001 c 0 0 0).complete c st)) ∧
        (∀ d1 st, d.loadSource ws image hosts = (d1, .fail st) →
          exec (.load c image hosts) s = refuse d1 { code := rSource, status := st, type := 0, off := 0 }) ∧
        (∀ d1 im hs f, d.loadSource ws image hosts = (d1, .ok im hs) → loadChecked s.sk d1 c im hs = .error f →
          exec (.load c image hosts) s = refuse d1 f) ∧
        ∀ d1 im hs p hash, d.loadSource ws image hosts = (d1, .ok im hs) → loadChecked s.sk d1 c im hs = .ok (p, hash) →
          (∀ f, d1.loadPlace c p hs hash = .error f → exec (.load c image hosts) s = refuse d1 f) ∧
          ∀ d2, d1.loadPlace c p hs hash = .ok d2 → ∃ u, exec (.load c image hosts) s = .next u ∧ u.pending = s.pending ∧
            (u.dev.img c).state = .loaded ∧ (u.dev.img c).cmd = none ∧ (u.dev.img c).imageId = BitVec.ofNat 32 (leAt p 8 4) ∧
            (u.dev.img c).nmills = imMills p ∧ (u.dev.img c).digest = hash ∧ (u.dev.img c).hosts = hs)) ∧
    ((∀ ws, ¬takes 2 ws) → exec (.start c) s = .next s) ∧ ((∀ ws, ¬takes 3 ws) → exec (.stop c) s = .next s) ∧
    ((∀ ws, ¬takes 4 ws) → exec (.preempt c) s = .next s) ∧ ((∀ ws, ¬takes 5 ws) → exec (.resume c) s = .next s) ∧
    ((∀ ws, ¬takes 6 ws) → exec (.unload c) s = .next s) ∧
    (∀ ws, takes 2 ws →
      (i.state = .empty ∨ i.state = .preempted → exec (.start c) s = now (d.complete c sPerm)) ∧
      (i.state = .running → exec (.start c) s = now (d.complete c sOk)) ∧
      (i.state = .loaded → d.imageStartStatus c ≠ sOk → exec (.start c) s = now (d.complete c (d.imageStartStatus c))) ∧
      (i.state = .loaded → d.imageStartStatus c = sOk → ∃ u, exec (.start c) s = .next u ∧ same u ∧ (u.dev.img c).state = .running ∧
        (u.dev.img c).locked = true ∧ (u.dev.img c).cmd = none ∧ u.dev.mem = d.mem ∧ u.dev.stepNum c = d.stepNum c ∧
        (u.dev.stepOf c).start = true ∧ ∀ t ∈ d.tilesOf c, t < 1728 → (u.dev.ctx t 0).run = .run ∧ (u.dev.ctx t 0).pc = (d.ctx t 0).pc ∧
          ∀ k : HCtx, k ≠ 0 → (u.dev.ctx t k).run = .idle) ∧
      (i.state = .stopped → bit (d.reg (cmtReg c)) 29 = true → exec (.start c) s = now (d.complete c sPerm)) ∧
      (i.state = .stopped → ∀ e st, d.restart c = (e, st) → exec (.start c) s = now (e.complete c st) ∧
        (st = sOk → (e.img c).state = .running ∧ (e.img c).locked = true ∧ (e.stepOf c).acc0 = 0 ∧
          (i.mills.length ≤ 216 → (∀ p ∈ d.owned c, (d.obj p).vid < 4096) → (∀ v, i.saved = some v →
            ∀ o ∈ v.objs, o.2.vid < 4096) → e.stepNum c = d.stepNum c) ∧
          (e.stepOf c).acc1 = 0 ∧ (e.coll c).tensors = ((d.coll c).tensors.map Tensor.restored) ∧
          (e.guard c).entries.map (·.rung) = (d.guard c).entries.map (·.rungKept)))) ∧
    (∀ ws, takes 3 ws →
      (i.state = .empty ∨ i.state = .preempted → exec (.stop c) s = now (d.complete c sPerm)) ∧
      (i.state = .stopped → exec (.stop c) s = now (d.complete c sOk)) ∧
      (i.state = .loaded → stops (.stop c) 1) ∧
      (i.state = .running → bit (wordAt ws 1) 0 = true ∨ i.withheld = true → d.commitRuns c = false → stops (.stop c) 1) ∧
      (i.state = .running → bit (wordAt ws 1) 0 = false → i.withheld = false → exec (.stop c) s = now (d.setImg c { i with wait := .stopAtBoundary })) ∧
      (i.state = .running → d.commitRuns c = true → exec (.stop c) s = now (d.setImg c { i with wait := .stopAtBoundary }))) ∧
    (∀ ws, takes 4 ws →
      (i.state = .empty ∨ i.state = .loaded ∨ i.state = .stopped → exec (.preempt c) s = now (d.complete c sPerm)) ∧
      (i.state = .preempted → exec (.preempt c) s = now (d.complete c sOk)) ∧
      (i.state = .running → i.preempt = false ∨ d.domainBarrier c = true → exec (.preempt c) s = now (d.complete c sPerm)) ∧
      (i.state = .running → i.preempt = true → d.domainBarrier c = false → i.withheld = false →
        exec (.preempt c) s = now (d.setImg c { i with wait := .preemptAtBoundary })) ∧
      (i.state = .running → i.preempt = true → d.domainBarrier c = false → i.withheld = true → d.commitRuns c = false →
        exec (.preempt c) s = now (d.setImg c { i with wait := .quiesce }))) ∧
    (∀ ws, takes 5 ws →
      (i.state ≠ .preempted → exec (.resume c) s = now (d.complete c sPerm)) ∧
      (∀ v, i.state = .preempted → i.saved = some v →
        (d.chooseMills c i.nmills = none → exec (.resume c) s = now (d.complete c sLen)) ∧
        (∀ ms e, d.chooseMills c i.nmills = some ms →
          (d.bindMills c ms).placeObjs c ((v.objs.map (·.2)).mergeSort fun a b => a.vid ≤ b.vid) = some e →
          ∃ u, exec (.resume c) s = .next u ∧ same u ∧ (u.dev.img c).state = .running ∧ (u.dev.img c).locked = true ∧
            (u.dev.img c).saved = none ∧ (u.dev.img c).withheld = false ∧ (u.dev.img c).cmd = none))) ∧
    (∀ ws, takes 6 ws →
      (i.state = .empty → exec (.unload c) s = now (d.complete c sOk)) ∧
      (i.state = .running → exec (.unload c) s = now (d.complete c sPerm)) ∧
      (i.state = .loaded ∨ i.state = .stopped ∨ i.state = .preempted →
        exec (.unload c) s = now (d.setImg c { i with busy := true, wait := .zeroing 0 }))) ∧
    (i.wait ≠ .quiesce → exec (.preemptQuiesced c) s = .next s) ∧
    (i.wait = .quiesce → (d.millFault c = none → d.ctxQuiet c = false → exec (.preemptQuiesced c) s = .next s) ∧
      (d.millFault c = none → d.ctxQuiet c = true → exec (.preemptQuiesced c) s = now (d.setImg c { i with wait := .saving })) ∧
      (i.state = .running → ∀ t st, d.millFault c = some (t, st) → stops (.preemptQuiesced c) 4)) ∧
    (i.wait ≠ .saving → exec (.preemptSaveDone c) s = .next s) ∧
    (i.wait = .saving → d.ctxQuiet c = false → exec (.preemptSaveDone c) s = .next s) ∧
    (i.wait = .saving → d.ctxQuiet c = true → ∃ u v, exec (.preemptSaveDone c) s = .next u ∧ same u ∧
      (u.dev.img c).state = .preempted ∧ (u.dev.img c).mills = [] ∧ (u.dev.img c).locked = false ∧ (u.dev.img c).saved = some v ∧
      (u.dev.img c).wait = .none ∧ (d.ecc.flips = [] → (∀ p ∈ i.mills, (d.mill p).flips = []) → d.unarmed →
        (∀ a ∈ i.allocsOf .save, a.start % 8 = 0 ∧ a.size % 8 = 0 ∧ a.start + a.size ≤ tileBase) →
        v.mills.map (·.mem) = i.mills.map d.saveMem ∧
        ∀ x, (∀ a ∈ i.allocsOf .save, x < a.start ∨ a.start + a.size ≤ x) → Memory.byte u.dev.mem x = Memory.byte d.mem x))

/-- R449, R451, R453, R454, R487, R492, R493, R617: a forced STOP stops a context with cause 2 and a forced UNLOAD stops it and unloads it;
a context whose zeroing ends is EMPTY, with every byte of its mills and allocations zero; a function level reset and a change of
owner unload contexts; a BAR2 access reaches device memory for the PF and the context's virtual space for a VF, and one that cannot
complete reads all-ones or is discarded. -/
def Obligations.UnloadingResetsAndBar2 : Prop :=
  ∀ (s : State),
    let d := s.dev
    let now := fun (d : Dev) => Host.Outcome.next (φ := Fault) (ρ := Refusal) { s with dev := d }
    let same := fun (u : State) => u.pending = s.pending ∧ u.sk = s.sk
    let unloads := fun (u : State) (c : Nat) (how : Nat) => (u.dev.img c).busy = true ∧ (u.dev.img c).wait = .zeroing how ∧
      (u.dev.img c).state ≠ .running
    let later := fun (u : State) (c : Nat) (how : Nat) => (u.dev.img c).busy = true ∧ (u.dev.img c).state = .running ∧
      ((u.dev.img c).due.bind (·.unload)) = some how
    let free := fun (c : Nat) => (d.img c).state ≠ .empty ∧ (∀ n, (d.img c).wait ≠ .zeroing n) ∧
      ¬((d.img c).state = .running ∧ d.commitRuns c = true)
    let inCommit := fun (c : Nat) => (d.img c).state = .running ∧ d.commitRuns c = true ∧ (∀ n, (d.img c).wait ≠ .zeroing n) ∧
      (d.img c).due = none
    (∀ (who : Requester) (x : Word), who = .host 0 ∨ who = .skeop → d.regsUp who = true → x &&& 0x7CFFFFF0 = 0 →
      let c := fld x 0 4
      let i := d.img c
      (bit (d.reg Reg.LDR_FORCE) 31 = true → (∃ u n, exec (.forceStop who x) s = .next u ∧ same u ∧
          Dev.Logs { d with freeIx := n } u.dev Reg.HST_ERR_ADDR_LO) ∧
        ∃ u n, exec (.forceUnload who x) s = .next u ∧ same u ∧ Dev.Logs { d with freeIx := n } u.dev Reg.HST_ERR_ADDR_LO) ∧
      (bit (d.reg Reg.LDR_FORCE) 31 = false → bit x 31 = false →
        (i.state = .loaded ∨ (i.state = .running ∧ d.commitRuns c = false) → ∃ u, exec (.forceStop who x) s = .next u ∧ same u ∧
          (u.dev.img c).state = .stopped ∧ (u.dev.img c).cause = 2) ∧
        (i.state = .running → d.commitRuns c = true → i.wait = .none → exec (.forceStop who x) s =
          now ((d.setImg c { i with busy := true, due := some (StopDue.join i.due { cause := 0x02, force := true, unload := none }) }).setFld
            Reg.LDR_FORCE 31 1 1)) ∧
        (i.state = .empty ∨ i.state = .stopped → i.wait = .none → exec (.forceStop who x) s = .next s) ∧
        (i.state = .empty → i.wait = .none → i.due = none → exec (.forceUnload who x) s = .next s) ∧
        (i.state = .running → d.commitRuns c = true → i.wait = .none → i.due = none → ∃ u, exec (.forceUnload who x) s = .next u ∧ same u ∧
          later u c 1 ∧ bit (u.dev.reg Reg.LDR_FORCE) 31 = true) ∧
        (i.state ≠ .empty → (∀ n, i.wait ≠ .zeroing n) → ¬(i.state = .running ∧ d.commitRuns c = true) → ∃ u, exec (.forceUnload who x) s = .next u ∧ same u ∧ unloads u c 1 ∧
          bit (u.dev.reg Reg.LDR_FORCE) 31 = true ∧ (i.wait = .stopAtBoundary ∨ i.wait = .preemptAtBoundary → (u.dev.img c).cmd = none)))) ∧
    (∀ c : ICtx, let i := d.img c
      ((∀ n, i.wait ≠ .zeroing n) → exec (.unloadComplete c) s = .next s) ∧
      (∀ how, i.wait = .zeroing how → d.unarmed → (∀ a ∈ i.allocs, a.start % 8 = 0 ∧ a.size % 8 = 0) → ∃ u, exec (.unloadComplete c) s = .next u ∧ same u ∧ (u.dev.img c).state = .empty ∧
        (u.dev.img c).busy = false ∧ (u.dev.img c).allocs = [] ∧ (u.dev.img c).mills = [] ∧ (u.dev.img c).memKey = none ∧
        (u.dev.stepOf c).section_ = none ∧ u.dev.stepNum c = 0 ∧ u.dev.coll c = Coll.empty ∧ u.dev.guard c = Guard.empty ∧
        (∀ p ∈ i.mills, p < 216 → ∀ k off, k < 8 → off < tileSize → Memory.byte u.dev.mem (tileAddr (8 * p + k) off) = some 0) ∧
        (∀ a ∈ i.allocs, ∀ x, a.start ≤ x → x < a.start + a.size → Memory.byte u.dev.mem x = some 0) ∧
        (how = 0 → (u.dev.img c).cmd = none))) ∧
    (∀ v : Fin 17, (v.val = 0 ∨ d.numVf < v.val → exec (.vfFlr v) s = .next s) ∧
      (0 < v.val → v.val ≤ d.numVf → ∃ u, exec (.vfFlr v) s = .next u ∧ same u ∧ (u.dev.img (v.val - 1)).cmd = none ∧
        u.dev.reg (hostReg Reg.HST_CMD_CFG (v.val - 1)) = regReset (hostReg Reg.HST_CMD_CFG (v.val - 1)) ∧
        (free (v.val - 1) → unloads u (v.val - 1) 2) ∧ (inCommit (v.val - 1) → later u (v.val - 1) 2))) ∧
    (∀ j, (j = Instr.pfFlr ∨ (j = .perstAssert ∧ ∀ h ∈ d.lehr.held, h.1 ≠ 3)) → ∃ u, exec j s = .next u ∧ same u ∧ u.dev.numVf = 0 ∧
      ∀ c : ICtx, (u.dev.img c).cmd = none ∧ (free c → unloads u c 2) ∧ (inCommit c → later u c 2)) ∧
    ((∃ h ∈ d.lehr.held, h.1 = 3) → exec .perstAssert s = .next s) ∧
    (∀ enable (num : Fin 17), let n := if enable then num.val else 0
      ∃ u, exec (.vfEnableChange enable num) s = .next u ∧ same u ∧ u.dev.numVf = n ∧ ∀ c : ICtx,
        ((c.val < n ↔ c.val < d.numVf) → (u.dev.img c).state = (d.img c).state ∧ (u.dev.img c).wait = (d.img c).wait) ∧
        (¬(c.val < n ↔ c.val < d.numVf) → (free c → unloads u c 3) ∧ (inCommit c → later u c 3))) ∧
    (∀ (f : Fin 17) (off n : Nat) (bs : List Byte), d.stage ≠ .ready ∨ d.numVf < f.val →
      exec (.bar2Read f off n) s = .next s ∧ exec (.bar2Write f off bs) s = .next s) ∧
    (d.stage = .ready → ∀ (off n : Nat) (bs : List Byte),
      let a := d.regFld Reg.HST_BAR2_BASE 0 18 * 2 ^ 30 + off
      let refused := fun (j : Instr) (st : Nat) (read : Bool) => ∃ u, exec j s = .next u ∧ same u ∧
        Dev.Logs { d with reply := u.dev.reply } u.dev Reg.HST_ERR_ADDR_LO ∧ (bit (d.reg Reg.HST_ERR_INFO) 31 = false →
          fld (u.dev.reg Reg.HST_ERR_INFO) 0 4 = st) ∧
        u.dev.reply = if read then some { data := List.replicate n 0xFF, status := st } else d.reply
      (0 < n → d.pfStatus a n false ≠ sOk → refused (.bar2Read 0 off n) (d.pfStatus a n false) true) ∧
      (0 < n → d.pfStatus a n false = sOk → (∀ x y, d.read 9 a n = { dev := x, bytes := some y, bad := none } → x.ecc.pending = d.ecc.pending →
        exec (.bar2Read 0 off n) s = now { x with reply := some { data := y, status := sOk } })) ∧
      (bs ≠ [] → d.pfStatus a bs.length true ≠ sOk → refused (.bar2Write 0 off bs) (d.pfStatus a bs.length true) false) ∧
      (bs ≠ [] → d.pfStatus a bs.length true = sOk → d.unarmed → a % 8 = 0 → bs.length % 8 = 0 →
        tileBase ≤ a ∨ d.ecc.hbmMode ≠ 1 → ∃ u, exec (.bar2Write 0 off bs) s = .next u ∧
        same u ∧ u.dev.reply = d.reply ∧ ∀ x, Memory.byte u.dev.mem x = if a ≤ x ∧ x < a + bs.length then bs[x - a]? else Memory.byte d.mem x) ∧
      (∀ f : Fin 17, 0 < f.val → f.val ≤ d.numVf →
        let va := d.regFld (hostReg Reg.HST_VWIN (f.val - 1)) 0 14 * 2 ^ 34 + off
        (0 < n → ∀ e y, d.vfRead (f.val - 1) va n = (e, y, none) → e.ecc.pending = d.ecc.pending →
          exec (.bar2Read f off n) s = now { e with reply := some { data := y, status := sOk } }) ∧
        (0 < n → ∀ e y st, d.vfRead (f.val - 1) va n = (e, y, some st) → e.ecc.pending = d.ecc.pending → exec (.bar2Read f off n) s =
          now { e.bar2Refuse f off false st with reply := some { data := List.replicate n 0xFF, status := st } }) ∧
        (bs ≠ [] → ∀ e, d.vfWrite (f.val - 1) va bs = (e, none) → e.ecc.pending = d.ecc.pending → exec (.bar2Write f off bs) s = now e) ∧
        (bs ≠ [] → ∀ e st, d.vfWrite (f.val - 1) va bs = (e, some st) → e.ecc.pending = d.ecc.pending → exec (.bar2Write f off bs) s =
          now (e.bar2Refuse f off true st))))

/-! ### The mill engine (R104, R111, R112, R119 to R148) -/

/-- R105, R111, R125, R128 to R134, R137, R139 to R148: the head of the queue starts when nothing before it on its slot forbids; a weight
set is loaded into the inactive set and becomes active; a pass adds what its rows give to its slot, in order and rounded once, or takes
them as samples; a drain writes rows and scales to the eight tiles; a slot clear leaves +0 and the slot's mode; an uncorrectable read
of a band stops its command and puts the queue in FAULT. -/
def Obligations.MillEngine : Prop :=
  ∀ (s : State) (p : MillIx),
    let d := s.dev
    let m := d.mill p.val
    let now := fun (d : Dev) => Host.Outcome.next (φ := Fault) (ρ := Refusal) { s with dev := d }
    let same := fun (u : State) => u.pending = s.pending ∧ u.sk = s.sk
    let word := fun (t : Tab Word) (k : Nat) => Tab.get (fun _ => (0 : Word)) t k
    let sound := ∀ w, Tab.get (fun _ => (0 : BitVec 80)) m.flips w = 0
    let at_ := fun (t : Nat) (q : MillCmd) (a : Nat) => ctxAddr (p.val * 8 + t) (d.bandCtx p.val t q.ctx) a
    let gone := fun (u : State) (q : MillCmd) => (u.dev.mill p.val).queue = m.queue.filter (fun r => decide (r.num ≠ q.num)) ∧
      (u.dev.mill p.val).running = m.running.filter fun r => decide (r.cmd.num ≠ q.num)
    (m.queue = [] → exec (.passStart p) s = .next s ∧ exec (.drainStart p) s = .next s ∧ exec (.smodeStart p) s = .next s) ∧
    (∀ q rest, m.queue = q :: rest →
      let begun := now (d.setMill p.val { m with
        queue := rest, running := m.running ++ [{ cmd := q, start := d.cycle, mode := (m.slot q.slot).execMode }] })
      let free := ∀ r ∈ m.running, r.cmd.slot ≠ q.slot
      (q.kind = .pass → (∀ r ∈ m.running, r.cmd.slot = q.slot → r.cmd.kind = .pass) → exec (.passStart p) s = begun) ∧
      (q.kind ≠ .pass ∨ (∃ r ∈ m.running, r.cmd.slot = q.slot ∧ r.cmd.kind ≠ .pass) → exec (.passStart p) s = .next s) ∧
      (q.kind = .drain → free → (∀ r ∈ m.running, r.cmd.kind ≠ .drain) → exec (.drainStart p) s = begun) ∧
      (q.kind ≠ .drain ∨ ¬free ∨ (∃ r ∈ m.running, r.cmd.kind = .drain) → exec (.drainStart p) s = .next s) ∧
      (q.kind = .smode → free → exec (.smodeStart p) s = begun) ∧
      (q.kind ≠ .smode ∨ ¬free → exec (.smodeStart p) s = .next s)) ∧
    (let i : Fin 2 := Fin.ofNat 2 (1 - m.active)
      let first := m.unfinished.find? fun q => decide (q.kind = .pass) && passWld q.w0 && decide (m.loadedFor < q.num)
      let idle := ∀ r ∈ m.unfinished, r.kind = .pass → m.holds i r.wnum = false
      (∀ q, m.loading = none → first = some q → idle → d.drainAhead p.val q (passReads q true) = false →
        exec (.weightLoadStart p) s = now (d.setMill p.val { m with loading := some (i.val, q.num), loadedFor := q.num })) ∧
      (m.loading ≠ none ∨ first = none ∨ ¬idle ∨ (∃ q, first = some q ∧ d.drainAhead p.val q (passReads q true) = true) →
        exec (.weightLoadStart p) s = .next s)) ∧
    (m.loading = none → exec (.weightSetActive p) s = .next s) ∧
    (∀ (i : Fin 2) num q pr, m.loading = some (i.val, num) → m.unfinished.find? (fun r => decide (r.num = num)) = some q →
      passPair (passFmtW q.w0) (passFmtA q.w0) = some pr →
      let n := alignUp 8 (weightBytes pr (passBlock q.w0))
      let bands := (List.range 8).map fun t => d.bytesAt (at_ t q (passWaddr q.w0)) n
      ((∀ t, t < 8 → d.clean (at_ t q (passWaddr q.w0)) n = true) → exec (.weightSetActive p) s =
        now ((d.setMill p.val { m with
          loading := none, active := i.val, sets := m.sets.set i { w0 := q.w0, bands := bands, pass := num } }).count
            (millReg Reg.MILL_FMT_ERR p.val) (weightErrs pr q.w0 bands))) ∧
      (m.fault = none → d.ecc.pending = [] → (∀ c l, d.binding p.val = some (c, l) → (d.img c).state = .running) → (∃ t, t < 8 ∧ (d.read 4 (at_ t q (passWaddr q.w0)) n).bytes = none ∧
          ∀ j, j < t → d.clean (at_ j q (passWaddr q.w0)) n = true) → ∃ u, exec (.weightSetActive p) s = .next u ∧ same u ∧ gone u q ∧
        (u.dev.mill p.val).fault = some (q.tile, sUe) ∧ (u.dev.mill p.val).loading = none ∧ u.dev.imgs = d.imgs)) ∧
    (∀ run c l pr ws, m.oldest .pass = some run → d.binding p.val = some (c, l) →
      let q := run.cmd
      let rows := passM q.w1
      passPair (passFmtW q.w0) (passFmtA q.w0) = some pr → m.setOf q.wnum = some ws → ws.bands ≠ [] →
      let waits := d.drainAhead p.val q (passReads q false) = true ∨ (passWld q.w0 = true ∧ m.loadedFor < q.num)
      let n := alignUp 8 (actBytes pr (passBlock q.w0) rows)
      let acts := (List.range 8).map fun t => d.bytesAt (at_ t q (passAaddr q.w1)) n
      let c0 := (passCols pr q.w0).1
      let cols := (passCols pr q.w0).2
      let k := fun (r j : Nat) => elemNo q.slot r (c0 + j)
      (waits → exec (.passFinish p) s = .next s) ∧
      (¬waits → (∀ t, t < 8 → d.clean (at_ t q (passAaddr q.w1)) n = true) → sound → (m.slot q.slot).bad = none → d.unarmed →
        ∃ u, exec (.passFinish p) s = .next u ∧ same u ∧ gone u q ∧ u.dev.mem = d.mem ∧ u.dev.imgs = d.imgs ∧
          u.dev.reg (millReg Reg.MILL_ROWS p.val) = BitVec.ofNat 32 (min 0xFFFFFFFF ((d.reg (millReg Reg.MILL_ROWS p.val)).toNat + rows)) ∧
          (run.mode ≠ 2 → (∀ r j, r < rows → j < cols → word (u.dev.mill p.val).elems (k r j) =
              (addElem run.mode (rndOf (passRnd q.w0) (d.stepSeed c) q.tid.toNat (q.w2.toNat + r * 256 + (c0 + j)) 1) (word m.elems (k r j))
                (passY pr q.w0 ws.bands acts rows r j)).word) ∧
            ∀ x, (∀ r j, r < rows → j < cols → x ≠ k r j) → word (u.dev.mill p.val).elems x = word m.elems x) ∧
          (run.mode = 2 → (∀ j, j < cols →
              let z : Stat := { n := word m.elems (k 0 j), mean := word m.elems (k 1 j), m2 := word m.elems (k 2 j), satMean := false,
                                satM2 := false, nan := false }
              let y := (List.range rows).foldl (fun st r => st.sample (passY pr q.w0 ws.bands acts rows r j)) z
              word (u.dev.mill p.val).elems (k 0 j) = y.n ∧ word (u.dev.mill p.val).elems (k 1 j) = y.mean ∧
                word (u.dev.mill p.val).elems (k 2 j) = y.m2) ∧
            ∀ x, (∀ r j, r < 3 → j < cols → x ≠ k r j) → word (u.dev.mill p.val).elems x = word m.elems x))) ∧
    (m.oldest .pass = none ∨ d.binding p.val = none → exec (.passFinish p) s = .next s) ∧
    (∀ run c l f, m.oldest .drain = some run → d.binding p.val = some (c, l) → fmtOf (drainFmt run.cmd.w1) = some f →
      let q := run.cmd
      let rows := drainRows q.w0
      let out := drainOut q.w1
      let pitch := drainPitch f
      let part := fun (t i : Nat) =>
        let row := drainRow0 q.w0 + i
        drainRow f q.w1 (fun j => rndOf (drainRnd q.w1) (d.stepSeed c) q.tid.toNat
            (drainDidx q.w1 * 32768 + drainIdxRow run.mode out row * 256 + (32 * t + j)) 0)
          ((List.range 32).map fun j => m.drained q.slot run.mode out row (32 * t + j))
      let n := drainScaleBytes f q.w1 rows
      let scales := fun (t : Nat) => let b := (List.range rows).flatMap fun i => (part t i).2.1
        b ++ List.replicate (n - b.length) (0 : Byte)
      let fits := ∀ t, t < 8 → (d.bandCtx p.val t q.ctx).base.toNat + drainDst q.w0 + rows * pitch + n ≤ 0x800000
      (d.passAhead p.val q = true → exec (.drainFinish p) s = .next s) ∧
      (d.passAhead p.val q = false → sound → (m.slot q.slot).bad = none → d.unarmed → fits → ∃ u, exec (.drainFinish p) s = .next u ∧
        same u ∧ gone u q ∧ (u.dev.mill p.val).elems = m.elems ∧ u.dev.imgs = d.imgs ∧
        (∀ t i, t < 8 → i < rows → Memory.bytes u.dev.mem pitch (at_ t q (drainDst q.w0 + i * pitch)) = some (part t i).1) ∧
        (drainScaled f = true → ∀ t, t < 8 → Memory.bytes u.dev.mem n (at_ t q (drainDst q.w0 + rows * pitch)) = some (scales t)) ∧
        ∀ x, (∀ t, t < 8 → x < at_ t q (drainDst q.w0) ∨ at_ t q (drainDst q.w0) + rows * pitch + (if drainScaled f then n else 0) ≤ x) →
          Memory.byte u.dev.mem x = Memory.byte d.mem x)) ∧
    (m.oldest .drain = none ∨ d.binding p.val = none → exec (.drainFinish p) s = .next s) ∧
    (∀ run, m.oldest .smode = some run → d.unarmed → let q := run.cmd
      ∃ u, exec (.smodeFinish p) s = .next u ∧ same u ∧ gone u q ∧ u.dev.mem = d.mem ∧
        ((u.dev.mill p.val).slot q.slot).execMode = fld q.w0 0 2 ∧ ((u.dev.mill p.val).slot q.slot).bad = none ∧
        (∀ row col, row < 128 → col < 256 → (u.dev.mill p.val).elem q.slot row col = 0) ∧
        ∀ x, x < q.slot * 32768 ∨ (q.slot + 1) * 32768 ≤ x → word (u.dev.mill p.val).elems x = word m.elems x) ∧
    (m.oldest .smode = none → exec (.smodeFinish p) s = .next s)

/-! ### Sync objects at their homes (R194, R195, R230 to R255, R302, R364, R424) -/

/-- R194, R235, R237, R238, R247, R252, R253, R255, R302, R364, R424: an event that may be applied counts at its object, is held for the next
phase where it would pass its target, is refused where the object is BROKEN or the announced bytes are too many, and re-arms a broken
one; the count that meets every target fires the phase: it clears the counts, keeps the bytes that came early, advances the phase,
raises the vector and marks the waiters OK, or is the superstep boundary, or begins the commit; a domain leaf reports instead. Held
events, the release, the barrier's arrival, the watchdog and a SIG frame from another device follow. -/
def Obligations.SyncHomes : Prop :=
  ∀ (s : State),
    let d := s.dev
    let now := fun (d : Dev) => Host.Outcome.next (φ := Fault) (ρ := Refusal) { s with dev := d }
    let same := fun (u : State) => u.pending = s.pending ∧ u.sk = s.sk
    (∀ (n : Nat) (e : SyncEvt), d.syncFly[n]? = some e →
      let p := e.phys
      let o := d.obj p
      let c := o.ictx
      let row : SyncKind → Instr := fun
        | .signal => .syncSignalApply n
        | .arrival => .syncArrivalApply n
        | .arm => .syncArmApply n
        | .credit => .syncCreditApply n
      let left : Dev := { d with syncFly := d.syncFly.eraseIdx n }
      let refused := fun (st : Nat) => ∃ u, exec (row e.kind) s = .next u ∧ same u ∧ u.dev.objs = d.objs ∧
        u.dev.syncFly = left.syncFly ∧ u.dev.reg Reg.SYNC_REFUSED = BitVec.ofNat 32 (min 0xFFFFFFFF ((d.reg Reg.SYNC_REFUSED).toNat + 1)) ∧
        (∀ t (k : HCtx) id x, e.kind = .arrival → e.tile = some t → e.waiter = some (k.val, id) → e.away = none → (d.ctx t k).wait = some x → x.id = id →
          (u.dev.ctx t k).wait = some { x with fired := some st })
      let opened := o.state = .idle ∨ o.state = .opened
      let full := (e.kind = .signal ∧ o.sigs ≤ o.sig) ∨ (e.kind = .arrival ∧ o.arrs ≤ o.arr)
      let waiter : List Waiter := match e.waiter, e.tile with
        | some (k, id), some t => [{ tile := t, ctx := k, id := id, away := e.away }]
        | _, _ => []
      let o1 : SyncObj := match e.kind with
        | .signal => { o with state := .opened, sig := o.sig + 1, ann := o.ann + e.bytes }
        | .arrival => { o with state := .opened, arr := o.arr + 1, waiters := o.waiters ++ waiter }
        | .credit => { o with state := .opened, crd := min (2 ^ 48 - 1) (o.crd + e.bytes) }
        | .arm => o
      let met := o1.arr = o1.arrs ∧ o1.sig = o1.sigs ∧ o1.ann ≤ o1.crd
      let o2 : SyncObj := { o1 with
        state := .idle, phase := (o1.phase + 1) % 65536, sig := 0, arr := 0, crd := o1.crd - o1.ann, ann := 0, waiters := []
        heldDue := !o1.held.isEmpty, ready := [], reported := false }
      let commits := ∃ u, (d.stepOf c).section_ = some u ∧ fld (wordAt u.header 0) 20 12 = o.vid
      (∀ k, k ≠ e.kind → exec (row k) s = .next s) ∧
      (d.mayApply n e = false → exec (row e.kind) s = .next s) ∧
      (d.mayApply n e = true →
        (o.state = .free → refused sParam) ∧
        (o.state = .broken → e.kind = .arm →
          exec (row e.kind) s = now (left.setObj p { o with state := .idle, phase := (o.phase + 1) % 65536 })) ∧
        (o.state = .broken → e.kind ≠ .arm → refused sBroken) ∧
        (opened → o.domain = false → ¬o.met = true →
          (e.kind = .arm → refused sParam) ∧
          (full → exec (row e.kind) s = now (left.setObj p { o with held := o.held ++ [e] })) ∧
          (e.kind = .signal → ¬full → 2 ^ 48 ≤ o.ann + e.bytes → refused sLen) ∧
          (e.kind ≠ .arm → ¬full → (e.kind = .signal → o.ann + e.bytes < 2 ^ 48) →
            (¬met → e.kind = .arrival → exec (row e.kind) s = now (match e.tile.bind d.logical with
              | some l => if o.vid = 0 then (left.setObj p o1).setMeasure c { d.measure c with
                  arrival := Tab.put (d.measure c).arrival (l / 8) d.globalNs } else left.setObj p o1
              | none => left.setObj p o1)) ∧
            (¬met → e.kind ≠ .arrival → exec (row e.kind) s = now (left.setObj p o1)) ∧
            (met → (∀ m ∈ (c, o.vid) :: o.mapped, ∀ i x, d.cxOp m.1 i = some x → oTrig x.w ≠ m.2) →
              (o.vid ≠ 0 → ¬commits → exec (row e.kind) s = now (o1.waiters.foldl (fun d w => d.fireWaiter w sOk)
                (if o.notify then (left.setObj p o2).emit (.msix (d.owner c) o.vec) else left.setObj p o2))) ∧
              (o.vid ≠ 0 → commits → ∃ u, exec (row e.kind) s = .next u ∧ same u ∧ u.dev.obj p = o2 ∧ u.dev.tiles = d.tiles ∧
                u.dev.out = d.out ∧ (u.dev.stepOf c).action = 1 ∧ (u.dev.stepOf c).sent = false ∧
                (u.dev.stepOf c).waiters = (d.stepOf c).waiters ++ o1.waiters ∧ u.dev.regFld (at1 Reg.UPD_CMTc 0x100 c) 30 2 = 2) ∧
              (c < 16 → o.vid = 0 → ¬commits → o.notify = false → d.rplState c ≠ 2 →
                let due := (d.pendingOf c).isEmpty = false ∨ (d.millFault c).isSome = true ∨ (d.sluiceHalt c).isSome = true ∨
                  (d.img c).due ≠ none ∨ d.parkPoint false = true
                (d.commitRuns c = true ∨ (¬due ∧ (d.img c).wait ≠ .stopAtBoundary ∧ (d.img c).wait ≠ .preemptAtBoundary) →
                  ∃ u, exec (row e.kind) s = .next u ∧ same u ∧ u.dev.obj p = o2 ∧ u.dev.mem = d.mem ∧
                    (u.dev.stepOf c).barriers = (d.stepOf c).barriers + 1 ∧ (u.dev.measure c).superstep = (d.measure c).superstep + 1 ∧
                    u.dev.ledgerCount = d.ledgerCount + 1 ∧ (u.dev.img c).withheld = false ∧
                    ∀ t ∈ d.tilesOf c, ((d.img c).exited.contains t = true → u.dev.seq t = d.seq t) ∧
                      ((d.img c).exited.contains t = false → u.dev.seq t = { d.seq t with
                        stage := .due, waiters := o1.waiters.filter fun w => decide (w.tile = t) })) ∧
                (d.commitRuns c = false → ¬due → (d.img c).wait = .preemptAtBoundary →
                  ∃ u, exec (row e.kind) s = .next u ∧ same u ∧ (u.dev.img c).wait = .quiesce ∧ (u.dev.img c).withheld = true ∧
                    ∀ t ∈ d.tilesOf c, (d.img c).exited.contains t = false → (u.dev.seq t).stage = .held) ∧
                (d.commitRuns c = false → ¬due → (d.img c).wait = .stopAtBoundary → (d.img c).state = .running →
                  ∃ u, exec (row e.kind) s = .next u ∧ same u ∧ (u.dev.img c).state = .stopped ∧ (u.dev.img c).cause = 1 ∧
                    (u.dev.img c).failTile = 0xFFFF) ∧
                (d.commitRuns c = false → (d.pendingOf c).isEmpty = false → (d.img c).state = .running →
                  ∃ u, exec (row e.kind) s = .next u ∧ same u ∧ (u.dev.img c).state = .stopped ∧ (u.dev.img c).cause = 0x0C))))) ∧
        (opened → o.domain = true → e.kind ≠ .arm → e.kind ≠ .arrival → ¬full → (e.kind = .signal → o.ann + e.bytes < 2 ^ 48) →
          let rt := d.rankTable c 0
          let q := d.ownRank c 0
          (¬met → exec (row e.kind) s = now (left.setObj p o1)) ∧
          (met → o.reported = false → q ≠ 0 → (∀ j ∈ treeKids rt.length q, rt.getD j 0 ∈ o.ready) →
            exec (row e.kind) s = now ((left.setObj p { o1 with reported := true }).sendFrame 32
              (d.cxFrame c 6 (rt.getD ((q - 1) / 8) 0) 0 (headerH0 0 4 c 1 0 0) (sigWord 0 p) o.phase []))) ∧
          (met → o.reported = true → q ≠ 0 → exec (row e.kind) s = now (left.setObj p o1)) ∧
          (met → (∃ j ∈ treeKids rt.length q, rt.getD j 0 ∉ o.ready) → exec (row e.kind) s = now (left.setObj p o1))))) ∧
    (∀ n k, d.syncFly[n]? = none → k = .syncSignalApply n ∨ k = .syncArrivalApply n ∨ k = .syncArmApply n ∨ k = .syncCreditApply n →
      exec k s = .next s) ∧
    (∀ p, let o := d.obj p
      (o.heldDue = false → exec (.heldEventApply p) s = .next s) ∧
      (∀ bytes : Nat, o.heldDue = true → o.domain = false → o.state = .idle ∨ o.state = .opened → o.held ≠ [] →
        (∀ x ∈ o.held, x.kind = .signal ∧ x.phys = p) → o.sig + o.held.length ≤ o.sigs →
        (o.held.map (·.bytes)).foldl (· + ·) 0 = bytes → o.ann + bytes < 2 ^ 48 →
        ¬(o.arr = o.arrs ∧ o.sig + o.held.length = o.sigs ∧ o.ann + bytes ≤ o.crd) →
        exec (.heldEventApply p) s = now (d.setObj p { o with
          state := .opened, sig := o.sig + o.held.length, ann := o.ann + bytes, held := [], heldDue := false }))) ∧
    (∀ (t : TileIx) (k : HCtx), let x := d.ctx t k
      (x.run ≠ .wait ∨ (∀ w, x.wait = some w → w.fired = none) → exec (.waitRelease t k) s = .next s) ∧
      (∀ w st, x.run = .wait → x.wait = some w → w.fired = some st → ∃ u, exec (.waitRelease t k) s = .next u ∧ same u ∧
        u.dev.tile t = { d.tile t with ctx := (d.tile t).ctx.set k { x.setS w.rc (BitVec.ofNat 32 st) with run := .run, wait := none } } ∧
        (∀ j, j ≠ t.val → u.dev.tile j = d.tile j) ∧ u.dev.mem = d.mem ∧ u.dev.regs = d.regs ∧ u.dev.objs = d.objs ∧
        (u.dev.clk (t.val / 8)).lend = false ∧ (u.dev.clk (t.val / 8)).idleSince = none) ∧
      (∀ w c, x.run = .wait → x.wait = some w → d.tileCtx t = some c →
        let lim := (d.reg (at1 Reg.SYNC_WDOGc 4 c)).toNat
        let us := (d.cycle - w.since) / 1600
        (w.reported = true ∨ w.fired ≠ none ∨ lim = 0 ∨ us < lim ∨ (d.img c).state ≠ .running → exec (.syncWatchdogExpire t k) s = .next s) ∧
        (w.reported = false → w.fired = none → 0 < lim → lim ≤ us → (d.img c).state = .running →
          exec (.syncWatchdogExpire t k) s = now (((d.setCtx t k { x with wait := some { w with reported := true } }).event 0x4005 t k w.vid
            us).post c (cplWords 0xFFFF 0xF2 sOk t k w.vid us [])))) ∧
      (x.run ≠ .wait ∨ x.wait = none ∨ d.tileCtx t = none → exec (.syncWatchdogExpire t k) s = .next s)) ∧
    (∀ t : TileIx, let quiet := (d.seq t).leadWaits = false ∧ ∀ q, q < 4 → (d.queue (queueKey t.val q)).descs = [] ∨ (d.queue (queueKey t.val q)).halt ≠ none
      (quiet → d.stage = .ready → exec (.barrierArrivalSend t) s = now { d.setTile t { d.tile t with heldArr := [] } with
        syncFly := d.syncFly ++ (d.tile t).heldArr }) ∧
      (¬quiet ∨ d.stage ≠ .ready → exec (.barrierArrivalSend t) s = .next s)) ∧
    (∀ (n : Port) (f : Frame) (c : Nat), f.kind = 6 → fld f.arg1 16 2 ≠ 3 → (d.port n).state = .up → d.portMode n = 1 →
      f.lseq = (d.port n).expect → f.enc = d.portEnc n → (d.port n).ackDue < 63 → d.routeEn = true → f.cls = frameClass 6 → f.dfa = d.fa → f.sfa ≠ d.fa →
      d.jobCtx f.job = some c → d.soloReplay c = false → d.capturing c = false →
      let p := fld f.arg1 0 14
      let o := d.obj p
      let rt := d.rankTable c 0
      let q := d.ownRank c 0
      let op := fld f.arg1 16 2
      let d1 := d.setPort n { d.port n with
        expect := ((d.port n).expect + 1) % 4096, ackDue := (d.port n).ackDue + 1
        authSeq := (d.port n).authSeq.filter (· ≠ f.lseq) }
      let vid := if o.ictx = c then o.vid else ((o.mapped.find? fun m => decide (m.1 = c)).map (·.2)).getD 0
      let turned := fun (st : Nat) => exec (.flumeSigFrame n f) s =
        now ((d1.syncRefuse vid p none c (if op = 2 then 6 else 0) st true).answerTo f st (fld f.arg1 0 23))
      let mine := (o.ictx = c ∧ o.domain = false) ∨ (o.ictx ≠ c ∧ ∃ m ∈ o.mapped, m.1 = c)
      let armable := o.state = .broken ∧ ∀ e ∈ d.syncFly, ¬(e.kind = .arm ∧ e.phys = p)
      (o.state = .free → turned sParam) ∧
      (o.state ≠ .free → o.ictx ≠ c → (∀ m ∈ o.mapped, m.1 ≠ c) → turned sPerm) ∧
      (o.state ≠ .free → mine → (op = 2 → o.shared = false → turned sPerm) ∧ (op = 2 → o.shared = true → ¬armable → turned sParam) ∧
        (op ≠ 2 → o.state = .broken → turned sBroken) ∧ (op = 0 → o.state ≠ .broken → o.sigs = 0 → turned sParam) ∧
        ((op = 2 ∧ o.shared = true ∧ armable) ∨ (op ≠ 2 ∧ o.state ≠ .broken ∧ (op = 0 → o.sigs ≠ 0)) →
          exec (.flumeSigFrame n f) s = now { d1 with syncFly := d.syncFly ++ [{
            kind := if op = 0 then .signal else if op = 1 then .arrival else .arm, phys := p, bytes := leAt f.payload 4 4, tile := none
            waiter := none, ictx := c, vid := vid, far := true }] })) ∧
      (o.state ≠ .free → o.domain = true → o.ictx = c → f.arg2.toNat % 65536 ≠ o.phase → exec (.flumeSigFrame n f) s = now d1) ∧
      (∀ r, o.state ≠ .free → o.domain = true → o.ictx = c → f.arg2.toNat % 65536 = o.phase → rankOf rt f.sfa = some r →
        (r ∈ treeKids rt.length q → f.sfa ∉ o.ready → ¬o.met = true → exec (.flumeSigFrame n f) s = now (d1.setObj p { o with
          ready := o.ready ++ [f.sfa] })) ∧
        (r ∉ treeKids rt.length q → q ≠ 0 → r = (q - 1) / 8 → o.reported = true → treeKids rt.length q = [] → o.vid ≠ 0 → o.notify = false →
          (∀ u, (d.stepOf c).section_ = some u → fld (wordAt u.header 0) 20 12 ≠ o.vid) →
          (∀ m ∈ (c, o.vid) :: o.mapped, ∀ i x, d.cxOp m.1 i = some x → oTrig x.w ≠ m.2) →
          exec (.flumeSigFrame n f) s = now (o.waiters.foldl (fun d w => d.fireWaiter w sOk) (d1.setObj p { o with
            state := .idle, phase := (o.phase + 1) % 65536, sig := 0, arr := 0, crd := o.crd - o.ann, ann := 0, waiters := []
            heldDue := !o.held.isEmpty, ready := [], reported := false })))))

/-! ### Sluice requests, and containment (R277 to R308, R510, R511, R525 to R527, R631) -/

/-- R281, R292, R293, R296, R299, R304 to R308, R631: the queue that wins its mill's issue port issues its next request, cut at the element
and at 4 KiB, through the translation; a fault or a refusal holds the queue, or halts it, once no request is outstanding; a request
that completes moves its bytes and moves DONE, and the last ends the descriptor; the host resumes or aborts a fault by its number, the
time limit aborts it, and an invalidation discards the context's translations. R510, R511, R525 to R527: the scrubber reads its next word; the
flip mask arms where it may; a fence takes effect at once on a mill that no running context holds, and stops a context at its time limit. -/
def Obligations.SluiceAndContainment : Prop :=
  ∀ (s : State),
    let d := s.dev
    let now := fun (d : Dev) => Host.Outcome.next (φ := Fault) (ρ := Refusal) { s with dev := d }
    let same := fun (u : State) => u.pending = s.pending ∧ u.sk = s.sk
    (∀ (m : MillIx) (n : Fin 32),
      let key := m.val * 32 + n.val
      let t := key / 4
      let q := d.queue key
      let halts := fun (i : Instr) (st : Nat) => ∃ u, exec i s = .next u ∧ same u ∧ (u.dev.queue key).halt = some st ∧
        (u.dev.queue key).descs = [] ∧ (u.dev.queue key).reqs = [] ∧ (u.dev.queue key).code = if q.code = sOk then st else q.code
      let lim := fun (c : Nat) => (d.reg (at1 Reg.SLC_FTMOc 4 c)).toNat
      (d.wins key = false → exec (.sluiceRequestIssue m n) s = .next s) ∧
      (∀ c l x rest, d.wins key = true → d.binding m = some (c, l) → q.descs = x :: rest →
        let pos := q.pos
        let va := sElemVa x.w (pos / sEsize x.w) + pos % sEsize x.w
        let write := decide (sDir x.w ≠ 0)
        (∀ d2 host a, d.walk m c va write = (d2, .ok host a) →
          let len := min (sEsize x.w - pos % sEsize x.w) (4096 - va % 4096)
          let need := if sRate x.w = 0 then none else some (q.t0 + sLead x.w * 1024 + 1000 * pos * 1024 / sRate x.w)
          let r : SReq := { pos := pos, len := len, va := va, host := host, addr := a, need := need }
          exec (.sluiceRequestIssue m n) s = now (d2.setQueue key { q with reqs := q.reqs ++ [r], pos := pos + len, since := d.cycle })) ∧
        (∀ d2 reason level, d.walk m c va write = (d2, .fault reason level) →
          let f : SFault := { reason := reason, level := level, va := va, pos := pos, write := write }
          (q.reqs ≠ [] → ∃ u, exec (.sluiceRequestIssue m n) s = .next u ∧ same u ∧ (u.dev.queue key).faultSince = some d.cycle ∧
            (u.dev.queue key).faultDue = some f ∧ (u.dev.queue key).reqs = q.reqs ∧ (u.dev.queue key).pos = pos) ∧
          (q.reqs = [] → ∃ u, exec (.sluiceRequestIssue m n) s = .next u ∧ same u ∧ (u.dev.queue key).faultSince = some d.cycle ∧
            (u.dev.queue key).faultDue = none ∧ (u.dev.queue key).faultId = q.faultId + 1 ∧ (u.dev.queue key).done = pos ∧
            wordAt (u.dev.queue key).record 0 = BitVec.ofNat 32 (m.val * 2 ^ 24 + n.val * 2 ^ 19 + c * 2 ^ 15 + reason * 2 ^ 13 + level * 2 ^ 10 +
              (if write then 2 ^ 9 else 0)) ∧
            fld (wordAt (u.dev.queue key).record 1) 16 16 = q.faultId % 65536 ∧ wordAt (u.dev.queue key).record 2 = BitVec.ofNat 32 va ∧
            u.dev.reg Reg.SLC_FAULTS = BitVec.ofNat 32 (min 0xFFFFFFFF ((d2.reg Reg.SLC_FAULTS).toNat + 1)))) ∧
        (∀ d2 st, d.walk m c va write = (d2, .refused st) →
          (q.reqs ≠ [] → ∃ u, exec (.sluiceRequestIssue m n) s = .next u ∧ same u ∧ (u.dev.queue key).failed = some (st, va) ∧
            (u.dev.queue key).reqs = q.reqs ∧ (u.dev.queue key).halt = none) ∧
          (q.reqs = [] → (∀ y ∈ q.descs, y.entry = none) → halts (.sluiceRequestIssue m n) st))) ∧
      (∀ i data ok, let row := Instr.sluiceRequestComplete m n i data ok
        (q.reqs[i]? = none ∨ q.descs = [] ∨ d.binding m = none → exec row s = .next s) ∧
        (∀ c l x rest r, q.reqs[i]? = some r → q.descs = x :: rest → d.binding m = some (c, l) →
          let reqs := q.reqs.eraseIdx i
          let left := d.setQueue key { q with reqs := reqs, since := if q.limit ≤ q.reqs.length then d.cycle else q.since }
          let tile := tileAddr t (x.base + sTaddr x.w + r.pos)
          let moved := fun (mem : Memory) (a : Nat) (bs : List Byte) (u : State) => ∀ y, Memory.byte u.dev.mem y =
            if a ≤ y ∧ y < a + bs.length then bs[y - a]? else Memory.byte mem y
          let late := match r.need with
            | some v => decide (v < d.global1024)
            | none => false
          let after := fun (u : State) =>
            (u.dev.queue key).dry = (if late = true then min 0xFFFFFFFF (q.dry + 1) else q.dry) ∧
            (late = true → u.dev.reg Reg.SLC_DRY = BitVec.ofNat 32 (min 0xFFFFFFFF ((d.reg Reg.SLC_DRY).toNat + 1))) ∧
            (reqs ≠ [] → (u.dev.queue key).descs = q.descs ∧ (u.dev.queue key).reqs = reqs ∧
              (u.dev.queue key).done = (reqs.map (·.pos)).foldl min q.pos) ∧
            (reqs = [] → q.pos < sBytes x.w → (u.dev.queue key).descs = q.descs ∧ (u.dev.queue key).done = q.pos) ∧
            (reqs = [] → sBytes x.w ≤ q.pos → (u.dev.queue key).descs = rest ∧ ∀ e y c', x.entry = some e → d.tileCtx t = some c' →
              (d.seq t).entries[e]? = some y → ((u.dev.seq t).entries[e]?).map (·.done) = some true)
          (q.mustWait r = true → exec row s = .next s) ∧
          (q.mustWait r = false → q.failPos = none → q.failed = none → q.faultSince = none → q.faultDue = none → d.unarmed →
            (sDir x.w = 0 → r.host = true → ok = true → r.len ≤ data.length →
              ∃ u, exec row s = .next u ∧ same u ∧ moved d.mem tile (data.take r.len) u ∧ after u) ∧
            (sDir x.w = 0 → r.host = false → let g := left.read 7 r.addr r.len
              g.dev.ecc.pending = d.ecc.pending →
              (∀ bs, g.bytes = some bs → late = false → ∃ u, exec row s = .next u ∧ same u ∧ moved g.dev.mem tile bs u ∧ after u) ∧
              (g.bytes = none → reqs = [] → (∀ y ∈ q.descs, y.entry = none) → halts row sUe)) ∧
            (sDir x.w = 1 → r.host = true → ok = true → d.clean tile r.len = true → ∃ u more, exec row s = .next u ∧ same u ∧
              u.dev.mem = d.mem ∧ u.dev.out = d.out ++ .hostWrite (d.owner c) r.addr (d.bytesAt tile r.len) :: more ∧ after u) ∧
            (sDir x.w = 1 → r.host = false → d.ecc.hbmMode ≠ 1 → d.clean tile r.len = true → (∀ k, (d.stepOf k).section_ = none) →
              ∃ u, exec row s = .next u ∧ same u ∧ moved d.mem r.addr (d.bytesAt tile r.len) u ∧ after u) ∧
            (2 ≤ sDir x.w → r.host = true → ok = true → ∃ u more, exec row s = .next u ∧ same u ∧
              u.dev.mem = d.mem ∧ u.dev.out = d.out ++ .hostWrite (d.owner c) r.addr (patternBytes (sPattern x.w) r.len) :: more ∧ after u) ∧
            (2 ≤ sDir x.w → r.host = false → d.ecc.hbmMode ≠ 1 → (∀ k, (d.stepOf k).section_ = none) →
              ∃ u, exec row s = .next u ∧ same u ∧ moved d.mem r.addr (patternBytes (sPattern x.w) r.len) u ∧ after u) ∧
            (r.host = true → ok = false → reqs ≠ [] → ∃ u, exec row s = .next u ∧ same u ∧ u.dev.mem = d.mem ∧
              (u.dev.queue key).failPos = some r.pos ∧ (u.dev.queue key).faultSince = some d.cycle ∧ (u.dev.queue key).faultDue =
                some { reason := 2, level := 0, va := r.va, pos := r.pos, write := decide (sDir x.w ≠ 0) })))) ∧
      (∀ c l f0, d.binding m = some (c, l) → q.faultSince = some f0 → q.reqs = [] → (∀ y ∈ q.descs, y.entry = none) →
        lim c ≠ 0 → f0 + 1600 * lim c < d.cycle → halts (.sluiceFaultTimeout m n) sFault) ∧
      (q.faultSince = none ∨ d.binding m = none ∨ (∃ c l f0, d.binding m = some (c, l) ∧ q.faultSince = some f0 ∧
        (lim c = 0 ∨ d.cycle ≤ f0 + 1600 * lim c)) → exec (.sluiceFaultTimeout m n) s = .next s)) ∧
    (bit (d.reg Reg.SLC_INV) 31 = false → exec .slcInvDone s = .next s) ∧
    (bit (d.reg Reg.SLC_INV) 31 = true → ∃ v, bit v 31 = false ∧ bit v 8 = false ∧ exec .slcInvDone s = now
      (({ d with xcache := d.xcache.filter fun x => decide (x.ictx ≠ d.regFld Reg.SLC_INV 0 4) } : Dev).setReg Reg.SLC_INV v)) ∧
    (∀ (who : Requester) (w : Word), who = .host 0 ∨ who = .skeop → d.regsUp who = true →
      let key := d.regFld Reg.SLC_SEL 0 8 * 32 + d.regFld Reg.SLC_SEL 16 5
      let q := d.queue key
      let held := q.faultSince ≠ none ∧ q.faultDue = none ∧ q.record ≠ [] ∧ fld (wordAt q.record 1) 16 16 = fld w 0 16
      let refused := fun (o : Host.Outcome State Fault Refusal) => ∃ t n, o = .next t ∧ t.pending = s.pending ∧ t.sk = s.sk ∧
        Dev.Logs { d with freeIx := n } t.dev Reg.ECC_ERR_ADDR_LO
      (w &&& 0x3FFF0000 = 0 →
        (held → exec (.sluiceResume who w) s = now (d.setQueue key { q with
          faultSince := none, faultDue := none, failPos := none, pos := q.done, since := d.cycle })) ∧
        (held → q.reqs = [] → (∀ y ∈ q.descs, y.entry = none) → ∃ u, exec (.sluiceAbort who w) s = .next u ∧ same u ∧
          (u.dev.queue key).halt = some sFault ∧ (u.dev.queue key).descs = [] ∧ u.dev.mem = d.mem) ∧
        (¬held → ∀ j, j = Instr.sluiceResume who w ∨ j = .sluiceAbort who w → ∃ u n, exec j s = .next u ∧ same u ∧
          Dev.Logs { d with freeIx := n } u.dev Reg.SLC_ERR_ADDR_LO ∧ (bit (d.reg Reg.SLC_ERR_INFO) 31 = false →
            fld (u.dev.reg Reg.SLC_ERR_INFO) 0 4 = sParam ∧ fld (u.dev.reg Reg.SLC_ERR_INFO) 8 4 = 5))) ∧
      (w &&& 0xFFFFFEF0 = 0 → ∃ v, bit v 31 = true ∧ bit v 8 = true ∧ fld v 0 4 = fld w 0 4 ∧ exec (.slcInvGo who w) s = now
        (({ d with xcache := if bit (d.reg Reg.SLC_INV) 31 then d.xcache.filter fun x => decide (x.ictx ≠ d.regFld Reg.SLC_INV 0 4)
          else d.xcache } : Dev).setReg Reg.SLC_INV v)) ∧
      (w &&& 0x7CFFF800 = 0 →
        let target := fld w 24 2
        let most := if target = 0 then 1727 else if target = 1 then 215 else 11
        let good := bit (d.reg Reg.ECC_FLIP_SEL) 31 = false ∧ target ≠ 3 ∧ fld w 0 11 ≤ most ∧
          (d.reg Reg.ECC_FLIP_MASK_LO ≠ 0 ∨ d.reg Reg.ECC_FLIP_MASK_HI ≠ 0 ∨ fld (d.reg Reg.ECC_FLIP_CHK) 0 16 ≠ 0) ∧
          (s.sk.mode = .test ∨ s.sk.debug = 2)
        (good → ∃ v, bit v 31 = true ∧ fld v 24 2 = target ∧ fld v 0 11 = fld w 0 11 ∧
          exec (.flipArm who w) s = now (d.setReg Reg.ECC_FLIP_SEL v)) ∧
        (¬good → refused (exec (.flipArm who w) s))) ∧
      (w &&& 0xFFFFFF00 = 0 →
        let p := fld w 0 8
        let ic := ((d.binding p).map (·.1)).getD 15
        (215 < p → refused (exec (.fenceRequest who w) s)) ∧
        (p ≤ 215 → d.ecc.pending = [] → d.isFenced p = true → exec (.fenceRequest who w) s = now (d.event 0xB007 p 0 ic 0)) ∧
        (p ≤ 215 → d.ecc.pending = [] → d.isFenced p = false →
          (d.binding p = none → ∃ u, exec (.fenceRequest who w) s = .next u ∧ same u ∧ u.dev.ecc.pending = [] ∧
            u.dev.ecc.fenced = d.ecc.fenced ++ [p] ∧ u.dev.ecc.lastFence = p ∧ p / 9 ∈ u.dev.ecc.spareUsed ∧ u.dev.mem = d.mem ∧
            u.dev.imgs = d.imgs ∧ u.dev.tiles = d.tiles) ∧
          (∀ c l, d.binding p = some (c, l) → (d.img c).state = .running → ∃ u, exec (.fenceRequest who w) s = .next u ∧ same u ∧
            u.dev.ecc = { d.ecc with pending := [{ mill := p, trigger := 0, ictx := c, since := d.cycle }] } ∧ u.dev.imgs = d.imgs ∧
            u.dev.mem = d.mem) ∧
          (∀ c l, d.binding p = some (c, l) → (d.img c).state = .loaded → ∃ u, exec (.fenceRequest who w) s = .next u ∧ same u ∧
            u.dev.ecc.pending = [] ∧ u.dev.ecc.fenced = d.ecc.fenced ++ [p] ∧ (u.dev.img c).state = .stopped ∧ (u.dev.img c).cause = 12 ∧
            (u.dev.img c).mills = (d.img c).mills.set l 0xFF) ∧
          (∀ c l, d.binding p = some (c, l) → (d.img c).state = .stopped → ∃ u, exec (.fenceRequest who w) s = .next u ∧ same u ∧
            u.dev.ecc.fenced = d.ecc.fenced ++ [p] ∧ (u.dev.img c).state = .stopped ∧ (u.dev.img c).cause = (d.img c).cause ∧
            (u.dev.img c).mills = (d.img c).mills.set l 0xFF)))) ∧
    (let tmo := 1600 * (d.reg Reg.ECC_FENCE_TMO).toNat;
      ((∀ f ∈ d.ecc.pending, d.binding f.mill = none ∨ d.cycle < f.since + tmo) → exec .fenceTimeout s = .next s) ∧
      (∀ f c l, d.ecc.pending = [f] → d.binding f.mill = some (c, l) → f.since + tmo ≤ d.cycle → (d.img c).state = .running → d.commitRuns c = false →
        ∃ u, exec .fenceTimeout s = .next u ∧ same u ∧ (u.dev.img c).state = .stopped ∧ (u.dev.img c).cause = 12 ∧
          u.dev.ecc.pending = [] ∧ u.dev.ecc.fenced = d.ecc.fenced ++ [f.mill])) ∧
    (∀ hbm : Bool,
      let n := if hbm then d.ecc.scrubHbm else d.ecc.scrubTile
      let last := (if hbm then d.hbmSize / 8 else 1728 * (tileSize / 8)) ≤ n + 1
      let a := if hbm then 8 * n else tileAddr (n / (tileSize / 8)) (n % (tileSize / 8) * 8)
      let next := if last then 0 else n + 1
      (d.stage ≠ .ready ∨ (hbm = true ∧ d.park.stage = .parked) → exec (.scrubRead hbm) s = .next s) ∧
      (d.stage = .ready → hbm = false ∨ d.park.stage ≠ .parked →
        ((hbm = false ∧ d.clean a 8 = true) ∨ (d.readWord 14 a true).1 = d → ¬last → exec (.scrubRead hbm) s = now { d with
          ecc := if hbm then { d.ecc with scrubHbm := next } else { d.ecc with scrubTile := next } }) ∧
        ∃ u, exec (.scrubRead hbm) s = .next u ∧ same u ∧ (if hbm then u.dev.ecc.scrubHbm else u.dev.ecc.scrubTile) = next))

/-! ### The queue, the reset state, and what every step keeps -/

/-- The command at the front of the queue runs with the queue's rest; with nothing waiting one Race cycle passes (log 1). -/
def Obligations.StepRunsTheFrontCommand : Prop :=
  (∀ (c : Instr) (rest : List Instr) (s : State), step { s with pending := c :: rest } = exec c { s with pending := rest }) ∧
  ∀ s : State, s.pending = [] → ∃ t, step s = .next t ∧ t.pending = [] ∧ t.sk = s.sk ∧ t.dev.cycle = s.dev.cycle + 1 ∧ t.dev.mem = s.dev.mem

/-- R246, R294, R486, R567, R602, R619: after reset the queue is empty, Skeop is sound, in START-UP and LOCKED, no context is loaded, every counter
is free, every port down, every Sluice queue EMPTY, and the registers read as the register tables give them. -/
def Obligations.ResetState : Prop :=
  let s := State.reset
  let d := s.dev
  s.pending = [] ∧ s.sk.sound ∧ s.sk.mode = .startUp ∧ s.sk.debug = 0 ∧ Memory.wf d.mem = true ∧ d.stage = .inReset ∧ d.routeEn = false ∧
  (∀ c, (d.img c).state = .empty) ∧ (∀ p, (d.obj p).state = .free) ∧ (∀ n, (d.port n).state = .down) ∧
  (∀ k, (d.queue k).descs = [] ∧ (d.queue k).limit = 8) ∧ d.race = [] ∧ d.syncFly = [] ∧ d.cxRun = [] ∧
  d.reg Reg.ECC_FENCE_TMO = 1000 ∧ d.reg Reg.ECC_FLIP_SEL = 0 ∧ d.fenceWord = 0xFF000000 ∧
  ∀ o, d.reg o = regReset o

/-- R567, R569, R570, R575, R577, R578, R601 to R604: from every state in which Skeop is sound, every step answers a state in which it is sound;
the step takes one command off the queue; TEST and RECOVERY are left by a reset alone, OPERATIONAL is entered from START-UP and TEST
from START-UP or OPERATIONAL while every context is EMPTY; fuses are blown only in START-UP or RECOVERY, never beyond the running
firmware's SVN, and never mend; an owner root stays set; and debug falls to LOCKED alone, with every session gone. -/
def Obligations.SkeopSoundnessInvariant : Prop :=
  ∀ s : State, s.sk.sound → ∃ t, step s = .next t ∧ t.sk.sound ∧ t.pending = s.pending.tail ∧
    (t.sk.mode ≠ s.sk.mode → s.sk.mode = .test ∨ s.sk.mode = .recovery → t.sk.mode = .startUp ∨ t.sk.mode = .recovery) ∧
    (t.sk.mode ≠ s.sk.mode → t.sk.mode = .operational → s.sk.mode = .startUp) ∧
    (t.sk.mode ≠ s.sk.mode → t.sk.mode = .test → (s.sk.mode = .startUp ∨ s.sk.mode = .operational) ∧ s.dev.allEmpty = true) ∧
    s.sk.fusedSvn ≤ t.sk.fusedSvn ∧
    (s.sk.fusedSvn < t.sk.fusedSvn → t.sk.fusedSvn ≤ s.sk.svnRun ∧ (s.sk.mode = .startUp ∨ s.sk.mode = .recovery)) ∧
    (s.sk.owner.isSome = true → t.sk.owner.isSome = true) ∧
    (t.sk.debug < s.sk.debug → t.sk.debug = 0 ∧ t.sk.sessions = [])
end

