-- ==== Sys2Proof/Laws/Tab.lean ====
section
/-!
SUPPORT. Sparse tables and memory: what a key reads as after an update, and that every update keeps the canonical form.
-/
namespace Sys2Proof.Machine

variable {α : Type}

theorem Tab.find_erase_same (t : Tab α) (i : Nat) : Tab.find (Tab.erase t i) i = none := by
  induction t with
  | nil => rfl
  | cons e t ih =>
    obtain ⟨k, v⟩ := e
    by_cases h : k = i
    · simpa [Tab.erase, h] using ih
    · have : i ≠ k := fun h' => h h'.symm
      simpa [Tab.erase, Tab.find, h, this] using ih

theorem Tab.find_erase_ne (t : Tab α) {i j : Nat} (h : j ≠ i) : Tab.find (Tab.erase t i) j = Tab.find t j := by
  induction t with
  | nil => rfl
  | cons e t ih =>
    obtain ⟨k, v⟩ := e
    by_cases hk : k = i
    · subst hk
      simpa [Tab.erase, Tab.find, h] using ih
    · by_cases hj : j = k <;> simp_all [Tab.erase, Tab.find]

theorem Tab.find_put (t : Tab α) (i j : Nat) (v : α) : Tab.find (Tab.put t i v) j = if j = i then some v else Tab.find t j := by
  induction t with
  | nil => simp [Tab.put, Tab.find]
  | cons e t ih =>
    obtain ⟨k, w⟩ := e
    by_cases h1 : i < k
    · by_cases hj : j = i <;> simp [Tab.put, Tab.find, h1, hj]
    · by_cases h2 : i = k
      · subst h2
        by_cases hj : j = i <;> simp [Tab.put, Tab.find, hj]
      · by_cases hj : j = k
        · have : k ≠ i := fun h => h2 h.symm
          simp [Tab.put, Tab.find, h1, h2, hj, this]
        · simp [Tab.put, Tab.find, h1, h2, hj, ih]

/-- What a key reads as after a write: the value at its own key, and every other key as before. -/
theorem Tab.get_set [DecidableEq α] (d : Nat → α) (t : Tab α) (i j : Nat) (v : α) :
    Tab.get d (Tab.set d t i v) j = if j = i then v else Tab.get d t j := by
  unfold Tab.set Tab.get
  by_cases hv : v = d i
  · by_cases hj : j = i
    · subst hj; simp [hv, Tab.find_erase_same]
    · simp [hv, hj, Tab.find_erase_ne t hj]
  · by_cases hj : j = i <;> simp [hv, hj, Tab.find_put]

@[simp] theorem Tab.get_set_same [DecidableEq α] (d : Nat → α) (t : Tab α) (i : Nat) (v : α) :
    Tab.get d (Tab.set d t i v) i = v := by simp [Tab.get_set]

theorem Tab.get_set_ne [DecidableEq α] (d : Nat → α) (t : Tab α) {i j : Nat} (v : α) (h : j ≠ i) :
    Tab.get d (Tab.set d t i v) j = Tab.get d t j := by simp [Tab.get_set, h]

@[simp] theorem Tab.get_nil (d : Nat → α) (i : Nat) : Tab.get d [] i = d i := rfl

/-! ### The canonical form -/

theorem Tab.rising_mono {lo lo' : Nat} (h : lo' ≤ lo) (t : Tab α) : Tab.rising lo t = true → Tab.rising lo' t = true := by
  cases t with
  | nil => simp [Tab.rising]
  | cons e t => obtain ⟨k, v⟩ := e; simp [Tab.rising]; intro a b; exact ⟨by omega, b⟩

theorem Tab.rising_put {lo i : Nat} (h : lo ≤ i) (t : Tab α) (v : α) :
    Tab.rising lo t = true → Tab.rising lo (Tab.put t i v) = true := by
  induction t generalizing lo with
  | nil => simp [Tab.put, Tab.rising, h]
  | cons e t ih =>
    obtain ⟨k, w⟩ := e
    intro hr
    simp only [Tab.rising, Bool.and_eq_true, decide_eq_true_eq] at hr
    by_cases h1 : i < k
    · simp [Tab.put, Tab.rising, h1, h, hr.2]
    · by_cases h2 : i = k
      · simp [Tab.put, Tab.rising, h2, hr]
      · simp [Tab.put, Tab.rising, h1, h2, hr.1]; exact ih (by omega) hr.2

theorem Tab.rising_filter (p : Nat × α → Bool) {lo : Nat} (t : Tab α) :
    Tab.rising lo t = true → Tab.rising lo (t.filter p) = true := by
  induction t generalizing lo with
  | nil => simp [Tab.rising]
  | cons e t ih =>
    obtain ⟨k, w⟩ := e
    intro hr
    simp only [Tab.rising, Bool.and_eq_true, decide_eq_true_eq] at hr
    by_cases hp : p (k, w) = true
    · simp [hp, Tab.rising, hr.1, ih hr.2]
    · simp [hp]
      exact Tab.rising_mono (by omega) _ (ih hr.2)

theorem Tab.mem_put {t : Tab α} {i : Nat} {v : α} {e : Nat × α} (h : e ∈ Tab.put t i v) : e = (i, v) ∨ e ∈ t := by
  induction t with
  | nil => simpa [Tab.put] using h
  | cons x t ih =>
    obtain ⟨k, w⟩ := x
    unfold Tab.put at h
    split at h
    · simpa using h
    · split at h
      · rename_i h1 h2; subst h2
        rcases List.mem_cons.1 h with h | h
        · exact .inl h
        · exact .inr (List.mem_cons_of_mem _ h)
      · rcases List.mem_cons.1 h with h | h
        · exact .inr (by simp [h])
        · rcases ih h with h | h
          · exact .inl h
          · exact .inr (List.mem_cons_of_mem _ h)

/-- A write keeps the canonical form. -/
theorem Tab.wf_set [DecidableEq α] (d : Nat → α) (t : Tab α) (i : Nat) (v : α) (h : Tab.wf d t = true) :
    Tab.wf d (Tab.set d t i v) = true := by
  simp only [Tab.wf, Bool.and_eq_true, List.all_eq_true, decide_eq_true_eq] at h ⊢
  unfold Tab.set
  split
  · refine ⟨Tab.rising_filter _ _ h.1, fun e he => h.2 e (List.mem_of_mem_filter he)⟩
  · rename_i hv
    refine ⟨Tab.rising_put (Nat.zero_le i) _ _ h.1, fun e he => ?_⟩
    rcases Tab.mem_put he with rfl | he
    · exact hv
    · exact h.2 e he

/-! ### Memory -/

theorem Memory.byte_setByte (m : Memory) (a x : Nat) (b : Byte) :
    Memory.byte (Memory.setByte m a b) x = if x = a then some b else Memory.byte m x := Tab.find_put m a x b

/-- What a byte reads as after a write of several: the byte written there, and every other byte as before. -/
theorem Memory.byte_setBytes (m : Memory) (a : Nat) (bs : List Byte) (x : Nat) :
    Memory.byte (Memory.setBytes m a bs) x = if a ≤ x ∧ x < a + bs.length then bs[x - a]? else Memory.byte m x := by
  induction bs generalizing m a with
  | nil =>
    simp [Memory.setBytes]
  | cons b bs ih =>
    simp only [Memory.setBytes, ih, Memory.byte_setByte, List.length_cons]
    by_cases h0 : x = a
    · subst h0
      simp
    · by_cases h1 : a + 1 ≤ x ∧ x < a + 1 + bs.length
      · have h2 : a ≤ x ∧ x < a + (bs.length + 1) := by omega
        have h3 : x - a = (x - (a + 1)) + 1 := by omega
        rw [if_pos h1, if_pos h2, h3, List.getElem?_cons_succ]
      · have h2 : ¬ (a ≤ x ∧ x < a + (bs.length + 1)) := by omega
        rw [if_neg h1, if_neg h2, if_neg h0]

/-- A byte outside the bytes written reads as before. -/
theorem Memory.byte_setBytes_out (m : Memory) (a : Nat) (bs : List Byte) {x : Nat} (h : x < a ∨ a + bs.length ≤ x) :
    Memory.byte (Memory.setBytes m a bs) x = Memory.byte m x := by
  rw [Memory.byte_setBytes, if_neg (by omega)]

theorem Tab.find_filter_out (p : Nat → Bool) (t : Tab α) (i : Nat) :
    Tab.find (t.filter fun e => p e.1) i = if p i then Tab.find t i else none := by
  induction t with
  | nil => simp [Tab.find]
  | cons e t ih =>
    obtain ⟨k, v⟩ := e
    by_cases hk : p k = true
    · by_cases hi : i = k
      · subst hi; simp [hk, Tab.find]
      · simp [hk, Tab.find, hi, ih]
    · by_cases hi : i = k
      · subst hi; simp [hk, ih]
      · simp [hk, Tab.find, hi, ih]

/-- What a byte reads as once bytes have been forgotten: none among them, and every other byte as before. -/
theorem Memory.byte_forget (m : Memory) (a n x : Nat) :
    Memory.byte (Memory.forget m a n) x = if x < a ∨ a + n ≤ x then Memory.byte m x else none := by
  unfold Memory.forget Memory.byte
  rw [Tab.find_filter_out (fun i => decide (i < a ∨ a + n ≤ i))]
  by_cases h : x < a ∨ a + n ≤ x <;> simp [h]

theorem Memory.wf_setByte (m : Memory) (a : Nat) (b : Byte) (h : Memory.wf m = true) : Memory.wf (Memory.setByte m a b) = true :=
  Tab.rising_put (Nat.zero_le a) m b h

/-- Every memory operation keeps the canonical form. -/
theorem Memory.wf_setBytes (m : Memory) (a : Nat) (bs : List Byte) (h : Memory.wf m = true) :
    Memory.wf (Memory.setBytes m a bs) = true := by
  induction bs generalizing m a with
  | nil => exact h
  | cons b bs ih => exact ih _ _ (Memory.wf_setByte m a b h)

theorem Memory.wf_fill (m : Memory) (a n : Nat) (b : Byte) (h : Memory.wf m = true) : Memory.wf (Memory.fill m a n b) = true :=
  Memory.wf_setBytes m a _ h

theorem Memory.wf_forget (m : Memory) (a n : Nat) (h : Memory.wf m = true) : Memory.wf (Memory.forget m a n) = true :=
  Tab.rising_filter _ m h

/-- The bytes from an address up, where each of them is listed. -/
theorem Memory.bytes_eq_some {m : Memory} {n a : Nat} {bs : List Byte} :
    Memory.bytes m n a = some bs ↔ bs.length = n ∧ ∀ i, i < n → Memory.byte m (a + i) = bs[i]? := by
  induction n generalizing a bs with
  | zero => cases bs <;> simp [Memory.bytes]
  | succ n ih =>
    unfold Memory.bytes
    cases hb : Memory.byte m a with
    | none =>
      simp only [reduceCtorEq, false_iff]
      rintro ⟨hl, h⟩
      have := h 0 (by omega)
      rw [Nat.add_zero, hb] at this
      cases bs <;> simp_all
    | some b =>
      cases ht : Memory.bytes m n (a + 1) with
      | none =>
        simp only [reduceCtorEq, false_iff]
        rintro ⟨hl, h⟩
        cases bs with
        | nil => simp at hl
        | cons c cs =>
          have : Memory.bytes m n (a + 1) = some cs := (ih).2 ⟨by simpa using hl, fun i hi => by
            have := h (i + 1) (by omega)
            rw [List.getElem?_cons_succ] at this
            rwa [show a + 1 + i = a + (i + 1) by omega]⟩
          rw [ht] at this; cases this
      | some cs =>
        have hcs := (ih (bs := cs)).1 ht
        constructor
        · intro h
          simp only [Option.some.injEq] at h
          subst h
          refine ⟨by simp [hcs.1], fun i hi => ?_⟩
          cases i with
          | zero => simpa using hb
          | succ i =>
            rw [List.getElem?_cons_succ, ← hcs.2 i (by omega), show a + (i + 1) = a + 1 + i by omega]
        · rintro ⟨hl, h⟩
          cases bs with
          | nil => simp at hl
          | cons c cs' =>
            have h0 := h 0 (by omega)
            rw [Nat.add_zero, hb] at h0
            simp only [List.getElem?_cons_zero, Option.some.injEq] at h0
            have h1 : Memory.bytes m n (a + 1) = some cs' := (ih).2 ⟨by simpa using hl, fun i hi => by
              have := h (i + 1) (by omega)
              rw [List.getElem?_cons_succ] at this
              rwa [show a + 1 + i = a + (i + 1) by omega]⟩
            rw [ht] at h1
            simp_all

end Sys2Proof.Machine
end

