-- ==== Sys2Proof/Laws/State.lean ====
section
/-!
SUPPORT. One lemma for each field and each update of the state, true by `rfl`, and what each unit reads as once one has
been stored.
-/
namespace Sys2Proof.Machine

/-! ### State -/

@[simp] theorem onDev_pending (f : Dev → Dev) (s : State) : (onDev f s).pending = s.pending := rfl
@[simp] theorem onDev_sk (f : Dev → Dev) (s : State) : (onDev f s).sk = s.sk := rfl
@[simp] theorem onDev_dev (f : Dev → Dev) (s : State) : (onDev f s).dev = f s.dev := rfl
@[simp] theorem onSk_pending (f : Skeop → Skeop) (s : State) : (onSk f s).pending = s.pending := rfl
@[simp] theorem onSk_dev (f : Skeop → Skeop) (s : State) : (onSk f s).dev = s.dev := rfl
@[simp] theorem onSk_sk (f : Skeop → Skeop) (s : State) : (onSk f s).sk = f s.sk := rfl

/-! ### setReg -/

@[simp] theorem setReg_cycle (d : Dev) (o : Nat) (w : Word) : (d.setReg o w).cycle = d.cycle := rfl
@[simp] theorem setReg_freeIx (d : Dev) (o : Nat) (w : Word) : (d.setReg o w).freeIx = d.freeIx := rfl
@[simp] theorem setReg_halves (d : Dev) (o : Nat) (w : Word) : (d.setReg o w).halves = d.halves := rfl
@[simp] theorem setReg_mem (d : Dev) (o : Nat) (w : Word) : (d.setReg o w).mem = d.mem := rfl
@[simp] theorem setReg_ecc (d : Dev) (o : Nat) (w : Word) : (d.setReg o w).ecc = d.ecc := rfl
@[simp] theorem setReg_evr (d : Dev) (o : Nat) (w : Word) : (d.setReg o w).evr = d.evr := rfl
@[simp] theorem setReg_lehr (d : Dev) (o : Nat) (w : Word) : (d.setReg o w).lehr = d.lehr := rfl
@[simp] theorem setReg_park (d : Dev) (o : Nat) (w : Word) : (d.setReg o w).park = d.park := rfl
@[simp] theorem setReg_gov (d : Dev) (o : Nat) (w : Word) : (d.setReg o w).gov = d.gov := rfl
@[simp] theorem setReg_stage (d : Dev) (o : Nat) (w : Word) : (d.setReg o w).stage = d.stage := rfl
@[simp] theorem setReg_tiles (d : Dev) (o : Nat) (w : Word) : (d.setReg o w).tiles = d.tiles := rfl
@[simp] theorem setReg_mills (d : Dev) (o : Nat) (w : Word) : (d.setReg o w).mills = d.mills := rfl
@[simp] theorem setReg_seqs (d : Dev) (o : Nat) (w : Word) : (d.setReg o w).seqs = d.seqs := rfl
@[simp] theorem setReg_race (d : Dev) (o : Nat) (w : Word) : (d.setReg o w).race = d.race := rfl
@[simp] theorem setReg_objs (d : Dev) (o : Nat) (w : Word) : (d.setReg o w).objs = d.objs := rfl
@[simp] theorem setReg_syncFly (d : Dev) (o : Nat) (w : Word) : (d.setReg o w).syncFly = d.syncFly := rfl
@[simp] theorem setReg_sluice (d : Dev) (o : Nat) (w : Word) : (d.setReg o w).sluice = d.sluice := rfl
@[simp] theorem setReg_xcache (d : Dev) (o : Nat) (w : Word) : (d.setReg o w).xcache = d.xcache := rfl
@[simp] theorem setReg_imgs (d : Dev) (o : Nat) (w : Word) : (d.setReg o w).imgs = d.imgs := rfl
@[simp] theorem setReg_colls (d : Dev) (o : Nat) (w : Word) : (d.setReg o w).colls = d.colls := rfl
@[simp] theorem setReg_cxRun (d : Dev) (o : Nat) (w : Word) : (d.setReg o w).cxRun = d.cxRun := rfl
@[simp] theorem setReg_cxWait (d : Dev) (o : Nat) (w : Word) : (d.setReg o w).cxWait = d.cxWait := rfl
@[simp] theorem setReg_guards (d : Dev) (o : Nat) (w : Word) : (d.setReg o w).guards = d.guards := rfl
@[simp] theorem setReg_steps (d : Dev) (o : Nat) (w : Word) : (d.setReg o w).steps = d.steps := rfl
@[simp] theorem setReg_measures (d : Dev) (o : Nat) (w : Word) : (d.setReg o w).measures = d.measures := rfl
@[simp] theorem setReg_ledger (d : Dev) (o : Nat) (w : Word) : (d.setReg o w).ledger = d.ledger := rfl
@[simp] theorem setReg_ledgerCount (d : Dev) (o : Nat) (w : Word) : (d.setReg o w).ledgerCount = d.ledgerCount := rfl
@[simp] theorem setReg_flume (d : Dev) (o : Nat) (w : Word) : (d.setReg o w).flume = d.flume := rfl
@[simp] theorem setReg_numVf (d : Dev) (o : Nat) (w : Word) : (d.setReg o w).numVf = d.numVf := rfl
@[simp] theorem setReg_cplErr (d : Dev) (o : Nat) (w : Word) : (d.setReg o w).cplErr = d.cplErr := rfl
@[simp] theorem setReg_out (d : Dev) (o : Nat) (w : Word) : (d.setReg o w).out = d.out := rfl
@[simp] theorem setReg_reply (d : Dev) (o : Nat) (w : Word) : (d.setReg o w).reply = d.reply := rfl

/-! ### setTile -/

@[simp] theorem setTile_cycle (d : Dev) (t : Nat) (v : Tile) : (d.setTile t v).cycle = d.cycle := rfl
@[simp] theorem setTile_freeIx (d : Dev) (t : Nat) (v : Tile) : (d.setTile t v).freeIx = d.freeIx := rfl
@[simp] theorem setTile_regs (d : Dev) (t : Nat) (v : Tile) : (d.setTile t v).regs = d.regs := rfl
@[simp] theorem setTile_halves (d : Dev) (t : Nat) (v : Tile) : (d.setTile t v).halves = d.halves := rfl
@[simp] theorem setTile_mem (d : Dev) (t : Nat) (v : Tile) : (d.setTile t v).mem = d.mem := rfl
@[simp] theorem setTile_ecc (d : Dev) (t : Nat) (v : Tile) : (d.setTile t v).ecc = d.ecc := rfl
@[simp] theorem setTile_evr (d : Dev) (t : Nat) (v : Tile) : (d.setTile t v).evr = d.evr := rfl
@[simp] theorem setTile_lehr (d : Dev) (t : Nat) (v : Tile) : (d.setTile t v).lehr = d.lehr := rfl
@[simp] theorem setTile_park (d : Dev) (t : Nat) (v : Tile) : (d.setTile t v).park = d.park := rfl
@[simp] theorem setTile_gov (d : Dev) (t : Nat) (v : Tile) : (d.setTile t v).gov = d.gov := rfl
@[simp] theorem setTile_stage (d : Dev) (t : Nat) (v : Tile) : (d.setTile t v).stage = d.stage := rfl
@[simp] theorem setTile_mills (d : Dev) (t : Nat) (v : Tile) : (d.setTile t v).mills = d.mills := rfl
@[simp] theorem setTile_seqs (d : Dev) (t : Nat) (v : Tile) : (d.setTile t v).seqs = d.seqs := rfl
@[simp] theorem setTile_race (d : Dev) (t : Nat) (v : Tile) : (d.setTile t v).race = d.race := rfl
@[simp] theorem setTile_objs (d : Dev) (t : Nat) (v : Tile) : (d.setTile t v).objs = d.objs := rfl
@[simp] theorem setTile_syncFly (d : Dev) (t : Nat) (v : Tile) : (d.setTile t v).syncFly = d.syncFly := rfl
@[simp] theorem setTile_sluice (d : Dev) (t : Nat) (v : Tile) : (d.setTile t v).sluice = d.sluice := rfl
@[simp] theorem setTile_xcache (d : Dev) (t : Nat) (v : Tile) : (d.setTile t v).xcache = d.xcache := rfl
@[simp] theorem setTile_imgs (d : Dev) (t : Nat) (v : Tile) : (d.setTile t v).imgs = d.imgs := rfl
@[simp] theorem setTile_colls (d : Dev) (t : Nat) (v : Tile) : (d.setTile t v).colls = d.colls := rfl
@[simp] theorem setTile_cxRun (d : Dev) (t : Nat) (v : Tile) : (d.setTile t v).cxRun = d.cxRun := rfl
@[simp] theorem setTile_cxWait (d : Dev) (t : Nat) (v : Tile) : (d.setTile t v).cxWait = d.cxWait := rfl
@[simp] theorem setTile_guards (d : Dev) (t : Nat) (v : Tile) : (d.setTile t v).guards = d.guards := rfl
@[simp] theorem setTile_steps (d : Dev) (t : Nat) (v : Tile) : (d.setTile t v).steps = d.steps := rfl
@[simp] theorem setTile_measures (d : Dev) (t : Nat) (v : Tile) : (d.setTile t v).measures = d.measures := rfl
@[simp] theorem setTile_ledger (d : Dev) (t : Nat) (v : Tile) : (d.setTile t v).ledger = d.ledger := rfl
@[simp] theorem setTile_ledgerCount (d : Dev) (t : Nat) (v : Tile) : (d.setTile t v).ledgerCount = d.ledgerCount := rfl
@[simp] theorem setTile_flume (d : Dev) (t : Nat) (v : Tile) : (d.setTile t v).flume = d.flume := rfl
@[simp] theorem setTile_numVf (d : Dev) (t : Nat) (v : Tile) : (d.setTile t v).numVf = d.numVf := rfl
@[simp] theorem setTile_cplErr (d : Dev) (t : Nat) (v : Tile) : (d.setTile t v).cplErr = d.cplErr := rfl
@[simp] theorem setTile_out (d : Dev) (t : Nat) (v : Tile) : (d.setTile t v).out = d.out := rfl
@[simp] theorem setTile_reply (d : Dev) (t : Nat) (v : Tile) : (d.setTile t v).reply = d.reply := rfl

/-! ### setMill -/

@[simp] theorem setMill_cycle (d : Dev) (p : Nat) (v : Mill) : (d.setMill p v).cycle = d.cycle := rfl
@[simp] theorem setMill_freeIx (d : Dev) (p : Nat) (v : Mill) : (d.setMill p v).freeIx = d.freeIx := rfl
@[simp] theorem setMill_regs (d : Dev) (p : Nat) (v : Mill) : (d.setMill p v).regs = d.regs := rfl
@[simp] theorem setMill_halves (d : Dev) (p : Nat) (v : Mill) : (d.setMill p v).halves = d.halves := rfl
@[simp] theorem setMill_mem (d : Dev) (p : Nat) (v : Mill) : (d.setMill p v).mem = d.mem := rfl
@[simp] theorem setMill_ecc (d : Dev) (p : Nat) (v : Mill) : (d.setMill p v).ecc = d.ecc := rfl
@[simp] theorem setMill_evr (d : Dev) (p : Nat) (v : Mill) : (d.setMill p v).evr = d.evr := rfl
@[simp] theorem setMill_lehr (d : Dev) (p : Nat) (v : Mill) : (d.setMill p v).lehr = d.lehr := rfl
@[simp] theorem setMill_park (d : Dev) (p : Nat) (v : Mill) : (d.setMill p v).park = d.park := rfl
@[simp] theorem setMill_gov (d : Dev) (p : Nat) (v : Mill) : (d.setMill p v).gov = d.gov := rfl
@[simp] theorem setMill_stage (d : Dev) (p : Nat) (v : Mill) : (d.setMill p v).stage = d.stage := rfl
@[simp] theorem setMill_tiles (d : Dev) (p : Nat) (v : Mill) : (d.setMill p v).tiles = d.tiles := rfl
@[simp] theorem setMill_seqs (d : Dev) (p : Nat) (v : Mill) : (d.setMill p v).seqs = d.seqs := rfl
@[simp] theorem setMill_race (d : Dev) (p : Nat) (v : Mill) : (d.setMill p v).race = d.race := rfl
@[simp] theorem setMill_objs (d : Dev) (p : Nat) (v : Mill) : (d.setMill p v).objs = d.objs := rfl
@[simp] theorem setMill_syncFly (d : Dev) (p : Nat) (v : Mill) : (d.setMill p v).syncFly = d.syncFly := rfl
@[simp] theorem setMill_sluice (d : Dev) (p : Nat) (v : Mill) : (d.setMill p v).sluice = d.sluice := rfl
@[simp] theorem setMill_xcache (d : Dev) (p : Nat) (v : Mill) : (d.setMill p v).xcache = d.xcache := rfl
@[simp] theorem setMill_imgs (d : Dev) (p : Nat) (v : Mill) : (d.setMill p v).imgs = d.imgs := rfl
@[simp] theorem setMill_colls (d : Dev) (p : Nat) (v : Mill) : (d.setMill p v).colls = d.colls := rfl
@[simp] theorem setMill_cxRun (d : Dev) (p : Nat) (v : Mill) : (d.setMill p v).cxRun = d.cxRun := rfl
@[simp] theorem setMill_cxWait (d : Dev) (p : Nat) (v : Mill) : (d.setMill p v).cxWait = d.cxWait := rfl
@[simp] theorem setMill_guards (d : Dev) (p : Nat) (v : Mill) : (d.setMill p v).guards = d.guards := rfl
@[simp] theorem setMill_steps (d : Dev) (p : Nat) (v : Mill) : (d.setMill p v).steps = d.steps := rfl
@[simp] theorem setMill_measures (d : Dev) (p : Nat) (v : Mill) : (d.setMill p v).measures = d.measures := rfl
@[simp] theorem setMill_ledger (d : Dev) (p : Nat) (v : Mill) : (d.setMill p v).ledger = d.ledger := rfl
@[simp] theorem setMill_ledgerCount (d : Dev) (p : Nat) (v : Mill) : (d.setMill p v).ledgerCount = d.ledgerCount := rfl
@[simp] theorem setMill_flume (d : Dev) (p : Nat) (v : Mill) : (d.setMill p v).flume = d.flume := rfl
@[simp] theorem setMill_numVf (d : Dev) (p : Nat) (v : Mill) : (d.setMill p v).numVf = d.numVf := rfl
@[simp] theorem setMill_cplErr (d : Dev) (p : Nat) (v : Mill) : (d.setMill p v).cplErr = d.cplErr := rfl
@[simp] theorem setMill_out (d : Dev) (p : Nat) (v : Mill) : (d.setMill p v).out = d.out := rfl
@[simp] theorem setMill_reply (d : Dev) (p : Nat) (v : Mill) : (d.setMill p v).reply = d.reply := rfl

/-! ### setSeq -/

@[simp] theorem setSeq_cycle (d : Dev) (t : Nat) (v : XSeq) : (d.setSeq t v).cycle = d.cycle := rfl
@[simp] theorem setSeq_freeIx (d : Dev) (t : Nat) (v : XSeq) : (d.setSeq t v).freeIx = d.freeIx := rfl
@[simp] theorem setSeq_regs (d : Dev) (t : Nat) (v : XSeq) : (d.setSeq t v).regs = d.regs := rfl
@[simp] theorem setSeq_halves (d : Dev) (t : Nat) (v : XSeq) : (d.setSeq t v).halves = d.halves := rfl
@[simp] theorem setSeq_mem (d : Dev) (t : Nat) (v : XSeq) : (d.setSeq t v).mem = d.mem := rfl
@[simp] theorem setSeq_ecc (d : Dev) (t : Nat) (v : XSeq) : (d.setSeq t v).ecc = d.ecc := rfl
@[simp] theorem setSeq_evr (d : Dev) (t : Nat) (v : XSeq) : (d.setSeq t v).evr = d.evr := rfl
@[simp] theorem setSeq_lehr (d : Dev) (t : Nat) (v : XSeq) : (d.setSeq t v).lehr = d.lehr := rfl
@[simp] theorem setSeq_park (d : Dev) (t : Nat) (v : XSeq) : (d.setSeq t v).park = d.park := rfl
@[simp] theorem setSeq_gov (d : Dev) (t : Nat) (v : XSeq) : (d.setSeq t v).gov = d.gov := rfl
@[simp] theorem setSeq_stage (d : Dev) (t : Nat) (v : XSeq) : (d.setSeq t v).stage = d.stage := rfl
@[simp] theorem setSeq_tiles (d : Dev) (t : Nat) (v : XSeq) : (d.setSeq t v).tiles = d.tiles := rfl
@[simp] theorem setSeq_mills (d : Dev) (t : Nat) (v : XSeq) : (d.setSeq t v).mills = d.mills := rfl
@[simp] theorem setSeq_race (d : Dev) (t : Nat) (v : XSeq) : (d.setSeq t v).race = d.race := rfl
@[simp] theorem setSeq_objs (d : Dev) (t : Nat) (v : XSeq) : (d.setSeq t v).objs = d.objs := rfl
@[simp] theorem setSeq_syncFly (d : Dev) (t : Nat) (v : XSeq) : (d.setSeq t v).syncFly = d.syncFly := rfl
@[simp] theorem setSeq_sluice (d : Dev) (t : Nat) (v : XSeq) : (d.setSeq t v).sluice = d.sluice := rfl
@[simp] theorem setSeq_xcache (d : Dev) (t : Nat) (v : XSeq) : (d.setSeq t v).xcache = d.xcache := rfl
@[simp] theorem setSeq_imgs (d : Dev) (t : Nat) (v : XSeq) : (d.setSeq t v).imgs = d.imgs := rfl
@[simp] theorem setSeq_colls (d : Dev) (t : Nat) (v : XSeq) : (d.setSeq t v).colls = d.colls := rfl
@[simp] theorem setSeq_cxRun (d : Dev) (t : Nat) (v : XSeq) : (d.setSeq t v).cxRun = d.cxRun := rfl
@[simp] theorem setSeq_cxWait (d : Dev) (t : Nat) (v : XSeq) : (d.setSeq t v).cxWait = d.cxWait := rfl
@[simp] theorem setSeq_guards (d : Dev) (t : Nat) (v : XSeq) : (d.setSeq t v).guards = d.guards := rfl
@[simp] theorem setSeq_steps (d : Dev) (t : Nat) (v : XSeq) : (d.setSeq t v).steps = d.steps := rfl
@[simp] theorem setSeq_measures (d : Dev) (t : Nat) (v : XSeq) : (d.setSeq t v).measures = d.measures := rfl
@[simp] theorem setSeq_ledger (d : Dev) (t : Nat) (v : XSeq) : (d.setSeq t v).ledger = d.ledger := rfl
@[simp] theorem setSeq_ledgerCount (d : Dev) (t : Nat) (v : XSeq) : (d.setSeq t v).ledgerCount = d.ledgerCount := rfl
@[simp] theorem setSeq_flume (d : Dev) (t : Nat) (v : XSeq) : (d.setSeq t v).flume = d.flume := rfl
@[simp] theorem setSeq_numVf (d : Dev) (t : Nat) (v : XSeq) : (d.setSeq t v).numVf = d.numVf := rfl
@[simp] theorem setSeq_cplErr (d : Dev) (t : Nat) (v : XSeq) : (d.setSeq t v).cplErr = d.cplErr := rfl
@[simp] theorem setSeq_out (d : Dev) (t : Nat) (v : XSeq) : (d.setSeq t v).out = d.out := rfl
@[simp] theorem setSeq_reply (d : Dev) (t : Nat) (v : XSeq) : (d.setSeq t v).reply = d.reply := rfl

/-! ### setObj -/

@[simp] theorem setObj_cycle (d : Dev) (p : Nat) (v : SyncObj) : (d.setObj p v).cycle = d.cycle := rfl
@[simp] theorem setObj_freeIx (d : Dev) (p : Nat) (v : SyncObj) : (d.setObj p v).freeIx = d.freeIx := rfl
@[simp] theorem setObj_regs (d : Dev) (p : Nat) (v : SyncObj) : (d.setObj p v).regs = d.regs := rfl
@[simp] theorem setObj_halves (d : Dev) (p : Nat) (v : SyncObj) : (d.setObj p v).halves = d.halves := rfl
@[simp] theorem setObj_mem (d : Dev) (p : Nat) (v : SyncObj) : (d.setObj p v).mem = d.mem := rfl
@[simp] theorem setObj_ecc (d : Dev) (p : Nat) (v : SyncObj) : (d.setObj p v).ecc = d.ecc := rfl
@[simp] theorem setObj_evr (d : Dev) (p : Nat) (v : SyncObj) : (d.setObj p v).evr = d.evr := rfl
@[simp] theorem setObj_lehr (d : Dev) (p : Nat) (v : SyncObj) : (d.setObj p v).lehr = d.lehr := rfl
@[simp] theorem setObj_park (d : Dev) (p : Nat) (v : SyncObj) : (d.setObj p v).park = d.park := rfl
@[simp] theorem setObj_gov (d : Dev) (p : Nat) (v : SyncObj) : (d.setObj p v).gov = d.gov := rfl
@[simp] theorem setObj_stage (d : Dev) (p : Nat) (v : SyncObj) : (d.setObj p v).stage = d.stage := rfl
@[simp] theorem setObj_tiles (d : Dev) (p : Nat) (v : SyncObj) : (d.setObj p v).tiles = d.tiles := rfl
@[simp] theorem setObj_mills (d : Dev) (p : Nat) (v : SyncObj) : (d.setObj p v).mills = d.mills := rfl
@[simp] theorem setObj_seqs (d : Dev) (p : Nat) (v : SyncObj) : (d.setObj p v).seqs = d.seqs := rfl
@[simp] theorem setObj_race (d : Dev) (p : Nat) (v : SyncObj) : (d.setObj p v).race = d.race := rfl
@[simp] theorem setObj_syncFly (d : Dev) (p : Nat) (v : SyncObj) : (d.setObj p v).syncFly = d.syncFly := rfl
@[simp] theorem setObj_sluice (d : Dev) (p : Nat) (v : SyncObj) : (d.setObj p v).sluice = d.sluice := rfl
@[simp] theorem setObj_xcache (d : Dev) (p : Nat) (v : SyncObj) : (d.setObj p v).xcache = d.xcache := rfl
@[simp] theorem setObj_imgs (d : Dev) (p : Nat) (v : SyncObj) : (d.setObj p v).imgs = d.imgs := rfl
@[simp] theorem setObj_colls (d : Dev) (p : Nat) (v : SyncObj) : (d.setObj p v).colls = d.colls := rfl
@[simp] theorem setObj_cxRun (d : Dev) (p : Nat) (v : SyncObj) : (d.setObj p v).cxRun = d.cxRun := rfl
@[simp] theorem setObj_cxWait (d : Dev) (p : Nat) (v : SyncObj) : (d.setObj p v).cxWait = d.cxWait := rfl
@[simp] theorem setObj_guards (d : Dev) (p : Nat) (v : SyncObj) : (d.setObj p v).guards = d.guards := rfl
@[simp] theorem setObj_steps (d : Dev) (p : Nat) (v : SyncObj) : (d.setObj p v).steps = d.steps := rfl
@[simp] theorem setObj_measures (d : Dev) (p : Nat) (v : SyncObj) : (d.setObj p v).measures = d.measures := rfl
@[simp] theorem setObj_ledger (d : Dev) (p : Nat) (v : SyncObj) : (d.setObj p v).ledger = d.ledger := rfl
@[simp] theorem setObj_ledgerCount (d : Dev) (p : Nat) (v : SyncObj) : (d.setObj p v).ledgerCount = d.ledgerCount := rfl
@[simp] theorem setObj_flume (d : Dev) (p : Nat) (v : SyncObj) : (d.setObj p v).flume = d.flume := rfl
@[simp] theorem setObj_numVf (d : Dev) (p : Nat) (v : SyncObj) : (d.setObj p v).numVf = d.numVf := rfl
@[simp] theorem setObj_cplErr (d : Dev) (p : Nat) (v : SyncObj) : (d.setObj p v).cplErr = d.cplErr := rfl
@[simp] theorem setObj_out (d : Dev) (p : Nat) (v : SyncObj) : (d.setObj p v).out = d.out := rfl
@[simp] theorem setObj_reply (d : Dev) (p : Nat) (v : SyncObj) : (d.setObj p v).reply = d.reply := rfl

/-! ### setQueue -/

@[simp] theorem setQueue_cycle (d : Dev) (k : Nat) (v : SQueue) : (d.setQueue k v).cycle = d.cycle := rfl
@[simp] theorem setQueue_freeIx (d : Dev) (k : Nat) (v : SQueue) : (d.setQueue k v).freeIx = d.freeIx := rfl
@[simp] theorem setQueue_regs (d : Dev) (k : Nat) (v : SQueue) : (d.setQueue k v).regs = d.regs := rfl
@[simp] theorem setQueue_halves (d : Dev) (k : Nat) (v : SQueue) : (d.setQueue k v).halves = d.halves := rfl
@[simp] theorem setQueue_mem (d : Dev) (k : Nat) (v : SQueue) : (d.setQueue k v).mem = d.mem := rfl
@[simp] theorem setQueue_ecc (d : Dev) (k : Nat) (v : SQueue) : (d.setQueue k v).ecc = d.ecc := rfl
@[simp] theorem setQueue_evr (d : Dev) (k : Nat) (v : SQueue) : (d.setQueue k v).evr = d.evr := rfl
@[simp] theorem setQueue_lehr (d : Dev) (k : Nat) (v : SQueue) : (d.setQueue k v).lehr = d.lehr := rfl
@[simp] theorem setQueue_park (d : Dev) (k : Nat) (v : SQueue) : (d.setQueue k v).park = d.park := rfl
@[simp] theorem setQueue_gov (d : Dev) (k : Nat) (v : SQueue) : (d.setQueue k v).gov = d.gov := rfl
@[simp] theorem setQueue_stage (d : Dev) (k : Nat) (v : SQueue) : (d.setQueue k v).stage = d.stage := rfl
@[simp] theorem setQueue_tiles (d : Dev) (k : Nat) (v : SQueue) : (d.setQueue k v).tiles = d.tiles := rfl
@[simp] theorem setQueue_mills (d : Dev) (k : Nat) (v : SQueue) : (d.setQueue k v).mills = d.mills := rfl
@[simp] theorem setQueue_seqs (d : Dev) (k : Nat) (v : SQueue) : (d.setQueue k v).seqs = d.seqs := rfl
@[simp] theorem setQueue_race (d : Dev) (k : Nat) (v : SQueue) : (d.setQueue k v).race = d.race := rfl
@[simp] theorem setQueue_objs (d : Dev) (k : Nat) (v : SQueue) : (d.setQueue k v).objs = d.objs := rfl
@[simp] theorem setQueue_syncFly (d : Dev) (k : Nat) (v : SQueue) : (d.setQueue k v).syncFly = d.syncFly := rfl
@[simp] theorem setQueue_xcache (d : Dev) (k : Nat) (v : SQueue) : (d.setQueue k v).xcache = d.xcache := rfl
@[simp] theorem setQueue_imgs (d : Dev) (k : Nat) (v : SQueue) : (d.setQueue k v).imgs = d.imgs := rfl
@[simp] theorem setQueue_colls (d : Dev) (k : Nat) (v : SQueue) : (d.setQueue k v).colls = d.colls := rfl
@[simp] theorem setQueue_cxRun (d : Dev) (k : Nat) (v : SQueue) : (d.setQueue k v).cxRun = d.cxRun := rfl
@[simp] theorem setQueue_cxWait (d : Dev) (k : Nat) (v : SQueue) : (d.setQueue k v).cxWait = d.cxWait := rfl
@[simp] theorem setQueue_guards (d : Dev) (k : Nat) (v : SQueue) : (d.setQueue k v).guards = d.guards := rfl
@[simp] theorem setQueue_steps (d : Dev) (k : Nat) (v : SQueue) : (d.setQueue k v).steps = d.steps := rfl
@[simp] theorem setQueue_measures (d : Dev) (k : Nat) (v : SQueue) : (d.setQueue k v).measures = d.measures := rfl
@[simp] theorem setQueue_ledger (d : Dev) (k : Nat) (v : SQueue) : (d.setQueue k v).ledger = d.ledger := rfl
@[simp] theorem setQueue_ledgerCount (d : Dev) (k : Nat) (v : SQueue) : (d.setQueue k v).ledgerCount = d.ledgerCount := rfl
@[simp] theorem setQueue_flume (d : Dev) (k : Nat) (v : SQueue) : (d.setQueue k v).flume = d.flume := rfl
@[simp] theorem setQueue_numVf (d : Dev) (k : Nat) (v : SQueue) : (d.setQueue k v).numVf = d.numVf := rfl
@[simp] theorem setQueue_cplErr (d : Dev) (k : Nat) (v : SQueue) : (d.setQueue k v).cplErr = d.cplErr := rfl
@[simp] theorem setQueue_out (d : Dev) (k : Nat) (v : SQueue) : (d.setQueue k v).out = d.out := rfl
@[simp] theorem setQueue_reply (d : Dev) (k : Nat) (v : SQueue) : (d.setQueue k v).reply = d.reply := rfl

/-! ### setImg -/

@[simp] theorem setImg_cycle (d : Dev) (c : Nat) (v : ImageCtx) : (d.setImg c v).cycle = d.cycle := rfl
@[simp] theorem setImg_freeIx (d : Dev) (c : Nat) (v : ImageCtx) : (d.setImg c v).freeIx = d.freeIx := rfl
@[simp] theorem setImg_regs (d : Dev) (c : Nat) (v : ImageCtx) : (d.setImg c v).regs = d.regs := rfl
@[simp] theorem setImg_halves (d : Dev) (c : Nat) (v : ImageCtx) : (d.setImg c v).halves = d.halves := rfl
@[simp] theorem setImg_mem (d : Dev) (c : Nat) (v : ImageCtx) : (d.setImg c v).mem = d.mem := rfl
@[simp] theorem setImg_ecc (d : Dev) (c : Nat) (v : ImageCtx) : (d.setImg c v).ecc = d.ecc := rfl
@[simp] theorem setImg_evr (d : Dev) (c : Nat) (v : ImageCtx) : (d.setImg c v).evr = d.evr := rfl
@[simp] theorem setImg_lehr (d : Dev) (c : Nat) (v : ImageCtx) : (d.setImg c v).lehr = d.lehr := rfl
@[simp] theorem setImg_park (d : Dev) (c : Nat) (v : ImageCtx) : (d.setImg c v).park = d.park := rfl
@[simp] theorem setImg_gov (d : Dev) (c : Nat) (v : ImageCtx) : (d.setImg c v).gov = d.gov := rfl
@[simp] theorem setImg_stage (d : Dev) (c : Nat) (v : ImageCtx) : (d.setImg c v).stage = d.stage := rfl
@[simp] theorem setImg_tiles (d : Dev) (c : Nat) (v : ImageCtx) : (d.setImg c v).tiles = d.tiles := rfl
@[simp] theorem setImg_mills (d : Dev) (c : Nat) (v : ImageCtx) : (d.setImg c v).mills = d.mills := rfl
@[simp] theorem setImg_seqs (d : Dev) (c : Nat) (v : ImageCtx) : (d.setImg c v).seqs = d.seqs := rfl
@[simp] theorem setImg_race (d : Dev) (c : Nat) (v : ImageCtx) : (d.setImg c v).race = d.race := rfl
@[simp] theorem setImg_objs (d : Dev) (c : Nat) (v : ImageCtx) : (d.setImg c v).objs = d.objs := rfl
@[simp] theorem setImg_syncFly (d : Dev) (c : Nat) (v : ImageCtx) : (d.setImg c v).syncFly = d.syncFly := rfl
@[simp] theorem setImg_sluice (d : Dev) (c : Nat) (v : ImageCtx) : (d.setImg c v).sluice = d.sluice := rfl
@[simp] theorem setImg_xcache (d : Dev) (c : Nat) (v : ImageCtx) : (d.setImg c v).xcache = d.xcache := rfl
@[simp] theorem setImg_colls (d : Dev) (c : Nat) (v : ImageCtx) : (d.setImg c v).colls = d.colls := rfl
@[simp] theorem setImg_cxRun (d : Dev) (c : Nat) (v : ImageCtx) : (d.setImg c v).cxRun = d.cxRun := rfl
@[simp] theorem setImg_cxWait (d : Dev) (c : Nat) (v : ImageCtx) : (d.setImg c v).cxWait = d.cxWait := rfl
@[simp] theorem setImg_guards (d : Dev) (c : Nat) (v : ImageCtx) : (d.setImg c v).guards = d.guards := rfl
@[simp] theorem setImg_steps (d : Dev) (c : Nat) (v : ImageCtx) : (d.setImg c v).steps = d.steps := rfl
@[simp] theorem setImg_measures (d : Dev) (c : Nat) (v : ImageCtx) : (d.setImg c v).measures = d.measures := rfl
@[simp] theorem setImg_ledger (d : Dev) (c : Nat) (v : ImageCtx) : (d.setImg c v).ledger = d.ledger := rfl
@[simp] theorem setImg_ledgerCount (d : Dev) (c : Nat) (v : ImageCtx) : (d.setImg c v).ledgerCount = d.ledgerCount := rfl
@[simp] theorem setImg_flume (d : Dev) (c : Nat) (v : ImageCtx) : (d.setImg c v).flume = d.flume := rfl
@[simp] theorem setImg_numVf (d : Dev) (c : Nat) (v : ImageCtx) : (d.setImg c v).numVf = d.numVf := rfl
@[simp] theorem setImg_cplErr (d : Dev) (c : Nat) (v : ImageCtx) : (d.setImg c v).cplErr = d.cplErr := rfl
@[simp] theorem setImg_out (d : Dev) (c : Nat) (v : ImageCtx) : (d.setImg c v).out = d.out := rfl
@[simp] theorem setImg_reply (d : Dev) (c : Nat) (v : ImageCtx) : (d.setImg c v).reply = d.reply := rfl

/-! ### setColl -/

@[simp] theorem setColl_cycle (d : Dev) (c : Nat) (v : Coll) : (d.setColl c v).cycle = d.cycle := rfl
@[simp] theorem setColl_freeIx (d : Dev) (c : Nat) (v : Coll) : (d.setColl c v).freeIx = d.freeIx := rfl
@[simp] theorem setColl_regs (d : Dev) (c : Nat) (v : Coll) : (d.setColl c v).regs = d.regs := rfl
@[simp] theorem setColl_halves (d : Dev) (c : Nat) (v : Coll) : (d.setColl c v).halves = d.halves := rfl
@[simp] theorem setColl_mem (d : Dev) (c : Nat) (v : Coll) : (d.setColl c v).mem = d.mem := rfl
@[simp] theorem setColl_ecc (d : Dev) (c : Nat) (v : Coll) : (d.setColl c v).ecc = d.ecc := rfl
@[simp] theorem setColl_evr (d : Dev) (c : Nat) (v : Coll) : (d.setColl c v).evr = d.evr := rfl
@[simp] theorem setColl_lehr (d : Dev) (c : Nat) (v : Coll) : (d.setColl c v).lehr = d.lehr := rfl
@[simp] theorem setColl_park (d : Dev) (c : Nat) (v : Coll) : (d.setColl c v).park = d.park := rfl
@[simp] theorem setColl_gov (d : Dev) (c : Nat) (v : Coll) : (d.setColl c v).gov = d.gov := rfl
@[simp] theorem setColl_stage (d : Dev) (c : Nat) (v : Coll) : (d.setColl c v).stage = d.stage := rfl
@[simp] theorem setColl_tiles (d : Dev) (c : Nat) (v : Coll) : (d.setColl c v).tiles = d.tiles := rfl
@[simp] theorem setColl_mills (d : Dev) (c : Nat) (v : Coll) : (d.setColl c v).mills = d.mills := rfl
@[simp] theorem setColl_seqs (d : Dev) (c : Nat) (v : Coll) : (d.setColl c v).seqs = d.seqs := rfl
@[simp] theorem setColl_race (d : Dev) (c : Nat) (v : Coll) : (d.setColl c v).race = d.race := rfl
@[simp] theorem setColl_objs (d : Dev) (c : Nat) (v : Coll) : (d.setColl c v).objs = d.objs := rfl
@[simp] theorem setColl_syncFly (d : Dev) (c : Nat) (v : Coll) : (d.setColl c v).syncFly = d.syncFly := rfl
@[simp] theorem setColl_sluice (d : Dev) (c : Nat) (v : Coll) : (d.setColl c v).sluice = d.sluice := rfl
@[simp] theorem setColl_xcache (d : Dev) (c : Nat) (v : Coll) : (d.setColl c v).xcache = d.xcache := rfl
@[simp] theorem setColl_imgs (d : Dev) (c : Nat) (v : Coll) : (d.setColl c v).imgs = d.imgs := rfl
@[simp] theorem setColl_cxRun (d : Dev) (c : Nat) (v : Coll) : (d.setColl c v).cxRun = d.cxRun := rfl
@[simp] theorem setColl_cxWait (d : Dev) (c : Nat) (v : Coll) : (d.setColl c v).cxWait = d.cxWait := rfl
@[simp] theorem setColl_guards (d : Dev) (c : Nat) (v : Coll) : (d.setColl c v).guards = d.guards := rfl
@[simp] theorem setColl_steps (d : Dev) (c : Nat) (v : Coll) : (d.setColl c v).steps = d.steps := rfl
@[simp] theorem setColl_measures (d : Dev) (c : Nat) (v : Coll) : (d.setColl c v).measures = d.measures := rfl
@[simp] theorem setColl_ledger (d : Dev) (c : Nat) (v : Coll) : (d.setColl c v).ledger = d.ledger := rfl
@[simp] theorem setColl_ledgerCount (d : Dev) (c : Nat) (v : Coll) : (d.setColl c v).ledgerCount = d.ledgerCount := rfl
@[simp] theorem setColl_flume (d : Dev) (c : Nat) (v : Coll) : (d.setColl c v).flume = d.flume := rfl
@[simp] theorem setColl_numVf (d : Dev) (c : Nat) (v : Coll) : (d.setColl c v).numVf = d.numVf := rfl
@[simp] theorem setColl_cplErr (d : Dev) (c : Nat) (v : Coll) : (d.setColl c v).cplErr = d.cplErr := rfl
@[simp] theorem setColl_out (d : Dev) (c : Nat) (v : Coll) : (d.setColl c v).out = d.out := rfl
@[simp] theorem setColl_reply (d : Dev) (c : Nat) (v : Coll) : (d.setColl c v).reply = d.reply := rfl

/-! ### setGuard -/

@[simp] theorem setGuard_cycle (d : Dev) (c : Nat) (v : Guard) : (d.setGuard c v).cycle = d.cycle := rfl
@[simp] theorem setGuard_freeIx (d : Dev) (c : Nat) (v : Guard) : (d.setGuard c v).freeIx = d.freeIx := rfl
@[simp] theorem setGuard_regs (d : Dev) (c : Nat) (v : Guard) : (d.setGuard c v).regs = d.regs := rfl
@[simp] theorem setGuard_halves (d : Dev) (c : Nat) (v : Guard) : (d.setGuard c v).halves = d.halves := rfl
@[simp] theorem setGuard_mem (d : Dev) (c : Nat) (v : Guard) : (d.setGuard c v).mem = d.mem := rfl
@[simp] theorem setGuard_ecc (d : Dev) (c : Nat) (v : Guard) : (d.setGuard c v).ecc = d.ecc := rfl
@[simp] theorem setGuard_evr (d : Dev) (c : Nat) (v : Guard) : (d.setGuard c v).evr = d.evr := rfl
@[simp] theorem setGuard_lehr (d : Dev) (c : Nat) (v : Guard) : (d.setGuard c v).lehr = d.lehr := rfl
@[simp] theorem setGuard_park (d : Dev) (c : Nat) (v : Guard) : (d.setGuard c v).park = d.park := rfl
@[simp] theorem setGuard_gov (d : Dev) (c : Nat) (v : Guard) : (d.setGuard c v).gov = d.gov := rfl
@[simp] theorem setGuard_stage (d : Dev) (c : Nat) (v : Guard) : (d.setGuard c v).stage = d.stage := rfl
@[simp] theorem setGuard_tiles (d : Dev) (c : Nat) (v : Guard) : (d.setGuard c v).tiles = d.tiles := rfl
@[simp] theorem setGuard_mills (d : Dev) (c : Nat) (v : Guard) : (d.setGuard c v).mills = d.mills := rfl
@[simp] theorem setGuard_seqs (d : Dev) (c : Nat) (v : Guard) : (d.setGuard c v).seqs = d.seqs := rfl
@[simp] theorem setGuard_race (d : Dev) (c : Nat) (v : Guard) : (d.setGuard c v).race = d.race := rfl
@[simp] theorem setGuard_objs (d : Dev) (c : Nat) (v : Guard) : (d.setGuard c v).objs = d.objs := rfl
@[simp] theorem setGuard_syncFly (d : Dev) (c : Nat) (v : Guard) : (d.setGuard c v).syncFly = d.syncFly := rfl
@[simp] theorem setGuard_sluice (d : Dev) (c : Nat) (v : Guard) : (d.setGuard c v).sluice = d.sluice := rfl
@[simp] theorem setGuard_xcache (d : Dev) (c : Nat) (v : Guard) : (d.setGuard c v).xcache = d.xcache := rfl
@[simp] theorem setGuard_imgs (d : Dev) (c : Nat) (v : Guard) : (d.setGuard c v).imgs = d.imgs := rfl
@[simp] theorem setGuard_colls (d : Dev) (c : Nat) (v : Guard) : (d.setGuard c v).colls = d.colls := rfl
@[simp] theorem setGuard_cxRun (d : Dev) (c : Nat) (v : Guard) : (d.setGuard c v).cxRun = d.cxRun := rfl
@[simp] theorem setGuard_cxWait (d : Dev) (c : Nat) (v : Guard) : (d.setGuard c v).cxWait = d.cxWait := rfl
@[simp] theorem setGuard_steps (d : Dev) (c : Nat) (v : Guard) : (d.setGuard c v).steps = d.steps := rfl
@[simp] theorem setGuard_measures (d : Dev) (c : Nat) (v : Guard) : (d.setGuard c v).measures = d.measures := rfl
@[simp] theorem setGuard_ledger (d : Dev) (c : Nat) (v : Guard) : (d.setGuard c v).ledger = d.ledger := rfl
@[simp] theorem setGuard_ledgerCount (d : Dev) (c : Nat) (v : Guard) : (d.setGuard c v).ledgerCount = d.ledgerCount := rfl
@[simp] theorem setGuard_flume (d : Dev) (c : Nat) (v : Guard) : (d.setGuard c v).flume = d.flume := rfl
@[simp] theorem setGuard_numVf (d : Dev) (c : Nat) (v : Guard) : (d.setGuard c v).numVf = d.numVf := rfl
@[simp] theorem setGuard_cplErr (d : Dev) (c : Nat) (v : Guard) : (d.setGuard c v).cplErr = d.cplErr := rfl
@[simp] theorem setGuard_out (d : Dev) (c : Nat) (v : Guard) : (d.setGuard c v).out = d.out := rfl
@[simp] theorem setGuard_reply (d : Dev) (c : Nat) (v : Guard) : (d.setGuard c v).reply = d.reply := rfl

/-! ### setStep -/

@[simp] theorem setStep_cycle (d : Dev) (c : Nat) (v : Step) : (d.setStep c v).cycle = d.cycle := rfl
@[simp] theorem setStep_freeIx (d : Dev) (c : Nat) (v : Step) : (d.setStep c v).freeIx = d.freeIx := rfl
@[simp] theorem setStep_regs (d : Dev) (c : Nat) (v : Step) : (d.setStep c v).regs = d.regs := rfl
@[simp] theorem setStep_halves (d : Dev) (c : Nat) (v : Step) : (d.setStep c v).halves = d.halves := rfl
@[simp] theorem setStep_mem (d : Dev) (c : Nat) (v : Step) : (d.setStep c v).mem = d.mem := rfl
@[simp] theorem setStep_ecc (d : Dev) (c : Nat) (v : Step) : (d.setStep c v).ecc = d.ecc := rfl
@[simp] theorem setStep_evr (d : Dev) (c : Nat) (v : Step) : (d.setStep c v).evr = d.evr := rfl
@[simp] theorem setStep_lehr (d : Dev) (c : Nat) (v : Step) : (d.setStep c v).lehr = d.lehr := rfl
@[simp] theorem setStep_park (d : Dev) (c : Nat) (v : Step) : (d.setStep c v).park = d.park := rfl
@[simp] theorem setStep_gov (d : Dev) (c : Nat) (v : Step) : (d.setStep c v).gov = d.gov := rfl
@[simp] theorem setStep_stage (d : Dev) (c : Nat) (v : Step) : (d.setStep c v).stage = d.stage := rfl
@[simp] theorem setStep_tiles (d : Dev) (c : Nat) (v : Step) : (d.setStep c v).tiles = d.tiles := rfl
@[simp] theorem setStep_mills (d : Dev) (c : Nat) (v : Step) : (d.setStep c v).mills = d.mills := rfl
@[simp] theorem setStep_seqs (d : Dev) (c : Nat) (v : Step) : (d.setStep c v).seqs = d.seqs := rfl
@[simp] theorem setStep_race (d : Dev) (c : Nat) (v : Step) : (d.setStep c v).race = d.race := rfl
@[simp] theorem setStep_objs (d : Dev) (c : Nat) (v : Step) : (d.setStep c v).objs = d.objs := rfl
@[simp] theorem setStep_syncFly (d : Dev) (c : Nat) (v : Step) : (d.setStep c v).syncFly = d.syncFly := rfl
@[simp] theorem setStep_sluice (d : Dev) (c : Nat) (v : Step) : (d.setStep c v).sluice = d.sluice := rfl
@[simp] theorem setStep_xcache (d : Dev) (c : Nat) (v : Step) : (d.setStep c v).xcache = d.xcache := rfl
@[simp] theorem setStep_imgs (d : Dev) (c : Nat) (v : Step) : (d.setStep c v).imgs = d.imgs := rfl
@[simp] theorem setStep_colls (d : Dev) (c : Nat) (v : Step) : (d.setStep c v).colls = d.colls := rfl
@[simp] theorem setStep_cxRun (d : Dev) (c : Nat) (v : Step) : (d.setStep c v).cxRun = d.cxRun := rfl
@[simp] theorem setStep_cxWait (d : Dev) (c : Nat) (v : Step) : (d.setStep c v).cxWait = d.cxWait := rfl
@[simp] theorem setStep_guards (d : Dev) (c : Nat) (v : Step) : (d.setStep c v).guards = d.guards := rfl
@[simp] theorem setStep_measures (d : Dev) (c : Nat) (v : Step) : (d.setStep c v).measures = d.measures := rfl
@[simp] theorem setStep_ledger (d : Dev) (c : Nat) (v : Step) : (d.setStep c v).ledger = d.ledger := rfl
@[simp] theorem setStep_ledgerCount (d : Dev) (c : Nat) (v : Step) : (d.setStep c v).ledgerCount = d.ledgerCount := rfl
@[simp] theorem setStep_flume (d : Dev) (c : Nat) (v : Step) : (d.setStep c v).flume = d.flume := rfl
@[simp] theorem setStep_numVf (d : Dev) (c : Nat) (v : Step) : (d.setStep c v).numVf = d.numVf := rfl
@[simp] theorem setStep_cplErr (d : Dev) (c : Nat) (v : Step) : (d.setStep c v).cplErr = d.cplErr := rfl
@[simp] theorem setStep_out (d : Dev) (c : Nat) (v : Step) : (d.setStep c v).out = d.out := rfl
@[simp] theorem setStep_reply (d : Dev) (c : Nat) (v : Step) : (d.setStep c v).reply = d.reply := rfl

/-! ### setMeasure -/

@[simp] theorem setMeasure_cycle (d : Dev) (c : Nat) (v : Measure) : (d.setMeasure c v).cycle = d.cycle := rfl
@[simp] theorem setMeasure_freeIx (d : Dev) (c : Nat) (v : Measure) : (d.setMeasure c v).freeIx = d.freeIx := rfl
@[simp] theorem setMeasure_regs (d : Dev) (c : Nat) (v : Measure) : (d.setMeasure c v).regs = d.regs := rfl
@[simp] theorem setMeasure_halves (d : Dev) (c : Nat) (v : Measure) : (d.setMeasure c v).halves = d.halves := rfl
@[simp] theorem setMeasure_mem (d : Dev) (c : Nat) (v : Measure) : (d.setMeasure c v).mem = d.mem := rfl
@[simp] theorem setMeasure_ecc (d : Dev) (c : Nat) (v : Measure) : (d.setMeasure c v).ecc = d.ecc := rfl
@[simp] theorem setMeasure_evr (d : Dev) (c : Nat) (v : Measure) : (d.setMeasure c v).evr = d.evr := rfl
@[simp] theorem setMeasure_lehr (d : Dev) (c : Nat) (v : Measure) : (d.setMeasure c v).lehr = d.lehr := rfl
@[simp] theorem setMeasure_park (d : Dev) (c : Nat) (v : Measure) : (d.setMeasure c v).park = d.park := rfl
@[simp] theorem setMeasure_gov (d : Dev) (c : Nat) (v : Measure) : (d.setMeasure c v).gov = d.gov := rfl
@[simp] theorem setMeasure_stage (d : Dev) (c : Nat) (v : Measure) : (d.setMeasure c v).stage = d.stage := rfl
@[simp] theorem setMeasure_tiles (d : Dev) (c : Nat) (v : Measure) : (d.setMeasure c v).tiles = d.tiles := rfl
@[simp] theorem setMeasure_mills (d : Dev) (c : Nat) (v : Measure) : (d.setMeasure c v).mills = d.mills := rfl
@[simp] theorem setMeasure_seqs (d : Dev) (c : Nat) (v : Measure) : (d.setMeasure c v).seqs = d.seqs := rfl
@[simp] theorem setMeasure_race (d : Dev) (c : Nat) (v : Measure) : (d.setMeasure c v).race = d.race := rfl
@[simp] theorem setMeasure_objs (d : Dev) (c : Nat) (v : Measure) : (d.setMeasure c v).objs = d.objs := rfl
@[simp] theorem setMeasure_syncFly (d : Dev) (c : Nat) (v : Measure) : (d.setMeasure c v).syncFly = d.syncFly := rfl
@[simp] theorem setMeasure_sluice (d : Dev) (c : Nat) (v : Measure) : (d.setMeasure c v).sluice = d.sluice := rfl
@[simp] theorem setMeasure_xcache (d : Dev) (c : Nat) (v : Measure) : (d.setMeasure c v).xcache = d.xcache := rfl
@[simp] theorem setMeasure_imgs (d : Dev) (c : Nat) (v : Measure) : (d.setMeasure c v).imgs = d.imgs := rfl
@[simp] theorem setMeasure_colls (d : Dev) (c : Nat) (v : Measure) : (d.setMeasure c v).colls = d.colls := rfl
@[simp] theorem setMeasure_cxRun (d : Dev) (c : Nat) (v : Measure) : (d.setMeasure c v).cxRun = d.cxRun := rfl
@[simp] theorem setMeasure_cxWait (d : Dev) (c : Nat) (v : Measure) : (d.setMeasure c v).cxWait = d.cxWait := rfl
@[simp] theorem setMeasure_guards (d : Dev) (c : Nat) (v : Measure) : (d.setMeasure c v).guards = d.guards := rfl
@[simp] theorem setMeasure_steps (d : Dev) (c : Nat) (v : Measure) : (d.setMeasure c v).steps = d.steps := rfl
@[simp] theorem setMeasure_ledger (d : Dev) (c : Nat) (v : Measure) : (d.setMeasure c v).ledger = d.ledger := rfl
@[simp] theorem setMeasure_ledgerCount (d : Dev) (c : Nat) (v : Measure) : (d.setMeasure c v).ledgerCount = d.ledgerCount := rfl
@[simp] theorem setMeasure_flume (d : Dev) (c : Nat) (v : Measure) : (d.setMeasure c v).flume = d.flume := rfl
@[simp] theorem setMeasure_numVf (d : Dev) (c : Nat) (v : Measure) : (d.setMeasure c v).numVf = d.numVf := rfl
@[simp] theorem setMeasure_cplErr (d : Dev) (c : Nat) (v : Measure) : (d.setMeasure c v).cplErr = d.cplErr := rfl
@[simp] theorem setMeasure_out (d : Dev) (c : Nat) (v : Measure) : (d.setMeasure c v).out = d.out := rfl
@[simp] theorem setMeasure_reply (d : Dev) (c : Nat) (v : Measure) : (d.setMeasure c v).reply = d.reply := rfl

/-! ### setPort -/

@[simp] theorem setPort_cycle (d : Dev) (n : Nat) (v : FPort) : (d.setPort n v).cycle = d.cycle := rfl
@[simp] theorem setPort_freeIx (d : Dev) (n : Nat) (v : FPort) : (d.setPort n v).freeIx = d.freeIx := rfl
@[simp] theorem setPort_regs (d : Dev) (n : Nat) (v : FPort) : (d.setPort n v).regs = d.regs := rfl
@[simp] theorem setPort_halves (d : Dev) (n : Nat) (v : FPort) : (d.setPort n v).halves = d.halves := rfl
@[simp] theorem setPort_mem (d : Dev) (n : Nat) (v : FPort) : (d.setPort n v).mem = d.mem := rfl
@[simp] theorem setPort_ecc (d : Dev) (n : Nat) (v : FPort) : (d.setPort n v).ecc = d.ecc := rfl
@[simp] theorem setPort_evr (d : Dev) (n : Nat) (v : FPort) : (d.setPort n v).evr = d.evr := rfl
@[simp] theorem setPort_lehr (d : Dev) (n : Nat) (v : FPort) : (d.setPort n v).lehr = d.lehr := rfl
@[simp] theorem setPort_park (d : Dev) (n : Nat) (v : FPort) : (d.setPort n v).park = d.park := rfl
@[simp] theorem setPort_gov (d : Dev) (n : Nat) (v : FPort) : (d.setPort n v).gov = d.gov := rfl
@[simp] theorem setPort_stage (d : Dev) (n : Nat) (v : FPort) : (d.setPort n v).stage = d.stage := rfl
@[simp] theorem setPort_tiles (d : Dev) (n : Nat) (v : FPort) : (d.setPort n v).tiles = d.tiles := rfl
@[simp] theorem setPort_mills (d : Dev) (n : Nat) (v : FPort) : (d.setPort n v).mills = d.mills := rfl
@[simp] theorem setPort_seqs (d : Dev) (n : Nat) (v : FPort) : (d.setPort n v).seqs = d.seqs := rfl
@[simp] theorem setPort_race (d : Dev) (n : Nat) (v : FPort) : (d.setPort n v).race = d.race := rfl
@[simp] theorem setPort_objs (d : Dev) (n : Nat) (v : FPort) : (d.setPort n v).objs = d.objs := rfl
@[simp] theorem setPort_syncFly (d : Dev) (n : Nat) (v : FPort) : (d.setPort n v).syncFly = d.syncFly := rfl
@[simp] theorem setPort_sluice (d : Dev) (n : Nat) (v : FPort) : (d.setPort n v).sluice = d.sluice := rfl
@[simp] theorem setPort_xcache (d : Dev) (n : Nat) (v : FPort) : (d.setPort n v).xcache = d.xcache := rfl
@[simp] theorem setPort_imgs (d : Dev) (n : Nat) (v : FPort) : (d.setPort n v).imgs = d.imgs := rfl
@[simp] theorem setPort_colls (d : Dev) (n : Nat) (v : FPort) : (d.setPort n v).colls = d.colls := rfl
@[simp] theorem setPort_cxRun (d : Dev) (n : Nat) (v : FPort) : (d.setPort n v).cxRun = d.cxRun := rfl
@[simp] theorem setPort_cxWait (d : Dev) (n : Nat) (v : FPort) : (d.setPort n v).cxWait = d.cxWait := rfl
@[simp] theorem setPort_guards (d : Dev) (n : Nat) (v : FPort) : (d.setPort n v).guards = d.guards := rfl
@[simp] theorem setPort_steps (d : Dev) (n : Nat) (v : FPort) : (d.setPort n v).steps = d.steps := rfl
@[simp] theorem setPort_measures (d : Dev) (n : Nat) (v : FPort) : (d.setPort n v).measures = d.measures := rfl
@[simp] theorem setPort_ledger (d : Dev) (n : Nat) (v : FPort) : (d.setPort n v).ledger = d.ledger := rfl
@[simp] theorem setPort_ledgerCount (d : Dev) (n : Nat) (v : FPort) : (d.setPort n v).ledgerCount = d.ledgerCount := rfl
@[simp] theorem setPort_numVf (d : Dev) (n : Nat) (v : FPort) : (d.setPort n v).numVf = d.numVf := rfl
@[simp] theorem setPort_cplErr (d : Dev) (n : Nat) (v : FPort) : (d.setPort n v).cplErr = d.cplErr := rfl
@[simp] theorem setPort_out (d : Dev) (n : Nat) (v : FPort) : (d.setPort n v).out = d.out := rfl
@[simp] theorem setPort_reply (d : Dev) (n : Nat) (v : FPort) : (d.setPort n v).reply = d.reply := rfl

/-! ### setClk -/

@[simp] theorem setClk_cycle (d : Dev) (p : Nat) (v : MillClk) : (d.setClk p v).cycle = d.cycle := rfl
@[simp] theorem setClk_freeIx (d : Dev) (p : Nat) (v : MillClk) : (d.setClk p v).freeIx = d.freeIx := rfl
@[simp] theorem setClk_regs (d : Dev) (p : Nat) (v : MillClk) : (d.setClk p v).regs = d.regs := rfl
@[simp] theorem setClk_halves (d : Dev) (p : Nat) (v : MillClk) : (d.setClk p v).halves = d.halves := rfl
@[simp] theorem setClk_mem (d : Dev) (p : Nat) (v : MillClk) : (d.setClk p v).mem = d.mem := rfl
@[simp] theorem setClk_ecc (d : Dev) (p : Nat) (v : MillClk) : (d.setClk p v).ecc = d.ecc := rfl
@[simp] theorem setClk_evr (d : Dev) (p : Nat) (v : MillClk) : (d.setClk p v).evr = d.evr := rfl
@[simp] theorem setClk_lehr (d : Dev) (p : Nat) (v : MillClk) : (d.setClk p v).lehr = d.lehr := rfl
@[simp] theorem setClk_park (d : Dev) (p : Nat) (v : MillClk) : (d.setClk p v).park = d.park := rfl
@[simp] theorem setClk_stage (d : Dev) (p : Nat) (v : MillClk) : (d.setClk p v).stage = d.stage := rfl
@[simp] theorem setClk_tiles (d : Dev) (p : Nat) (v : MillClk) : (d.setClk p v).tiles = d.tiles := rfl
@[simp] theorem setClk_mills (d : Dev) (p : Nat) (v : MillClk) : (d.setClk p v).mills = d.mills := rfl
@[simp] theorem setClk_seqs (d : Dev) (p : Nat) (v : MillClk) : (d.setClk p v).seqs = d.seqs := rfl
@[simp] theorem setClk_race (d : Dev) (p : Nat) (v : MillClk) : (d.setClk p v).race = d.race := rfl
@[simp] theorem setClk_objs (d : Dev) (p : Nat) (v : MillClk) : (d.setClk p v).objs = d.objs := rfl
@[simp] theorem setClk_syncFly (d : Dev) (p : Nat) (v : MillClk) : (d.setClk p v).syncFly = d.syncFly := rfl
@[simp] theorem setClk_sluice (d : Dev) (p : Nat) (v : MillClk) : (d.setClk p v).sluice = d.sluice := rfl
@[simp] theorem setClk_xcache (d : Dev) (p : Nat) (v : MillClk) : (d.setClk p v).xcache = d.xcache := rfl
@[simp] theorem setClk_imgs (d : Dev) (p : Nat) (v : MillClk) : (d.setClk p v).imgs = d.imgs := rfl
@[simp] theorem setClk_colls (d : Dev) (p : Nat) (v : MillClk) : (d.setClk p v).colls = d.colls := rfl
@[simp] theorem setClk_cxRun (d : Dev) (p : Nat) (v : MillClk) : (d.setClk p v).cxRun = d.cxRun := rfl
@[simp] theorem setClk_cxWait (d : Dev) (p : Nat) (v : MillClk) : (d.setClk p v).cxWait = d.cxWait := rfl
@[simp] theorem setClk_guards (d : Dev) (p : Nat) (v : MillClk) : (d.setClk p v).guards = d.guards := rfl
@[simp] theorem setClk_steps (d : Dev) (p : Nat) (v : MillClk) : (d.setClk p v).steps = d.steps := rfl
@[simp] theorem setClk_measures (d : Dev) (p : Nat) (v : MillClk) : (d.setClk p v).measures = d.measures := rfl
@[simp] theorem setClk_ledger (d : Dev) (p : Nat) (v : MillClk) : (d.setClk p v).ledger = d.ledger := rfl
@[simp] theorem setClk_ledgerCount (d : Dev) (p : Nat) (v : MillClk) : (d.setClk p v).ledgerCount = d.ledgerCount := rfl
@[simp] theorem setClk_flume (d : Dev) (p : Nat) (v : MillClk) : (d.setClk p v).flume = d.flume := rfl
@[simp] theorem setClk_numVf (d : Dev) (p : Nat) (v : MillClk) : (d.setClk p v).numVf = d.numVf := rfl
@[simp] theorem setClk_cplErr (d : Dev) (p : Nat) (v : MillClk) : (d.setClk p v).cplErr = d.cplErr := rfl
@[simp] theorem setClk_out (d : Dev) (p : Nat) (v : MillClk) : (d.setClk p v).out = d.out := rfl
@[simp] theorem setClk_reply (d : Dev) (p : Nat) (v : MillClk) : (d.setClk p v).reply = d.reply := rfl

/-! ### emit -/

@[simp] theorem emit_cycle (d : Dev) (o : Output) : (d.emit o).cycle = d.cycle := rfl
@[simp] theorem emit_freeIx (d : Dev) (o : Output) : (d.emit o).freeIx = d.freeIx := rfl
@[simp] theorem emit_regs (d : Dev) (o : Output) : (d.emit o).regs = d.regs := rfl
@[simp] theorem emit_halves (d : Dev) (o : Output) : (d.emit o).halves = d.halves := rfl
@[simp] theorem emit_mem (d : Dev) (o : Output) : (d.emit o).mem = d.mem := rfl
@[simp] theorem emit_ecc (d : Dev) (o : Output) : (d.emit o).ecc = d.ecc := rfl
@[simp] theorem emit_evr (d : Dev) (o : Output) : (d.emit o).evr = d.evr := rfl
@[simp] theorem emit_lehr (d : Dev) (o : Output) : (d.emit o).lehr = d.lehr := rfl
@[simp] theorem emit_park (d : Dev) (o : Output) : (d.emit o).park = d.park := rfl
@[simp] theorem emit_gov (d : Dev) (o : Output) : (d.emit o).gov = d.gov := rfl
@[simp] theorem emit_stage (d : Dev) (o : Output) : (d.emit o).stage = d.stage := rfl
@[simp] theorem emit_tiles (d : Dev) (o : Output) : (d.emit o).tiles = d.tiles := rfl
@[simp] theorem emit_mills (d : Dev) (o : Output) : (d.emit o).mills = d.mills := rfl
@[simp] theorem emit_seqs (d : Dev) (o : Output) : (d.emit o).seqs = d.seqs := rfl
@[simp] theorem emit_race (d : Dev) (o : Output) : (d.emit o).race = d.race := rfl
@[simp] theorem emit_objs (d : Dev) (o : Output) : (d.emit o).objs = d.objs := rfl
@[simp] theorem emit_syncFly (d : Dev) (o : Output) : (d.emit o).syncFly = d.syncFly := rfl
@[simp] theorem emit_sluice (d : Dev) (o : Output) : (d.emit o).sluice = d.sluice := rfl
@[simp] theorem emit_xcache (d : Dev) (o : Output) : (d.emit o).xcache = d.xcache := rfl
@[simp] theorem emit_imgs (d : Dev) (o : Output) : (d.emit o).imgs = d.imgs := rfl
@[simp] theorem emit_colls (d : Dev) (o : Output) : (d.emit o).colls = d.colls := rfl
@[simp] theorem emit_cxRun (d : Dev) (o : Output) : (d.emit o).cxRun = d.cxRun := rfl
@[simp] theorem emit_cxWait (d : Dev) (o : Output) : (d.emit o).cxWait = d.cxWait := rfl
@[simp] theorem emit_guards (d : Dev) (o : Output) : (d.emit o).guards = d.guards := rfl
@[simp] theorem emit_steps (d : Dev) (o : Output) : (d.emit o).steps = d.steps := rfl
@[simp] theorem emit_measures (d : Dev) (o : Output) : (d.emit o).measures = d.measures := rfl
@[simp] theorem emit_ledger (d : Dev) (o : Output) : (d.emit o).ledger = d.ledger := rfl
@[simp] theorem emit_ledgerCount (d : Dev) (o : Output) : (d.emit o).ledgerCount = d.ledgerCount := rfl
@[simp] theorem emit_flume (d : Dev) (o : Output) : (d.emit o).flume = d.flume := rfl
@[simp] theorem emit_numVf (d : Dev) (o : Output) : (d.emit o).numVf = d.numVf := rfl
@[simp] theorem emit_cplErr (d : Dev) (o : Output) : (d.emit o).cplErr = d.cplErr := rfl
@[simp] theorem emit_reply (d : Dev) (o : Output) : (d.emit o).reply = d.reply := rfl

/-! ### draw -/

@[simp] theorem draw_cycle (d : Dev) : (d.draw).cycle = d.cycle := rfl
@[simp] theorem draw_regs (d : Dev) : (d.draw).regs = d.regs := rfl
@[simp] theorem draw_halves (d : Dev) : (d.draw).halves = d.halves := rfl
@[simp] theorem draw_mem (d : Dev) : (d.draw).mem = d.mem := rfl
@[simp] theorem draw_ecc (d : Dev) : (d.draw).ecc = d.ecc := rfl
@[simp] theorem draw_evr (d : Dev) : (d.draw).evr = d.evr := rfl
@[simp] theorem draw_lehr (d : Dev) : (d.draw).lehr = d.lehr := rfl
@[simp] theorem draw_park (d : Dev) : (d.draw).park = d.park := rfl
@[simp] theorem draw_gov (d : Dev) : (d.draw).gov = d.gov := rfl
@[simp] theorem draw_stage (d : Dev) : (d.draw).stage = d.stage := rfl
@[simp] theorem draw_tiles (d : Dev) : (d.draw).tiles = d.tiles := rfl
@[simp] theorem draw_mills (d : Dev) : (d.draw).mills = d.mills := rfl
@[simp] theorem draw_seqs (d : Dev) : (d.draw).seqs = d.seqs := rfl
@[simp] theorem draw_race (d : Dev) : (d.draw).race = d.race := rfl
@[simp] theorem draw_objs (d : Dev) : (d.draw).objs = d.objs := rfl
@[simp] theorem draw_syncFly (d : Dev) : (d.draw).syncFly = d.syncFly := rfl
@[simp] theorem draw_sluice (d : Dev) : (d.draw).sluice = d.sluice := rfl
@[simp] theorem draw_xcache (d : Dev) : (d.draw).xcache = d.xcache := rfl
@[simp] theorem draw_imgs (d : Dev) : (d.draw).imgs = d.imgs := rfl
@[simp] theorem draw_colls (d : Dev) : (d.draw).colls = d.colls := rfl
@[simp] theorem draw_cxRun (d : Dev) : (d.draw).cxRun = d.cxRun := rfl
@[simp] theorem draw_cxWait (d : Dev) : (d.draw).cxWait = d.cxWait := rfl
@[simp] theorem draw_guards (d : Dev) : (d.draw).guards = d.guards := rfl
@[simp] theorem draw_steps (d : Dev) : (d.draw).steps = d.steps := rfl
@[simp] theorem draw_measures (d : Dev) : (d.draw).measures = d.measures := rfl
@[simp] theorem draw_ledger (d : Dev) : (d.draw).ledger = d.ledger := rfl
@[simp] theorem draw_ledgerCount (d : Dev) : (d.draw).ledgerCount = d.ledgerCount := rfl
@[simp] theorem draw_flume (d : Dev) : (d.draw).flume = d.flume := rfl
@[simp] theorem draw_numVf (d : Dev) : (d.draw).numVf = d.numVf := rfl
@[simp] theorem draw_cplErr (d : Dev) : (d.draw).cplErr = d.cplErr := rfl
@[simp] theorem draw_out (d : Dev) : (d.draw).out = d.out := rfl
@[simp] theorem draw_reply (d : Dev) : (d.draw).reply = d.reply := rfl

/-! ### setCtx -/

@[simp] theorem setCtx_cycle (d : Dev) (t : Nat) (k : HCtx) (c : Ctx) : (d.setCtx t k c).cycle = d.cycle := rfl
@[simp] theorem setCtx_freeIx (d : Dev) (t : Nat) (k : HCtx) (c : Ctx) : (d.setCtx t k c).freeIx = d.freeIx := rfl
@[simp] theorem setCtx_regs (d : Dev) (t : Nat) (k : HCtx) (c : Ctx) : (d.setCtx t k c).regs = d.regs := rfl
@[simp] theorem setCtx_halves (d : Dev) (t : Nat) (k : HCtx) (c : Ctx) : (d.setCtx t k c).halves = d.halves := rfl
@[simp] theorem setCtx_mem (d : Dev) (t : Nat) (k : HCtx) (c : Ctx) : (d.setCtx t k c).mem = d.mem := rfl
@[simp] theorem setCtx_ecc (d : Dev) (t : Nat) (k : HCtx) (c : Ctx) : (d.setCtx t k c).ecc = d.ecc := rfl
@[simp] theorem setCtx_evr (d : Dev) (t : Nat) (k : HCtx) (c : Ctx) : (d.setCtx t k c).evr = d.evr := rfl
@[simp] theorem setCtx_lehr (d : Dev) (t : Nat) (k : HCtx) (c : Ctx) : (d.setCtx t k c).lehr = d.lehr := rfl
@[simp] theorem setCtx_park (d : Dev) (t : Nat) (k : HCtx) (c : Ctx) : (d.setCtx t k c).park = d.park := rfl
@[simp] theorem setCtx_gov (d : Dev) (t : Nat) (k : HCtx) (c : Ctx) : (d.setCtx t k c).gov = d.gov := rfl
@[simp] theorem setCtx_stage (d : Dev) (t : Nat) (k : HCtx) (c : Ctx) : (d.setCtx t k c).stage = d.stage := rfl
@[simp] theorem setCtx_mills (d : Dev) (t : Nat) (k : HCtx) (c : Ctx) : (d.setCtx t k c).mills = d.mills := rfl
@[simp] theorem setCtx_seqs (d : Dev) (t : Nat) (k : HCtx) (c : Ctx) : (d.setCtx t k c).seqs = d.seqs := rfl
@[simp] theorem setCtx_race (d : Dev) (t : Nat) (k : HCtx) (c : Ctx) : (d.setCtx t k c).race = d.race := rfl
@[simp] theorem setCtx_objs (d : Dev) (t : Nat) (k : HCtx) (c : Ctx) : (d.setCtx t k c).objs = d.objs := rfl
@[simp] theorem setCtx_syncFly (d : Dev) (t : Nat) (k : HCtx) (c : Ctx) : (d.setCtx t k c).syncFly = d.syncFly := rfl
@[simp] theorem setCtx_sluice (d : Dev) (t : Nat) (k : HCtx) (c : Ctx) : (d.setCtx t k c).sluice = d.sluice := rfl
@[simp] theorem setCtx_xcache (d : Dev) (t : Nat) (k : HCtx) (c : Ctx) : (d.setCtx t k c).xcache = d.xcache := rfl
@[simp] theorem setCtx_imgs (d : Dev) (t : Nat) (k : HCtx) (c : Ctx) : (d.setCtx t k c).imgs = d.imgs := rfl
@[simp] theorem setCtx_colls (d : Dev) (t : Nat) (k : HCtx) (c : Ctx) : (d.setCtx t k c).colls = d.colls := rfl
@[simp] theorem setCtx_cxRun (d : Dev) (t : Nat) (k : HCtx) (c : Ctx) : (d.setCtx t k c).cxRun = d.cxRun := rfl
@[simp] theorem setCtx_cxWait (d : Dev) (t : Nat) (k : HCtx) (c : Ctx) : (d.setCtx t k c).cxWait = d.cxWait := rfl
@[simp] theorem setCtx_guards (d : Dev) (t : Nat) (k : HCtx) (c : Ctx) : (d.setCtx t k c).guards = d.guards := rfl
@[simp] theorem setCtx_steps (d : Dev) (t : Nat) (k : HCtx) (c : Ctx) : (d.setCtx t k c).steps = d.steps := rfl
@[simp] theorem setCtx_measures (d : Dev) (t : Nat) (k : HCtx) (c : Ctx) : (d.setCtx t k c).measures = d.measures := rfl
@[simp] theorem setCtx_ledger (d : Dev) (t : Nat) (k : HCtx) (c : Ctx) : (d.setCtx t k c).ledger = d.ledger := rfl
@[simp] theorem setCtx_ledgerCount (d : Dev) (t : Nat) (k : HCtx) (c : Ctx) : (d.setCtx t k c).ledgerCount = d.ledgerCount := rfl
@[simp] theorem setCtx_flume (d : Dev) (t : Nat) (k : HCtx) (c : Ctx) : (d.setCtx t k c).flume = d.flume := rfl
@[simp] theorem setCtx_numVf (d : Dev) (t : Nat) (k : HCtx) (c : Ctx) : (d.setCtx t k c).numVf = d.numVf := rfl
@[simp] theorem setCtx_cplErr (d : Dev) (t : Nat) (k : HCtx) (c : Ctx) : (d.setCtx t k c).cplErr = d.cplErr := rfl
@[simp] theorem setCtx_out (d : Dev) (t : Nat) (k : HCtx) (c : Ctx) : (d.setCtx t k c).out = d.out := rfl
@[simp] theorem setCtx_reply (d : Dev) (t : Nat) (k : HCtx) (c : Ctx) : (d.setCtx t k c).reply = d.reply := rfl

/-! ### putBytes -/

@[simp] theorem putBytes_cycle (d : Dev) (a : Nat) (bs : List Byte) : (d.putBytes a bs).cycle = d.cycle := rfl
@[simp] theorem putBytes_freeIx (d : Dev) (a : Nat) (bs : List Byte) : (d.putBytes a bs).freeIx = d.freeIx := rfl
@[simp] theorem putBytes_regs (d : Dev) (a : Nat) (bs : List Byte) : (d.putBytes a bs).regs = d.regs := rfl
@[simp] theorem putBytes_halves (d : Dev) (a : Nat) (bs : List Byte) : (d.putBytes a bs).halves = d.halves := rfl
@[simp] theorem putBytes_ecc (d : Dev) (a : Nat) (bs : List Byte) : (d.putBytes a bs).ecc = d.ecc := rfl
@[simp] theorem putBytes_evr (d : Dev) (a : Nat) (bs : List Byte) : (d.putBytes a bs).evr = d.evr := rfl
@[simp] theorem putBytes_lehr (d : Dev) (a : Nat) (bs : List Byte) : (d.putBytes a bs).lehr = d.lehr := rfl
@[simp] theorem putBytes_park (d : Dev) (a : Nat) (bs : List Byte) : (d.putBytes a bs).park = d.park := rfl
@[simp] theorem putBytes_gov (d : Dev) (a : Nat) (bs : List Byte) : (d.putBytes a bs).gov = d.gov := rfl
@[simp] theorem putBytes_stage (d : Dev) (a : Nat) (bs : List Byte) : (d.putBytes a bs).stage = d.stage := rfl
@[simp] theorem putBytes_tiles (d : Dev) (a : Nat) (bs : List Byte) : (d.putBytes a bs).tiles = d.tiles := rfl
@[simp] theorem putBytes_mills (d : Dev) (a : Nat) (bs : List Byte) : (d.putBytes a bs).mills = d.mills := rfl
@[simp] theorem putBytes_seqs (d : Dev) (a : Nat) (bs : List Byte) : (d.putBytes a bs).seqs = d.seqs := rfl
@[simp] theorem putBytes_race (d : Dev) (a : Nat) (bs : List Byte) : (d.putBytes a bs).race = d.race := rfl
@[simp] theorem putBytes_objs (d : Dev) (a : Nat) (bs : List Byte) : (d.putBytes a bs).objs = d.objs := rfl
@[simp] theorem putBytes_syncFly (d : Dev) (a : Nat) (bs : List Byte) : (d.putBytes a bs).syncFly = d.syncFly := rfl
@[simp] theorem putBytes_sluice (d : Dev) (a : Nat) (bs : List Byte) : (d.putBytes a bs).sluice = d.sluice := rfl
@[simp] theorem putBytes_xcache (d : Dev) (a : Nat) (bs : List Byte) : (d.putBytes a bs).xcache = d.xcache := rfl
@[simp] theorem putBytes_imgs (d : Dev) (a : Nat) (bs : List Byte) : (d.putBytes a bs).imgs = d.imgs := rfl
@[simp] theorem putBytes_colls (d : Dev) (a : Nat) (bs : List Byte) : (d.putBytes a bs).colls = d.colls := rfl
@[simp] theorem putBytes_cxRun (d : Dev) (a : Nat) (bs : List Byte) : (d.putBytes a bs).cxRun = d.cxRun := rfl
@[simp] theorem putBytes_cxWait (d : Dev) (a : Nat) (bs : List Byte) : (d.putBytes a bs).cxWait = d.cxWait := rfl
@[simp] theorem putBytes_guards (d : Dev) (a : Nat) (bs : List Byte) : (d.putBytes a bs).guards = d.guards := rfl
@[simp] theorem putBytes_steps (d : Dev) (a : Nat) (bs : List Byte) : (d.putBytes a bs).steps = d.steps := rfl
@[simp] theorem putBytes_measures (d : Dev) (a : Nat) (bs : List Byte) : (d.putBytes a bs).measures = d.measures := rfl
@[simp] theorem putBytes_ledger (d : Dev) (a : Nat) (bs : List Byte) : (d.putBytes a bs).ledger = d.ledger := rfl
@[simp] theorem putBytes_ledgerCount (d : Dev) (a : Nat) (bs : List Byte) : (d.putBytes a bs).ledgerCount = d.ledgerCount := rfl
@[simp] theorem putBytes_flume (d : Dev) (a : Nat) (bs : List Byte) : (d.putBytes a bs).flume = d.flume := rfl
@[simp] theorem putBytes_numVf (d : Dev) (a : Nat) (bs : List Byte) : (d.putBytes a bs).numVf = d.numVf := rfl
@[simp] theorem putBytes_cplErr (d : Dev) (a : Nat) (bs : List Byte) : (d.putBytes a bs).cplErr = d.cplErr := rfl
@[simp] theorem putBytes_out (d : Dev) (a : Nat) (bs : List Byte) : (d.putBytes a bs).out = d.out := rfl
@[simp] theorem putBytes_reply (d : Dev) (a : Nat) (bs : List Byte) : (d.putBytes a bs).reply = d.reply := rfl

/-! ### Units read back -/

theorem setReg_reg (d : Dev) (i j : Nat) (v : Word) : (d.setReg i v).reg j = if j = i then v else d.reg j := Tab.get_set _ _ i j v
@[simp] theorem setReg_reg_same (d : Dev) (i : Nat) (v : Word) : (d.setReg i v).reg i = v := by simp [setReg_reg]
theorem setReg_reg_ne (d : Dev) {i j : Nat} (v : Word) (h : j ≠ i) : (d.setReg i v).reg j = d.reg j := by simp [setReg_reg, h]
theorem setTile_tile (d : Dev) (i j : Nat) (v : Tile) : (d.setTile i v).tile j = if j = i then v else d.tile j := Tab.get_set _ _ i j v
@[simp] theorem setTile_tile_same (d : Dev) (i : Nat) (v : Tile) : (d.setTile i v).tile i = v := by simp [setTile_tile]
theorem setTile_tile_ne (d : Dev) {i j : Nat} (v : Tile) (h : j ≠ i) : (d.setTile i v).tile j = d.tile j := by simp [setTile_tile, h]
theorem setMill_mill (d : Dev) (i j : Nat) (v : Mill) : (d.setMill i v).mill j = if j = i then v else d.mill j := Tab.get_set _ _ i j v
@[simp] theorem setMill_mill_same (d : Dev) (i : Nat) (v : Mill) : (d.setMill i v).mill i = v := by simp [setMill_mill]
theorem setMill_mill_ne (d : Dev) {i j : Nat} (v : Mill) (h : j ≠ i) : (d.setMill i v).mill j = d.mill j := by simp [setMill_mill, h]
theorem setSeq_seq (d : Dev) (i j : Nat) (v : XSeq) : (d.setSeq i v).seq j = if j = i then v else d.seq j := Tab.get_set _ _ i j v
@[simp] theorem setSeq_seq_same (d : Dev) (i : Nat) (v : XSeq) : (d.setSeq i v).seq i = v := by simp [setSeq_seq]
theorem setSeq_seq_ne (d : Dev) {i j : Nat} (v : XSeq) (h : j ≠ i) : (d.setSeq i v).seq j = d.seq j := by simp [setSeq_seq, h]
theorem setObj_obj (d : Dev) (i j : Nat) (v : SyncObj) : (d.setObj i v).obj j = if j = i then v else d.obj j := Tab.get_set _ _ i j v
@[simp] theorem setObj_obj_same (d : Dev) (i : Nat) (v : SyncObj) : (d.setObj i v).obj i = v := by simp [setObj_obj]
theorem setObj_obj_ne (d : Dev) {i j : Nat} (v : SyncObj) (h : j ≠ i) : (d.setObj i v).obj j = d.obj j := by simp [setObj_obj, h]
theorem setQueue_queue (d : Dev) (i j : Nat) (v : SQueue) : (d.setQueue i v).queue j = if j = i then v else d.queue j := Tab.get_set _ _ i j v
@[simp] theorem setQueue_queue_same (d : Dev) (i : Nat) (v : SQueue) : (d.setQueue i v).queue i = v := by simp [setQueue_queue]
theorem setQueue_queue_ne (d : Dev) {i j : Nat} (v : SQueue) (h : j ≠ i) : (d.setQueue i v).queue j = d.queue j := by simp [setQueue_queue, h]
theorem setImg_img (d : Dev) (i j : Nat) (v : ImageCtx) : (d.setImg i v).img j = if j = i then v else d.img j := Tab.get_set _ _ i j v
@[simp] theorem setImg_img_same (d : Dev) (i : Nat) (v : ImageCtx) : (d.setImg i v).img i = v := by simp [setImg_img]
theorem setImg_img_ne (d : Dev) {i j : Nat} (v : ImageCtx) (h : j ≠ i) : (d.setImg i v).img j = d.img j := by simp [setImg_img, h]
theorem setColl_coll (d : Dev) (i j : Nat) (v : Coll) : (d.setColl i v).coll j = if j = i then v else d.coll j := Tab.get_set _ _ i j v
@[simp] theorem setColl_coll_same (d : Dev) (i : Nat) (v : Coll) : (d.setColl i v).coll i = v := by simp [setColl_coll]
theorem setColl_coll_ne (d : Dev) {i j : Nat} (v : Coll) (h : j ≠ i) : (d.setColl i v).coll j = d.coll j := by simp [setColl_coll, h]
theorem setGuard_guard (d : Dev) (i j : Nat) (v : Guard) : (d.setGuard i v).guard j = if j = i then v else d.guard j := Tab.get_set _ _ i j v
@[simp] theorem setGuard_guard_same (d : Dev) (i : Nat) (v : Guard) : (d.setGuard i v).guard i = v := by simp [setGuard_guard]
theorem setGuard_guard_ne (d : Dev) {i j : Nat} (v : Guard) (h : j ≠ i) : (d.setGuard i v).guard j = d.guard j := by simp [setGuard_guard, h]
theorem setStep_stepOf (d : Dev) (i j : Nat) (v : Step) : (d.setStep i v).stepOf j = if j = i then v else d.stepOf j := Tab.get_set _ _ i j v
@[simp] theorem setStep_stepOf_same (d : Dev) (i : Nat) (v : Step) : (d.setStep i v).stepOf i = v := by simp [setStep_stepOf]
theorem setStep_stepOf_ne (d : Dev) {i j : Nat} (v : Step) (h : j ≠ i) : (d.setStep i v).stepOf j = d.stepOf j := by simp [setStep_stepOf, h]
theorem setMeasure_measure (d : Dev) (i j : Nat) (v : Measure) : (d.setMeasure i v).measure j = if j = i then v else d.measure j := Tab.get_set _ _ i j v
@[simp] theorem setMeasure_measure_same (d : Dev) (i : Nat) (v : Measure) : (d.setMeasure i v).measure i = v := by simp [setMeasure_measure]
theorem setMeasure_measure_ne (d : Dev) {i j : Nat} (v : Measure) (h : j ≠ i) : (d.setMeasure i v).measure j = d.measure j := by simp [setMeasure_measure, h]
theorem setPort_port (d : Dev) (i j : Nat) (v : FPort) : (d.setPort i v).port j = if j = i then v else d.port j := Tab.get_set _ _ i j v
@[simp] theorem setPort_port_same (d : Dev) (i : Nat) (v : FPort) : (d.setPort i v).port i = v := by simp [setPort_port]
theorem setPort_port_ne (d : Dev) {i j : Nat} (v : FPort) (h : j ≠ i) : (d.setPort i v).port j = d.port j := by simp [setPort_port, h]
theorem setClk_clk (d : Dev) (i j : Nat) (v : MillClk) : (d.setClk i v).clk j = if j = i then v else d.clk j := Tab.get_set _ _ i j v
@[simp] theorem setClk_clk_same (d : Dev) (i : Nat) (v : MillClk) : (d.setClk i v).clk i = v := by simp [setClk_clk]
theorem setClk_clk_ne (d : Dev) {i j : Nat} (v : MillClk) (h : j ≠ i) : (d.setClk i v).clk j = d.clk j := by simp [setClk_clk, h]

/-- What a tile reads as once a context of it has been stored. -/
theorem setCtx_tile (d : Dev) (t j : Nat) (k : HCtx) (c : Ctx) :
    (d.setCtx t k c).tile j = if j = t then { d.tile t with ctx := (d.tile t).ctx.set k c } else d.tile j := setTile_tile d t j _

@[simp] theorem setCtx_ctx_same (d : Dev) (t : Nat) (k : HCtx) (c : Ctx) : (d.setCtx t k c).ctx t k = c := by
  simp [Dev.ctx, setCtx_tile]

/-- A context other than the one stored reads as before. -/
theorem setCtx_ctx_ne (d : Dev) {t j : Nat} {k l : HCtx} (c : Ctx) (h : j ≠ t ∨ l ≠ k) :
    (d.setCtx t k c).ctx j l = d.ctx j l := by
  unfold Dev.ctx
  rw [setCtx_tile]
  by_cases hj : j = t
  · subst hj
    have hl : l ≠ k := by simpa using h
    have : (k : Nat) ≠ l := fun e => hl (Fin.ext e.symm)
    simp [this]
  · simp [hj]

end Sys2Proof.Machine
end

