-- ==== Sys2Proof/Laws/Event.lean ====
section
/-!
SUPPORT. What recording an event and capturing a violation can change, once for every command that does either.
-/
namespace Sys2Proof.Machine

theorem Dev.Records.refl (d : Dev) : d.Records d := ⟨rfl, rfl, fun _ _ _ => rfl⟩

/-- A device that differs in the recorder and in what was sent only. -/
theorem Dev.Records.of_eq (d : Dev) (e : Evr) (o : List Output) : d.Records { d with evr := e, out := o } :=
  ⟨rfl, rfl, fun _ _ _ => rfl⟩

theorem Dev.Records.trans {a b c : Dev} (h : a.Records b) (g : b.Records c) : a.Records c := by
  obtain ⟨h1, h2, h3⟩ := h
  obtain ⟨g1, g2, g3⟩ := g
  refine ⟨?_, ?_, fun o x y => (g3 o x y).trans (h3 o x y)⟩
  · rw [← h1, ← g1]
  · rw [← h2, ← g2]

theorem reg_setReg (d : Dev) (o x : Nat) (w : Word) : (d.setReg o w).reg x = if x = o then w else d.reg x :=
  Tab.get_set regReset d.regs o x w

theorem count_records (d : Dev) {o : Nat} (n : Nat) (h : o = Reg.EVR_LOST ∨ o = Reg.EVR_COALESCED) : d.Records (d.count o n) := by
  refine ⟨rfl, rfl, fun x hx hy => ?_⟩
  unfold Dev.count
  rw [reg_setReg, if_neg (by rintro rfl; rcases h with h | h <;> contradiction)]

theorem trimSram_records (d : Dev) : d.Records d.trimSram := by
  unfold Dev.trimSram
  split
  · exact .refl d
  · split
    · exact .refl d
    · split
      · exact (Dev.Records.of_eq d _ _).trans (count_records _ _ (.inl rfl))
      · exact .of_eq d _ _

theorem announce_records (d : Dev) (sev : Nat) (ws : List Word) : d.Records (d.announce sev ws) := by
  unfold Dev.announce
  split
  · dsimp only
    split
    · exact .of_eq d _ _
    · exact (Dev.Records.of_eq d _ _).trans (Dev.Records.of_eq _ _ _)
  · exact .refl d

theorem writeRecord_records (d : Dev) (sev : Nat) (ws : List Word) : d.Records (d.writeRecord sev ws) := by
  unfold Dev.writeRecord
  exact ((Dev.Records.of_eq d _ _).trans (trimSram_records _)).trans (announce_records _ _ _)

theorem writeEvent_records (d : Dev) (sev source code ms p0 p1 p2 p3 : Nat) :
    d.Records (d.writeEvent sev source code ms p0 p1 p2 p3) := writeRecord_records _ _ _

theorem writeRepeat_records (d : Dev) (ms : Nat) (p : Pair) : d.Records (d.writeRepeat ms p) := by
  unfold Dev.writeRepeat
  split
  · exact .refl d
  · exact (writeEvent_records _ _ _ _ _ _ _ _ _).trans (count_records _ _ (.inr rfl))

theorem foldl_records {α : Type} (f : Dev → α → Dev) (h : ∀ (d : Dev) x, d.Records (f d x)) (d : Dev) (l : List α) :
    d.Records (l.foldl f d) := by
  induction l generalizing d with
  | nil => exact .refl d
  | cons x l ih => exact (h d x).trans (ih _)

theorem flushPairs_records (d : Dev) : d.Records d.flushPairs := by
  unfold Dev.flushPairs
  split
  · exact .refl d
  · exact (foldl_records _ (fun d p => writeRepeat_records d _ p) d _).trans (Dev.Records.of_eq _ _ _)

theorem eventSrc_records (d : Dev) (code source p0 p1 p2 p3 : Nat) : d.Records (d.eventSrc code source p0 p1 p2 p3) := by
  unfold Dev.eventSrc
  dsimp only
  split
  · split <;> exact ⟨rfl, rfl, fun _ _ _ => rfl⟩
  · refine (flushPairs_records d).trans ?_
    split
    · exact writeEvent_records _ _ _ _ _ _ _ _ _
    · split
      · exact .of_eq _ _ _
      · split
        · exact (Dev.Records.of_eq _ _ _).trans (writeEvent_records _ _ _ _ _ _ _ _ _)
        · split
          · exact .of_eq _ _ _
          · exact (Dev.Records.of_eq _ _ _).trans (writeEvent_records _ _ _ _ _ _ _ _ _)

/-- Recording an event writes nothing outside the recorder (R588 to R592). -/
theorem event_records (d : Dev) (code p0 p1 p2 p3 : Nat) : d.Records (d.event code p0 p1 p2 p3) := eventSrc_records _ _ _ _ _ _ _

theorem Dev.Records.logs {d d' : Dev} (h : d.Records d') (base : Nat) : d.Logs d' base :=
  ⟨h.1, h.2.1, fun o x y _ _ _ => h.2.2 o x y⟩

theorem Dev.Logs.trans {a b c : Dev} {base : Nat} (h : a.Logs b base) (g : b.Logs c base) : a.Logs c base := by
  obtain ⟨h1, h2, h3⟩ := h
  obtain ⟨g1, g2, g3⟩ := g
  refine ⟨?_, ?_, fun o x y p q r => (g3 o x y p q r).trans (h3 o x y p q r)⟩
  · rw [← h1, ← g1]
  · rw [← h2, ← g2]

/-- A capture writes the three registers of its block (R522). -/
theorem capture_logs (d : Dev) (base lo hi info : Nat) : d.Logs (d.capture base lo hi info) base := by
  refine ⟨?_, ?_, ?_⟩
  · unfold Dev.capture Dev.setFld; dsimp only; split <;> rfl
  · unfold Dev.capture Dev.setFld; dsimp only; split <;> rfl
  · intro o _ _ h1 h2 h3
    unfold Dev.capture Dev.setFld
    dsimp only
    split
    · rw [reg_setReg, if_neg h3]
    · rw [reg_setReg, if_neg h3, reg_setReg, if_neg h2, reg_setReg, if_neg h1]

theorem emit_records (d : Dev) (o : Output) : d.Records (d.emit o) := .of_eq d _ _

/-- What the parts of the device outside the recorder hold after an event. -/
theorem Dev.Records.mem {d d' : Dev} (h : d.Records d') : d'.mem = d.mem := by rw [← h.1]
theorem Dev.Records.cycle {d d' : Dev} (h : d.Records d') : d'.cycle = d.cycle := by rw [← h.1]
theorem Dev.Records.ecc {d d' : Dev} (h : d.Records d') : d'.ecc = d.ecc := by rw [← h.1]
theorem Dev.Records.tiles {d d' : Dev} (h : d.Records d') : d'.tiles = d.tiles := by rw [← h.1]
theorem Dev.Records.mills {d d' : Dev} (h : d.Records d') : d'.mills = d.mills := by rw [← h.1]
theorem Dev.Records.imgs {d d' : Dev} (h : d.Records d') : d'.imgs = d.imgs := by rw [← h.1]
theorem Dev.Records.flume {d d' : Dev} (h : d.Records d') : d'.flume = d.flume := by rw [← h.1]
theorem Dev.Records.gov {d d' : Dev} (h : d.Records d') : d'.gov = d.gov := by rw [← h.1]
theorem Dev.Records.park {d d' : Dev} (h : d.Records d') : d'.park = d.park := by rw [← h.1]
theorem Dev.Records.stage {d d' : Dev} (h : d.Records d') : d'.stage = d.stage := by rw [← h.1]
theorem Dev.Records.objs {d d' : Dev} (h : d.Records d') : d'.objs = d.objs := by rw [← h.1]
theorem Dev.Records.race {d d' : Dev} (h : d.Records d') : d'.race = d.race := by rw [← h.1]
theorem Dev.Records.port {d d' : Dev} (h : d.Records d') (n : Nat) : d'.port n = d.port n := by unfold Dev.port; rw [h.flume]
theorem Dev.Records.tile {d d' : Dev} (h : d.Records d') (t : Nat) : d'.tile t = d.tile t := by unfold Dev.tile; rw [h.tiles]
theorem Dev.Records.img {d d' : Dev} (h : d.Records d') (c : Nat) : d'.img c = d.img c := by unfold Dev.img; rw [h.imgs]

/-- Reporting an uncorrectable word leaves the integrity unit's own state as it was. -/
theorem reportUe_ecc (d : Dev) (g wa : Nat) (p : Bool) : (d.reportUe g wa p).ecc = d.ecc := by
  have he : ∀ (x : Dev) (c p0 p1 p2 p3 : Nat), (x.event c p0 p1 p2 p3).ecc = x.ecc := fun x c p0 p1 p2 p3 =>
    (congrArg Dev.ecc (event_records x c p0 p1 p2 p3).1 :)
  have hc : ∀ (x : Dev) (a b c e : Nat), (x.capture a b c e).ecc = x.ecc := fun x a b c e => by
    unfold Dev.capture; dsimp only; split <;> rfl
  unfold Dev.reportUe
  dsimp only
  split <;> split <;> split <;> simp only [Dev.count, setReg_ecc, he, hc]

end Sys2Proof.Machine
end

