-- ==== Sys2Proof/Laws/Read.lean ====
section
/-!
SUPPORT. What reading and writing memory words that read back does, once for every command that does it.
-/
namespace Sys2Proof.Machine

/-! ### The bytes from an address up -/

@[simp] theorem bytesAt_length (d : Dev) (a n : Nat) : (d.bytesAt a n).length = n := by simp [Dev.bytesAt]

theorem bytesAt_getElem? (d : Dev) (a n i : Nat) (h : i < n) : (d.bytesAt a n)[i]? = some ((Memory.byte d.mem (a + i)).getD 0) := by
  simp [Dev.bytesAt, h]

theorem bytesAt_add (d : Dev) (a m n : Nat) : d.bytesAt a (m + n) = d.bytesAt a m ++ d.bytesAt (a + m) n := by
  simp [Dev.bytesAt, List.range_add, List.map_append, Function.comp_def, Nat.add_assoc]

theorem bytesAt_drop_take (d : Dev) (a m n k : Nat) (h : m + n ≤ k) : ((d.bytesAt a k).drop m).take n = d.bytesAt (a + m) n := by
  obtain ⟨r, rfl⟩ : ∃ r, k = m + (n + r) := ⟨k - m - n, by omega⟩
  rw [bytesAt_add, bytesAt_add, List.drop_left' (by simp), List.take_left' (by simp)]

theorem bytesAt_of_bytes {d : Dev} {n a : Nat} {bs : List Byte} (h : Memory.bytes d.mem n a = some bs) : d.bytesAt a n = bs := by
  obtain ⟨hl, hb⟩ := Memory.bytes_eq_some.1 h
  apply List.ext_getElem?
  intro i
  by_cases hi : i < n
  · rw [bytesAt_getElem? d a n i hi, hb i hi]
    have : i < bs.length := by omega
    simp [List.getElem?_eq_getElem this]
  · rw [List.getElem?_eq_none (by simp; omega), List.getElem?_eq_none (by omega)]

theorem bytesAt_mem (d d' : Dev) (a n : Nat) (h : ∀ i, i < n → Memory.byte d'.mem (a + i) = Memory.byte d.mem (a + i)) :
    d'.bytesAt a n = d.bytesAt a n := by
  unfold Dev.bytesAt
  apply List.map_congr_left
  intro i hi
  rw [h i (by simpa using hi)]

/-! ### Words -/

/-- The word at `wa` of tile memory has been written and has no flipped bit. -/
def Dev.cleanWord (d : Dev) (wa : Nat) : Bool := (Memory.bytes d.mem 8 wa).isSome && decide (d.flipOf wa = 0)

theorem clean_iff (d : Dev) (a n : Nat) : d.clean a n = true ↔
    tileBase ≤ a ∧ ∀ i, i < (alignUp 8 (a + n) - alignDown 8 a) / 8 → d.cleanWord (alignDown 8 a + 8 * i) = true := by
  simp [Dev.clean, Dev.cleanWord]

theorem tileBase_alignDown {a : Nat} (h : tileBase ≤ a) : tileBase ≤ alignDown 8 a := by
  unfold alignDown tileBase at *; omega

/-- A clean word reads as its bytes, and reading it changes nothing. -/
theorem readWord_clean {d : Dev} {wa : Nat} (g : Nat) (first : Bool) (hb : tileBase ≤ wa) (h : d.cleanWord wa = true) :
    d.readWord g wa first = (d, some (d.bytesAt wa 8), false) := by
  simp only [Dev.cleanWord, Bool.and_eq_true, decide_eq_true_eq, Option.isSome_iff_exists] at h
  obtain ⟨⟨v, hv⟩, hf⟩ := h
  have h1 : d.checkWord wa = .ok v := by
    unfold Dev.checkWord
    have hp : popCount 80 0 = 0 := by decide
    rw [hv]
    simp [hf, hp]
  have h2 : d.onLostDie wa = false := by simp [Dev.onLostDie]; omega
  simp [Dev.readWord, h1, h2, bytesAt_of_bytes hv]

theorem readWords_clean {d : Dev} (g n wa : Nat) (first : Bool) (hb : tileBase ≤ wa)
    (h : ∀ i, i < n → d.cleanWord (wa + 8 * i) = true) :
    d.readWords g n wa first = { dev := d, bytes := some (d.bytesAt wa (8 * n)), bad := none } := by
  induction n generalizing wa first with
  | zero => simp [Dev.readWords, Dev.bytesAt]
  | succ n ih =>
    have h0 := h 0 (by omega)
    have ih' := ih (wa + 8) (decide ((wa + 8) % 64 = 0)) (by omega) (fun i hi => by
      have := h (i + 1) (by omega)
      rwa [show wa + 8 + 8 * i = wa + 8 * (i + 1) by omega])
    unfold Dev.readWords
    rw [readWord_clean g first hb (by simpa using h0)]
    simp only [ih']
    rw [show 8 * (n + 1) = 8 + 8 * n by omega, bytesAt_add]

/-- Bytes whose words are clean read as they stand, and reading them changes nothing. -/
theorem read_clean {d : Dev} {a n : Nat} (g : Nat) (h : d.clean a n = true) :
    d.read g a n = { dev := d, bytes := some (d.bytesAt a n), bad := none } := by
  obtain ⟨hb, hw⟩ := (clean_iff d a n).1 h
  unfold Dev.read
  simp only [readWords_clean g _ _ _ (tileBase_alignDown hb) hw]
  simp only [Option.map_some]
  rw [bytesAt_drop_take]
  · rw [show alignDown 8 a + (a - alignDown 8 a) = a by unfold alignDown; omega]
  · unfold alignDown alignUp; omega

/-! ### Writes -/

theorem flipOf_setFlip (d : Dev) (a b : Nat) (m : BitVec 80) : (d.setFlip a m).flipOf b = if b = a then m else d.flipOf b :=
  Tab.get_set _ _ a b m

/-- What clearing the check state of words that have been written does: their masks are 0, and nothing else differs. -/
theorem written_unarmed {d : Dev} (g n wa : Nat) (h : d.unarmed) :
    ∃ fl, d.written g n wa = { d with ecc := { d.ecc with flips := fl } } ∧
      ∀ x, Tab.get (fun _ => (0 : BitVec 80)) fl x = if ∃ i, i < n ∧ x = wa + 8 * i then 0 else d.flipOf x := by
  induction n generalizing d wa with
  | zero => exact ⟨d.ecc.flips, rfl, by simp [Dev.flipOf]⟩
  | succ n ih =>
    have hu : (d.setFlip wa 0).unarmed := h
    obtain ⟨fl, h1, h2⟩ := ih (d := d.setFlip wa 0) (wa + 8) hu
    refine ⟨fl, ?_, fun x => ?_⟩
    · unfold Dev.written
      have : (d.setFlip wa 0).flipTarget wa = false := by simp [Dev.flipTarget, Dev.unarmed] at *; simp [hu]
      simp only [this]
      rw [if_neg (by simp), h1]
      rfl
    · rw [h2, flipOf_setFlip]
      by_cases hx : x = wa
      · subst hx
        have : ∃ i, i < n + 1 ∧ x = x + 8 * i := ⟨0, by omega, by omega⟩
        simp only [this, if_true]
        split <;> rfl
      · have : (∃ i, i < n ∧ x = wa + 8 + 8 * i) ↔ ∃ i, i < n + 1 ∧ x = wa + 8 * i := by
          constructor
          · rintro ⟨i, hi, rfl⟩; exact ⟨i + 1, by omega, by omega⟩
          · rintro ⟨i, hi, rfl⟩
            cases i with
            | zero => simp at hx
            | succ i => exact ⟨i, by omega, by omega⟩
        simp [this, hx]

/-- What a write of bytes to clean words does: each byte written reads as written and every other as before, their words stay
unflipped, and nothing else differs. -/
structure Written (d d' : Dev) (a : Nat) (bs : List Byte) : Prop where
  byte : ∀ x, Memory.byte d'.mem x = if a ≤ x ∧ x < a + bs.length then bs[x - a]? else Memory.byte d.mem x
  rest : { d' with mem := d.mem, ecc := { d'.ecc with flips := d.ecc.flips } } = d
  flip : ∀ x, d'.flipOf x = if alignDown 8 a ≤ x ∧ x < a + bs.length ∧ x % 8 = 0 then 0 else d.flipOf x

theorem Written.reg {d d' : Dev} {a : Nat} {bs : List Byte} (h : Written d d' a bs) (o : Nat) : d'.reg o = d.reg o := by
  have := congrArg (fun x : Dev => Tab.get regReset x.regs o) h.rest
  exact this

theorem byteMerge (d : Dev) (a : Nat) (hb tb bs : List Byte) (x : Nat) (h1 : ∀ i, i < hb.length → Memory.byte d.mem (a + i) = hb[i]?)
    (h2 : ∀ i, i < tb.length → Memory.byte d.mem (a + hb.length + bs.length + i) = tb[i]?) :
    Memory.byte (Memory.setBytes d.mem a (hb ++ bs ++ tb)) x =
      if a + hb.length ≤ x ∧ x < a + hb.length + bs.length then bs[x - (a + hb.length)]? else Memory.byte d.mem x := by
  rw [Memory.byte_setBytes]
  simp only [List.length_append]
  by_cases c1 : a + hb.length ≤ x ∧ x < a + hb.length + bs.length
  · rw [if_pos (by omega), if_pos c1, List.getElem?_append_left (by simp; omega), List.getElem?_append_right (by omega)]
    congr 1
    omega
  · rw [if_neg c1]
    by_cases c2 : a ≤ x ∧ x < a + (hb.length + bs.length + tb.length)
    · rw [if_pos c2]
      by_cases c3 : x < a + hb.length
      · rw [List.append_assoc, List.getElem?_append_left (by omega)]
        rw [← h1 (x - a) (by omega), show a + (x - a) = x by omega]
      · rw [List.getElem?_append_right (by simp; omega)]
        simp only [List.length_append]
        rw [← h2 _ (by omega), show a + hb.length + bs.length + (x - a - (hb.length + bs.length)) = x by omega]
    · rw [if_neg c2]

theorem cleanWord_byte {d : Dev} {wa i : Nat} (h : d.cleanWord wa = true) (hi : i < 8) :
    Memory.byte d.mem (wa + i) = (d.bytesAt wa 8)[i]? := by
  simp only [Dev.cleanWord, Bool.and_eq_true, decide_eq_true_eq, Option.isSome_iff_exists] at h
  obtain ⟨⟨v, hv⟩, _⟩ := h
  rw [bytesAt_of_bytes hv]
  exact (Memory.bytes_eq_some.1 hv).2 i hi

/-- A write outside HBM reads no old block. -/
theorem oldBlocks_tile {d : Dev} {a : Nat} (g n : Nat) (hb : tileBase ≤ a) : d.oldBlocks g n a = d := by
  simp [Dev.oldBlocks, hb]

/-- Writing whole words does what `Written` says. -/
theorem writeWords_unarmed {d : Dev} (g a : Nat) (bs : List Byte) (hb : tileBase ≤ a) (hu : d.unarmed) :
    ∃ fl, d.writeWords g a bs = { d with mem := Memory.setBytes d.mem a bs, ecc := { d.ecc with flips := fl } } ∧
      ∀ x, Tab.get (fun _ => (0 : BitVec 80)) fl x = if ∃ i, i < bs.length / 8 ∧ x = a + 8 * i then 0 else d.flipOf x := by
  obtain ⟨fl, h1, h2⟩ := written_unarmed (d := d.putBytes a bs) g (bs.length / 8) a hu
  exact ⟨fl, by rw [Dev.writeWords, oldBlocks_tile g _ hb]; exact h1, h2⟩

/-- A write of clean bytes succeeds, and is `Written`. -/
theorem write_clean {d : Dev} {a : Nat} {bs : List Byte} (g : Nat) (hn : 0 < bs.length) (hc : d.clean a bs.length = true)
    (hu : d.unarmed) : ∃ d', d.write g a bs = (d', none) ∧ Written d d' a bs := by
  obtain ⟨hb, hw⟩ := (clean_iff d a bs.length).1 hc
  have hb0 : tileBase ≤ alignDown 8 a := tileBase_alignDown hb
  have e0 : alignDown 8 a ≤ a := by unfold alignDown; omega
  have e1 : a + bs.length ≤ alignUp 8 (a + bs.length) := by unfold alignUp; omega
  have e2 : alignDown 8 a % 8 = 0 := by unfold alignDown; omega
  have e3 : alignUp 8 (a + bs.length) % 8 = 0 := by unfold alignUp; omega
  have e4 : alignUp 8 (a + bs.length) < a + bs.length + 8 := by unfold alignUp; omega
  have e5 : a < alignDown 8 a + 8 := by unfold alignDown; omega
  generalize hw0 : alignDown 8 a = w0 at *
  generalize hw1 : alignUp 8 (a + bs.length) = w1 at *
  have hhead : d.cleanWord w0 = true := by simpa using hw 0 (by omega)
  have htail : d.cleanWord (w1 - 8) = true := by
    have := hw ((w1 - w0) / 8 - 1) (by omega)
    rwa [show w0 + 8 * ((w1 - w0) / 8 - 1) = w1 - 8 by omega] at this
  have rh := readWords_clean g 1 w0 true hb0 (fun i hi => by rw [show w0 + 8 * i = w0 by omega]; exact hhead)
  have rt := readWords_clean g 1 (w1 - 8) true (by omega) (fun i hi => by rw [show w1 - 8 + 8 * i = w1 - 8 by omega]; exact htail)
  have hall : d.write g a bs =
      (d.writeWords g w0 (d.bytesAt w0 (a - w0) ++ bs ++ d.bytesAt (a + bs.length) (w1 - (a + bs.length))), none) := by
    unfold Dev.write
    simp only [hw0, hw1]
    have hd : ∀ m n, m + n ≤ 8 → ((d.bytesAt w0 8).drop m).take n = d.bytesAt (w0 + m) n := fun m n h => bytesAt_drop_take d w0 m n 8 h
    have ht : (d.bytesAt (w1 - 8) 8).drop (8 - (w1 - (a + bs.length))) = d.bytesAt (a + bs.length) (w1 - (a + bs.length)) := by
      have := bytesAt_drop_take d (w1 - 8) (8 - (w1 - (a + bs.length))) (w1 - (a + bs.length)) 8 (by omega)
      rw [show w1 - 8 + (8 - (w1 - (a + bs.length))) = a + bs.length by omega] at this
      rw [← this, List.take_of_length_le]
      simp; omega
    have htk : (d.bytesAt w0 8).take (a - w0) = d.bytesAt w0 (a - w0) := by
      have := hd 0 (a - w0) (by omega)
      simpa using this
    by_cases c1 : w0 < a ∨ a + bs.length < w0 + 8
    · have c1' : (decide (w0 < a) || decide (a + bs.length < w0 + 8)) = true := by simpa using c1
      by_cases c2 : a + bs.length < w1 ∧ w0 + 8 < w1
      · have c2' : (decide (a + bs.length < w1) && decide (w0 + 8 < w1)) = true := by simpa using c2
        simp only [c1', c2', if_true, rh, rt, Nat.mul_one, htk, ht]
      · have c2' : (decide (a + bs.length < w1) && decide (w0 + 8 < w1)) = false := by simpa using c2
        simp only [c1', c2', if_true, rh, Nat.mul_one, htk, Bool.false_eq_true, if_false]
        congr 3
        by_cases c3 : a + bs.length = w1
        · rw [List.drop_eq_nil_of_le (by simp; omega), show w1 - (a + bs.length) = 0 by omega]; rfl
        · have := hd (a + bs.length - w0) (w1 - (a + bs.length)) (by omega)
          rw [List.take_of_length_le (by simp; omega)] at this
          rw [this, show w0 + (a + bs.length - w0) = a + bs.length by omega]
    · have c1' : (decide (w0 < a) || decide (a + bs.length < w0 + 8)) = false := by simpa using c1
      have ha : a - w0 = 0 := by omega
      by_cases c2 : a + bs.length < w1 ∧ w0 + 8 < w1
      · have c2' : (decide (a + bs.length < w1) && decide (w0 + 8 < w1)) = true := by simpa using c2
        simp only [c1', c2', if_true, rt, Nat.mul_one, ht, ha, Bool.false_eq_true, if_false, List.take_nil]
        rfl
      · have c2' : (decide (a + bs.length < w1) && decide (w0 + 8 < w1)) = false := by simpa using c2
        simp only [c1', c2', ha, Bool.false_eq_true, if_false, List.take_nil]
        rw [show w1 - (a + bs.length) = 0 by omega]
        rfl
  obtain ⟨fl, h1, h2⟩ := writeWords_unarmed (d := d) g w0 (d.bytesAt w0 (a - w0) ++ bs ++ d.bytesAt (a + bs.length) (w1 - (a + bs.length))) hb0 hu
  refine ⟨_, hall, ?_⟩
  rw [h1]
  have wordOf : ∀ y, w0 ≤ y → y < w1 → Memory.byte d.mem y = some ((Memory.byte d.mem y).getD 0) := by
    intro y hy1 hy2
    have hcw := hw ((y - w0) / 8) (by omega)
    have := cleanWord_byte hcw (show (y - w0) % 8 < 8 by omega)
    rw [show w0 + 8 * ((y - w0) / 8) + (y - w0) % 8 = y by omega, bytesAt_getElem? _ _ _ _ (by omega),
      show w0 + 8 * ((y - w0) / 8) + (y - w0) % 8 = y by omega] at this
    exact this
  refine ⟨fun x => ?_, rfl, fun x => ?_⟩
  · have := byteMerge d w0 (d.bytesAt w0 (a - w0)) (d.bytesAt (a + bs.length) (w1 - (a + bs.length))) bs x
      (fun i hi => by
        have hi' : i < a - w0 := by simpa using hi
        rw [bytesAt_getElem? _ _ _ _ hi']; exact wordOf _ (by omega) (by omega))
      (fun i hi => by
        have hi' : i < w1 - (a + bs.length) := by simpa using hi
        rw [bytesAt_length, show w0 + (a - w0) + bs.length + i = a + bs.length + i by omega, bytesAt_getElem? _ _ _ _ hi']
        exact wordOf _ (by omega) (by omega))
    rw [bytesAt_length, show w0 + (a - w0) = a by omega] at this
    exact this
  · show Tab.get _ fl x = _
    rw [h2]
    have hl : (d.bytesAt w0 (a - w0) ++ bs ++ d.bytesAt (a + bs.length) (w1 - (a + bs.length))).length / 8 = (w1 - w0) / 8 := by
      simp; omega
    rw [hl]
    have : (∃ i, i < (w1 - w0) / 8 ∧ x = w0 + 8 * i) ↔ (alignDown 8 a ≤ x ∧ x < a + bs.length ∧ x % 8 = 0) := by
      rw [hw0]
      constructor
      · rintro ⟨i, hi, rfl⟩; omega
      · rintro ⟨p, q, r⟩; exact ⟨(x - w0) / 8, by omega, by omega⟩
    simp only [this]

end Sys2Proof.Machine
end

