-- ==== Sys2Proof/Laws/Issue.lean ====
section
/-!
SUPPORT. What issuing a bundle does, once for every instruction: a bundle that fetches runs, and one that meets no trap and no
stall advances the pc and takes the effects of its slots.
-/
namespace Sys2Proof.Machine

@[simp] theorem draw_ctx (d : Dev) (t : Nat) (k : HCtx) : d.draw.ctx t k = d.ctx t k := rfl
@[simp] theorem draw_tile (d : Dev) (t : Nat) : d.draw.tile t = d.tile t := rfl

/-- A bundle that issues and fetches runs. -/
theorem issue_eq {d : Dev} {t : Nat} {k : HCtx} {a b : Slot} {ic : Nat} (hi : d.canIssue t k = some ic)
    (hf : d.fetches t k a b = true) : d.issue t k a b = d.runBundle ic t k a b := by
  simp only [Dev.fetches, Bool.and_eq_true, decide_eq_true_eq] at hf
  obtain ⟨⟨⟨h1, h2⟩, h3⟩, h4⟩ := hf
  simp [Dev.issue, hi, h1, read_clean k.val h2, h3, h4]

theorem issueBundle_eq {d : Dev} {op : TileOp} {i : Issue} {ic : Nat} (h : d.issues op i ic = true) :
    issueBundle op i d = d.runBundle ic i.tile.val i.ctx (slotsOf op i).1 (slotsOf op i).2 := by
  simp only [Dev.issues, Bool.and_eq_true, decide_eq_true_eq] at h
  exact issue_eq h.1 h.2

/-- The slot that holds `nop`. -/
abbrev nopSlot : Slot := { op := .nop, word := 0 }

/-- The run of an instruction of a context, with the operands its fields name as registers. -/
def runOf (d : Dev) (ic t : Nat) (k : HCtx) (s : Slot) (ix : Nat) : Run :=
  { ic := ic, t := t, k := k, c := d.ctx t k, a := (rOperands (d.ctx t k) s.op s.word []).1
    b := (rOperands (d.ctx t k) s.op s.word []).2, ix := ix }

theorem nop_not_illegal (c : Ctx) (inB : Bool) : illegal c .nop 0 inB = false := by
  cases inB <;> simp [illegal, spells, slotOk, clsOf, modOk, hopOk, isRForm, groupOk]

theorem nop_off (r : Run) : r.off .nop 0 = false := by simp [Run.off]

theorem nop_early (d : Dev) (r : Run) (inB : Bool) : earlyTrap d r .nop 0 inB = none := by
  simp only [earlyTrap, nop_not_illegal, nop_off, privTrap, alignTrap, boundTrap, accesses, Bool.false_eq_true, if_false,
    List.find?_nil, List.filter_nil, List.map_nil, Option.map_none, Option.or_none]

theorem hopReads_nop : hopReads .nop 0 = [] := by simp [hopReads, isRForm, clsOf]

theorem nop_late (r : Run) : lateTrap r .nop 0 = none := by simp only [lateTrap, nop_off, Bool.false_eq_true, if_false]
theorem nop_access (d : Dev) (r : Run) : d.accessB r .nop 0 = { dev := d, data := [], scale := 0, trap := none } := by
  unfold Dev.accessB
  rw [if_neg (by rw [nop_off]; exact Bool.false_ne_true)]
theorem nop_stalls (d : Dev) (r : Run) : d.stallsB r .nop 0 = false := by simp only [Dev.stallsB, nop_off, Bool.and_false]

theorem nop_stallsA (d : Dev) (r : Run) : d.stallsA r .nop 0 = false := by
  simp only [Dev.stallsA, nop_off, reduceCtorEq, or_self, decide_false, Bool.and_false, Bool.false_and]

/-- An instruction that is none of `sync.*` finds no want of credit, and one of them none where the tile has credit (R234). -/
theorem stallsA_credit {d : Dev} {r : Run} {op : TileOp} {w : Word}
    (h : op ≠ .syncSig ∧ op ≠ .syncWait ∧ op ≠ .syncArm ∨ d.syncCredit r.t = true) : d.stallsA r op w = false := by
  rcases h with ⟨h1, h2, h3⟩ | h
  · simp [Dev.stallsA, h1, h2, h3]
  · simp [Dev.stallsA, h]

/-- A bundle that names no hopper consumes nothing. -/
theorem bundleHops_none (tl : Tile) (ra rb : Run) {a b : Slot} (ha : hopReads a.op a.word = []) (hb : hopReads b.op b.word = []) :
    bundleHops tl ra rb a b = ({ vals := [], hop := tl.hop, freed := [], empty := none }, 0) := by
  simp [bundleHops, ha, hb, takeHops]

/-- A bundle whose slot A meets no trap and no stall, beside `nop`: the pc advances and slot A takes effect. -/
theorem runBundle_A {d : Dev} {ic t : Nat} {k : HCtx} {a : Slot} (hh : hopReads a.op a.word = [])
    (he : earlyTrap d.draw.draw (runOf d ic t k a d.freeIx) a.op a.word false = none)
    (hl : lateTrap (runOf d ic t k a d.freeIx) a.op a.word = none)
    (hs : d.draw.draw.stallsA (runOf d ic t k a d.freeIx) a.op a.word = false) :
    d.runBundle ic t k a nopSlot = (d.advance t k).effectA (runOf d ic t k a d.freeIx) a.op a.word := by
  have hb : bundleIllegal (d.ctx t k) a nopSlot = false := by simp [bundleIllegal, dests, holdsAfter]
  have hn : hopReads nopSlot.op nopSlot.word = [] := hopReads_nop
  simp only [runOf] at he hl hs
  simp only [Dev.runBundle, bundleHops_none _ _ _ hh hn, withHops, hb, List.drop_nil, Bool.false_eq_true, if_false, he, nop_early,
    worstTrap, hopEmptyTrap, Option.map_none, nop_access, nop_stalls, hs, hl, nop_late, nop_off, reduceCtorEq, false_and]
  simp [Dev.takeEffect, Dev.effectB, runOf, Dev.advance]

theorem effectA_of_B (d : Dev) (r : Run) : d.effectA r .nop 0 = d := by simp [Dev.effectA]

/-- A bundle whose slot B meets no trap and no stall, beside `nop`, and is no memory-engine operation: the pc advances and slot B
takes effect. -/
theorem runBundle_B {d : Dev} {ic t : Nat} {k : HCtx} {b : Slot} (hh : hopReads b.op b.word = [])
    (hm : b.op ≠ .memFill ∧ b.op ≠ .memCopy ∧ b.op ≠ .hopRsend)
    (he : earlyTrap d.draw.draw (runOf d ic t k b (d.freeIx + 1)) b.op b.word true = none)
    (hl : lateTrap (runOf d ic t k b (d.freeIx + 1)) b.op b.word = none)
    (ha : (d.draw.draw.accessB (runOf d ic t k b (d.freeIx + 1)) b.op b.word).trap = none)
    (hs : (d.draw.draw.accessB (runOf d ic t k b (d.freeIx + 1)) b.op b.word).dev.stallsB (runOf d ic t k b (d.freeIx + 1)) b.op b.word =
      false) :
    d.runBundle ic t k nopSlot b =
      ((d.draw.draw.accessB (runOf d ic t k b (d.freeIx + 1)) b.op b.word).dev.setCtx t k
          { (d.draw.draw.accessB (runOf d ic t k b (d.freeIx + 1)) b.op b.word).dev.ctx t k with pc := (d.ctx t k).pc + 8 }).effectB
        (runOf d ic t k b (d.freeIx + 1)) b.op b.word (d.draw.draw.accessB (runOf d ic t k b (d.freeIx + 1)) b.op b.word) nopSlot := by
  have hb : bundleIllegal (d.ctx t k) nopSlot b = false := by simp [bundleIllegal, dests]
  have hn : hopReads nopSlot.op nopSlot.word = [] := hopReads_nop
  simp only [runOf] at he hl ha hs
  simp only [Dev.runBundle, bundleHops_none _ _ _ hn hh, withHops, hb, List.drop_nil, Bool.false_eq_true, if_false, he, nop_early,
    worstTrap, hopEmptyTrap, Option.map_none, ha, hl, nop_late, hm.2.2, false_and, hs, nop_stallsA]
  have hx : ∀ (d : Dev) (r : Run), d.effectA r nopSlot.op nopSlot.word = d := effectA_of_B
  simp only [Dev.takeEffect, hx, runOf, hm.1, hm.2.1, or_self, decide_false, Bool.and_false, Bool.false_eq_true, if_false, if_true]


/-! ### An instruction that issues alone -/

/-- Each instruction's command issues the bundle that holds it. -/
theorem exec_tileInstr (op : TileOp) (i : Issue) (s : State) : exec (tileInstr op i) s = .next (onDev (issueBundle op i) s) := by
  cases op <;> first | rfl | (rename_i f; cases f <;> rfl)

theorem slotOk_of_legal {c : Ctx} {op : TileOp} {w : Word} {b : Bool} (h : illegal c op w b = false) : slotOk op b = true := by
  simp only [illegal, Bool.or_eq_false_iff, Bool.not_eq_false'] at h
  exact h.1.1.1.1.2

theorem alone_mate {i : Issue} (h : issueAlone i = true) : i.mate = nopSlot := of_decide_eq_true h

/-- The slots of an instruction that issues alone in slot A. -/
theorem slots_A {op : TileOp} {i : Issue} (hA : i.inB = false) (h : issueAlone i = true) :
    slotsOf op i = ({ op := op, word := i.word }, nopSlot) := by simp [slotsOf, hA, alone_mate h]

/-- The slots of an instruction that issues alone in slot B. -/
theorem slots_B {op : TileOp} {i : Issue} (hB : i.inB = true) (h : issueAlone i = true) :
    slotsOf op i = (nopSlot, { op := op, word := i.word }) := by simp [slotsOf, hB, alone_mate h]

/-- An instruction of slot A that issues alone and meets no trap and no stall moves the pc on and takes effect. -/
theorem issueA {d : Dev} {op : TileOp} {i : Issue} {ic : Nat} (hi : d.issues op i ic = true) (ha : issueAlone i = true)
    (hA : i.inB = false) (hh : hopReads op i.word = [])
    (he : earlyTrap d.draw.draw (runOf d ic i.tile.val i.ctx { op := op, word := i.word } d.freeIx) op i.word false = none)
    (hl : lateTrap (runOf d ic i.tile.val i.ctx { op := op, word := i.word } d.freeIx) op i.word = none)
    (hs : d.draw.draw.stallsA (runOf d ic i.tile.val i.ctx { op := op, word := i.word } d.freeIx) op i.word = false) :
    issueBundle op i d = (d.advance i.tile.val i.ctx).effectA
      (runOf d ic i.tile.val i.ctx { op := op, word := i.word } d.freeIx) op i.word := by
  have hb := issueBundle_eq hi
  rw [slots_A hA ha] at hb
  rw [hb]
  exact runBundle_A hh he hl hs

/-- An instruction of slot B that issues alone, meets no trap and no stall and touches no memory moves the pc on and takes
effect. -/
theorem issueB {d : Dev} {op : TileOp} {i : Issue} {ic : Nat} (hi : d.issues op i ic = true) (ha : issueAlone i = true)
    (hB : i.inB = true) (hh : hopReads op i.word = []) (hm : op ≠ .memFill ∧ op ≠ .memCopy ∧ op ≠ .hopRsend)
    (he : earlyTrap d.draw.draw (runOf d ic i.tile.val i.ctx { op := op, word := i.word } (d.freeIx + 1)) op i.word true = none)
    (hl : lateTrap (runOf d ic i.tile.val i.ctx { op := op, word := i.word } (d.freeIx + 1)) op i.word = none)
    (hx : d.draw.draw.accessB (runOf d ic i.tile.val i.ctx { op := op, word := i.word } (d.freeIx + 1)) op i.word =
      { dev := d.draw.draw, data := [], scale := 0, trap := none })
    (hs : d.draw.draw.stallsB (runOf d ic i.tile.val i.ctx { op := op, word := i.word } (d.freeIx + 1)) op i.word = false) :
    issueBundle op i d = (d.advance i.tile.val i.ctx).effectB
      (runOf d ic i.tile.val i.ctx { op := op, word := i.word } (d.freeIx + 1)) op i.word
      { dev := d.draw.draw, data := [], scale := 0, trap := none } nopSlot := by
  have hb := issueBundle_eq hi
  rw [slots_B hB ha] at hb
  rw [hb]
  have := runBundle_B (d := d) (ic := ic) (t := i.tile.val) (k := i.ctx) (b := { op := op, word := i.word }) hh hm he hl
    (by rw [hx]) (by rw [hx]; exact hs)
  rw [this, hx]
  rfl

/-- The context of a tile in which a context has been stored. -/
theorem onlyCtx_advance (s : State) (t : Nat) (k : HCtx) (c : Ctx) :
    OnlyCtx s (onDev (fun d => (d.advance t k).setCtx t k c) s) t k c := by
  refine ⟨rfl, rfl, rfl, ?_, ?_⟩
  · simp [onDev, Dev.advance, Dev.setCtx, Dev.tile, Dev.setTile, Dev.draw]
  · intro j hj
    simp [onDev, Dev.advance, Dev.setCtx, Dev.tile, Dev.setTile, Dev.draw, Tab.get_set, hj]

end Sys2Proof.Machine
end

