-- ==== Sys2Proof/Tests/Slice0.lean ====
section
/-!
SUPPORT. Small tests. `test_wf_…`: an ill-formed command per check is refused. `witness_…`: the hypotheses of the statement of that
name can hold together, with each clause's at or next to the ends of its range. The other tests are single steps whose results are
the manual's.
-/
namespace Sys2Proof.Tests
open Sys2Proof Sys2Proof.Machine
set_option Elab.async false

/-! ### Small states -/

/-- An image that runs on physical mill 0. -/
def runImg : ImageCtx := { ImageCtx.reset with state := .running, nmills := 1, mills := [0], locked := true }

/-- A device that is up, with that image in context 0 and its tile map set. -/
def up : Dev := { Dev.reset with stage := .ready, imgs := [(0, runImg)], regs := [(Reg.RACE_MAPc_w, 0xFFFFFF00)] }

/-- A state with nothing waiting. -/
def onDevice (d : Dev) : State := { State.reset with dev := d }

/-- A hardware context that runs with a bound, and s1, s2, s3. -/
def regs3 (bound : BitVec 23) (x y z : Word) : Ctx :=
  { Ctx.reset with run := .run, bound := bound, s := ((Ctx.reset.s.set 1 x).set 2 y).set 3 z }

/-- A tile of which context `k` is `c`. -/
def tileOf (k : HCtx) (c : Ctx) : Tile := { Tile.reset with ctx := Tile.reset.ctx.set k c }

/-- The word with an OPC, fields 1, 2, 3 and low byte `lo`. -/
def word3 (o lo : Nat) : Word := BitVec.ofNat 32 (o * 2 ^ 26 + 2 ^ 18 + 2 * 2 ^ 13 + 3 * 2 ^ 8 + lo)

/-- A bundle at the start of tile 0's memory that holds `w` and a nop. -/
def bundle (w : Word) (inB : Bool) : Memory :=
  Memory.setBytes [] (tileAddr 0 0) (if inB then bytesOf 4 0 ++ bytesOf 4 w.toNat else bytesOf 4 w.toNat ++ bytesOf 4 0)

/-- Tile 0 is `t`, and its memory begins with the bundle of `w`. -/
def tileState (t : Tile) (w : Word) (inB : Bool) : State := onDevice { up with tiles := [(0, t)], mem := bundle w inB }

/-- The issue of `w` by context `k` of tile 0. -/
def alone (k : HCtx) (w : Word) (inB : Bool) : Issue := { tile := 0, ctx := k, word := w, inB := inB, mate := { op := .nop, word := 0 } }

/-- The word is taken in tile `t` by context `k`. -/
def taken (t : Tile) (k : HCtx) (op : TileOp) (w : Word) (inB : Bool) : Bool := (tileState t w inB).dev.takes op (alone k w inB) 0

/-! ### Tile -/

theorem witness_ScalarRegisterResult :
    ([AluOp.add, .sub, .and, .or, .xor, .shl, .shr, .sra, .mul, .min, .max].all fun f =>
      taken (tileOf 1 (regs3 8 0 7 9)) 1 (.alu f) (word3 0 0) false && (hopReads (.alu f) (word3 0 0)).isEmpty) = true := by decide +kernel

theorem witness_ScalarImmediateResult :
    taken (tileOf 1 (regs3 8 0 7 0)) 1 (.aluImm .add) (word3 8 0) false = true ∧
    taken (tileOf 1 (regs3 8 0 7 0)) 1 (.cmp .lt) (word3 15 0) false = true := by decide +kernel

theorem witness_BranchResult :
    taken (tileOf 1 (regs3 8 0 0 0)) 1 .br (word3 0x10 0) false = true ∧
    taken (tileOf 1 (regs3 8 0 0 0)) 1 .call (word3 0x11 0) false = true ∧
    taken (tileOf 1 (regs3 8 0 16 0)) 1 .jr (word3 0x12 0) false = true ∧ hopA (word3 0x12 0) = false ∧
    ((regs3 8 0 16 0).sreg 2).toNat % 8 = 0 ∧ ((regs3 8 0 17 0).sreg 2).toNat % 8 = 1 := by decide +kernel

/-- Tile 0 with one entry, or none, in hopper 2. -/
def hopTile (e : List HopEntry) : Tile :=
  { tileOf 1 (regs3 8 0 0 0) with hop := Tile.reset.hop.set 2 { entries := e, closed := false } }

theorem witness_HopperOperandResult :
    (hopReads (.alu .add) (word3 0 128)).isEmpty = false ∧ hopA (word3 0 128) = true ∧ hopB (word3 0 128) = false ∧
    ([[], [{ data := 5, half := false, remote := none, src := 1 }], [{ data := 5, half := true, remote := some 3, src := 1 }]].all fun e =>
      taken (hopTile e) 1 (.alu .add) (word3 0 128) false) = true ∧ f2 (word3 0 128) = 2 := by decide +kernel

/-- The whole of the first 64 bytes of tile 0 written: the bundle, and zeros. -/
def full64 (t : Tile) (w : Word) (inB : Bool) : State :=
  onDevice { up with tiles := [(0, t)], mem := Memory.setBytes (bundle w inB) (tileAddr 0 8) (List.replicate 56 0) }

theorem witness_LoadStoreResult :
    ([MemSize.b1, .b2, .b4].all fun n => taken (tileOf 1 (regs3 8 0 (BitVec.ofNat 32 (8 - sizeOf' n)) 0)) 1 (.load n) (word3 0x14 0 &&& 0xFFFFE000) true &&
      (tileState (tileOf 1 (regs3 8 0 4 0)) (word3 0x14 0 &&& 0xFFFFE000) true).dev.clean (tileAddr 0 4) 4 &&
      taken (tileOf 1 (regs3 8 0 (BitVec.ofNat 32 (8 - sizeOf' n)) 0)) 1 (.store n) (word3 0x17 0 &&& 0xFFFFE000) true) = true ∧
    mAddr (regs3 8 0 4 0) (word3 0x14 0 &&& 0xFFFFE000) 4 + 4 = (regs3 8 0 4 0).bound.toNat ∧
    mAddr (regs3 8 0 8 0) (word3 0x14 0 &&& 0xFFFFE000) 4 + 4 > (regs3 8 0 8 0).bound.toNat ∧
    mAddr (regs3 8 0 3 0) (word3 0x14 0 &&& 0xFFFFE000) 4 % 4 ≠ 0 := by decide +kernel

theorem witness_LoadStoreResult_vector :
    ([(TileOp.vld, 0x20), (.vst, 0x21)].all fun x =>
      (full64 (tileOf 1 (regs3 64 0 0 0)) (word3 x.2 0 &&& 0xFFFFE000) true).dev.takes x.1 (alone 1 (word3 x.2 0 &&& 0xFFFFE000) true) 0) = true ∧
    (full64 (tileOf 1 (regs3 64 0 0 0)) (word3 0x20 0 &&& 0xFFFFE000) true).dev.clean (tileAddr 0 0) 64 = true ∧
    (full64 (tileOf 1 (regs3 64 0 0 0)) (word3 0x20 0 &&& 0xFFFFE000) true).dev.unarmed := by
  refine ⟨?_, ?_, ?_⟩
  · decide +kernel
  · decide +kernel
  · unfold Dev.unarmed; decide +kernel

/-- The memory engine of tile 0 runs `o` for context 1, which holds. -/
def engTile (o : MemOp) : Tile :=
  { tileOf 1 { regs3 8 0 0 0 with hold := some (.mem { op := .nop, word := 0 }) } with memEng := some o }

theorem witness_MemoryEngine :
    taken (tileOf 1 (regs3 16 8 8 1)) 1 .memFill (word3 0x2C 0) true = true ∧
    taken (tileOf 1 (regs3 16 8 0 1)) 1 .memFill (word3 0x2C 0) true = true ∧
    taken (tileOf 1 (regs3 16 8 0 8)) 1 .memCopy (word3 0x2C 16) true = true ∧
    (let o : MemOp := { ctx := 1, word := 0, copy := true, dst := 8, src := 0, len := 8, pattern := 0 }
     let s := tileState (engTile o) 0 false
     (s.dev.tile 0).memEng = some o ∧ (s.dev.ctx 0 1).hold = some (.mem { op := .nop, word := 0 }) ∧ (s.dev.ctx 0 1).run = .run ∧
      s.dev.tileCtx 0 = some 0 ∧ (s.dev.img 0).wait ≠ .saving ∧ ctxAddr 0 (s.dev.ctx 0 1) 0 % 8 = 0 ∧ s.dev.clean (ctxAddr 0 (s.dev.ctx 0 1) 0) 8 = true) := by decide +kernel

theorem witness_VectorResult :
    ([(TileOp.varith .add .f32, 0x18), (.varith .fma .e4m3, 0x1F), (.vcmp .lt .i8, 0x18), (.vmove .mov, 0x19), (.vmove .ext, 0x19),
      (.vmove .ins, 0x19), (.vbcast, 0x1A), (.vred, 0x1B), (.sfu .exp, 0x25), (.sfu .recip, 0x25)].all fun x =>
      taken (tileOf 1 (regs3 8 0 0 0)) 1 x.1 (word3 x.2 0) true && (hopReads x.1 (word3 x.2 0)).isEmpty) = true := by decide +kernel

theorem witness_ConversionResult :
    (let c : Ctx := { regs3 64 0 0 0 with cvtSptr := 63, cvtCfg := 3 }
     let t := tileOf 1 c
     let w := word3 0x24 0 &&& 0xFF83FFF0
     (full64 t w true).dev.takes .cvtSt (alone 1 w true) 0 = true ∧ cvtBytes c.cvtCfg ≤ c.bound.toNat ∧
     (full64 t w true).dev.clean (tileAddr 0 0) (cvtBytes c.cvtCfg) = true ∧ (full64 t w true).dev.clean (tileAddr 0 63) 1 = true ∧
     (full64 t (w + 16) true).dev.takes .cvtLd (alone 1 (w + 16) true) 0 = true ∧
     taken t 1 .cvtBf (w + 32) true = true ∧ taken t 1 .cvtF32 (w + 48) true = true) := by decide +kernel

/-- Tile 0 with context 1 `c`, and sync counter 5 mapped at virtual IDs 0 and 9 of context 0. -/
def syncState (o : SyncObj) (c : Ctx) (w : Word) : State :=
  onDevice { up with
    tiles := [(0, tileOf 1 c)], mem := bundle w false, objs := [(5, o)]
    regs := [(Reg.RACE_MAPc_w, 0xFFFFFF00), (Reg.SYNC_XLATc_v, 0x80000005), (Reg.SYNC_XLATc_v + 36, 0x80000005)] }

/-- An object of context 0 in a state. -/
def objIn (x : ObjState) (sigs : Nat) (shared : Bool) : SyncObj :=
  { SyncObj.free with state := x, sigs := sigs, arrs := 1, shared := shared, millHi := 215, phase := 0xFFFF }

theorem witness_SyncInstructions :
    ([0, 16, 32].all fun lo => let op := if lo = 0 then TileOp.syncSig else if lo = 16 then .syncWait else .syncPoll
      (syncState (objIn .idle 1 false) (regs3 8 9 4 0) (word3 0x28 lo)).dev.takes op (alone 1 (word3 0x28 lo) false) 0) = true ∧
    (syncState (objIn .broken 1 true) (regs3 8 9 0 0) (word3 0x28 48)).dev.takes .syncArm (alone 1 (word3 0x28 48) false) 0 = true ∧
    (syncState (objIn .idle 1 false) (regs3 8 9 4 0) 0).dev.signalStatus 0 0 9 = (sOk, 5) ∧
    (syncState (objIn .idle 0 false) (regs3 8 9 4 0) 0).dev.signalStatus 0 0 9 = (sParam, 5) ∧
    (syncState (objIn .idle 1 false) (regs3 8 9 4 0) 0).dev.signalStatus 0 0 4096 = (sParam, 0) ∧
    (syncState (objIn .idle 1 false) (regs3 8 0 0 0) 0).dev.arriveStatus 0 0 0 = (sOk, 5) ∧
    (syncState (objIn .idle 1 false) (regs3 8 0 0 0) 0).dev.queuesQuiet 0 = true ∧
    (syncState (objIn .idle 1 false) (regs3 8 0 0 0) 0).dev.arriveStatus 0 0 1 = (sParam, 0) ∧
    (syncState (objIn .broken 1 true) (regs3 8 9 0 0) 0).dev.armStatus 0 9 = (sOk, 5) ∧
    (syncState (objIn .idle 1 true) (regs3 8 9 0 0) 0).dev.armStatus 0 9 = (sParam, 5) := by decide +kernel

theorem witness_SyncInstructions_held :
    (let s := syncState (objIn .idle 1 false) (regs3 8 0 0 0) (word3 0x28 16)
     let d := { s.dev with sluice := [(3, { SQueue.reset with descs := [{ num := 0, w := [], base := 0, bound := 0, entry := none }] })] }
     d.takes .syncWait (alone 1 (word3 0x28 16) false) 0 = true ∧ d.arriveStatus 0 0 0 = (sOk, 5) ∧ d.queuesQuiet 0 = false) := by decide +kernel

/-- A channel to logical tile 1 of its own context. -/
def chan1 (ring : Bool) (st : ChanState) (credit size : Nat) : Channel :=
  { ring := ring, remote := false, num := 0, dtile := 1, dfa := 0, state := st, credit := credit, size := size, wr := 0, freed := 0, seq := 0,
    msgs := 0, stalls := 0, drop := 0 }

/-- A ring with one record of 16 bytes. -/
def ring1 : Ring :=
  { size := 256, base := 0x100, ctrl := 0x80, wr := 16, freed := 0, closed := false, records := [(16, true)], remote := none
    src := 1, part := 0, payload := 0 }

/-- Tile 0 with channel 4, ring 0 and hopper 3. -/
def portTile (c : Ctx) (x : Channel) (h : Hopper) : Tile :=
  { tileOf 1 c with chans := [(4, x)], hop := Tile.reset.hop.set 3 h, rings := [(0, ring1)] }

theorem witness_HopperInstructions :
    (let open_ : Hopper := { entries := [], closed := false }
     let shut : Hopper := { entries := [], closed := true }
     let sends := fun (x : Channel) =>
       taken (portTile (regs3 8 4 1 2) x open_) 1 .hopSend (word3 0x29 0) true &&
       decide ((tileState (portTile (regs3 8 4 1 2) x open_) 0 false).dev.channel 0 0 4 false = some x)
     sends (chan1 false .opened 1 0) = true ∧ sends (chan1 false .opened 0 0) = true ∧ sends (chan1 false .closed 0 0) = true ∧
     taken (portTile (regs3 8 4 1 2) (chan1 false .opened 1 0) open_) 1 .hopStat (word3 0x29 16) true = true ∧
     (let t := portTile (regs3 8 4 0 8) (chan1 true .opened 0 256) open_
      taken t 1 .hopRsend (word3 0x29 32) true = true ∧ (tileState t 0 false).dev.channel 0 0 4 true = some (chan1 true .opened 0 256) ∧
      ringLenOk (chan1 true .opened 0 256) 8 = true ∧ recordSize 8 ≤ chanTail (chan1 true .opened 0 256) ∧
      recordSize 8 ≤ chanFree (chan1 true .opened 0 256) ∧ (tileState t (word3 0x29 32) true).dev.clean (tileAddr 0 0) 8 = true) ∧
     taken (portTile (regs3 8 0 16 0) (chan1 true .opened 0 256) open_) 1 .hopRfree (word3 0x29 48) true = true ∧
     taken (portTile (regs3 8 0 0 0) (chan1 true .opened 0 256) open_) 1 .hopClose (word3 0x29 67) true = true ∧
     taken (portTile (regs3 8 0 0 0) (chan1 true .opened 0 256) shut) 1 .hopClose (word3 0x29 67) true = true ∧
     taken (portTile (regs3 8 0 0 0) (chan1 true .opened 0 256) shut) 1 .hopClose (word3 0x29 72) true = true) := by decide +kernel

/-- A command of the mill's queue. -/
def cmdNo (n : Nat) : MillCmd :=
  { num := n, kind := .smode, tile := 0, ctx := 1, slot := 0, w0 := 0, w1 := 0, w2 := 0, tid := 0, wnum := 0 }

/-- Context 1 of tile 0 is about to issue `w`, and mill 0 is `m`. -/
def millState (m : Mill) (c : Ctx) (w : Word) : State :=
  onDevice { up with tiles := [(0, tileOf 1 c)], mem := bundle w true, mills := [(0, m)] }

theorem witness_MillQueueInstructions :
    (let takes := fun m op w => (millState m (regs3 8 2 0 0) w).dev.takes op (alone 1 w true) 0 = true
     takes Mill.reset .millMma (word3 0x2A 0) ∧ takes Mill.reset .millDrain (word3 0x2A 16) ∧ takes Mill.reset .millSmode (word3 0x2A 32) ∧
     checkSmode { cmdNo 1 with w0 := 2 } = none ∧ Mill.reset.fault = none ∧
     takes { Mill.reset with fault := some (7, sUe) } .millDrain (word3 0x2A 16) ∧
     takes { Mill.reset with queue := (List.range 32).map cmdNo } .millSmode (word3 0x2A 32) ∧
     takes Mill.reset .millQstat (word3 0x2A 48) ∧
     takes Mill.reset .millFence (word3 0x2A 64) ∧ (millState Mill.reset (regs3 8 0 0 0) 0).dev.millQuiet 0 1 = true ∧
     takes { Mill.reset with queue := [cmdNo 1], next := 2 } .millFence (word3 0x2A 64) ∧
     (millState { Mill.reset with queue := [cmdNo 1], next := 2 } (regs3 8 0 0 0) 0).dev.millQuiet 0 2 = false ∧
     (millState Mill.reset { regs3 8 0 0 0 with hold := some (.fence 3 1) } 0).dev.millQuiet 0 1 = true) := by decide +kernel

theorem witness_MillQueueInstructions_checks :
    (let d : Dev := { up with tiles := (List.range 8).map fun t => (t, tileOf 1 (regs3 0x600000 0 0 0)) }
     d.checkPass 0 { cmdNo 1 with kind := .pass, w0 := 0x882, w1 := 0x80 } = none ∧
     d.checkPass 0 { cmdNo 1 with kind := .pass, w0 := 0x882, w1 := 0x4000 } = none ∧
     d.checkDrain 0 { cmdNo 1 with kind := .drain, w0 := 0x80, w1 := 0x10000000 } = none ∧
     d.checkDrain 0 { cmdNo 1 with kind := .drain, w0 := 0xFF, w1 := 0x10000000 } = none) := by decide +kernel

/-- A queue of tile 0 with descriptors. -/
def sluiceState (q : SQueue) (c : Ctx) (w : Word) : State :=
  onDevice { up with
    tiles := [(0, tileOf 1 c)], mem := Memory.setBytes (bundle w true) (tileAddr 0 64) ((List.range 16).flatMap fun i =>
      bytesOf 4 (if i = 0 then 0x00110008 else if i = 1 then 8 else if i = 6 then 1 else 0)), sluice := [(3, q)]
    regs := [(Reg.RACE_MAPc_w, 0xFFFFFF00), (Reg.SLC_VLIMc_LO, 0x10000)] }

/-- A descriptor that is held. -/
def held1 : SDesc := { num := 0, w := [], base := 0, bound := 0, entry := none }

theorem witness_SluiceInstructions :
    (let takes := fun q x y op lo => (sluiceState q (regs3 128 x y 0) (word3 0x2B lo)).dev.takes op (alone 1 (word3 0x2B lo) true) 0 = true
     takes SQueue.reset 3 64 .slcIssue 0 ∧ (sluiceState SQueue.reset (regs3 128 3 64 0) 0).dev.clean (tileAddr 0 64) 64 = true ∧
     takes SQueue.reset 4 64 .slcIssue 0 ∧ takes SQueue.reset 4 1 .slcLim 48 ∧ takes SQueue.reset 4 1 .slcWait 32 ∧
     SQueue.reset.code < 16 ∧ SQueue.reset.limit ≤ 64 ∧ takes SQueue.reset 4 0 .slcStat 16 ∧ takes SQueue.reset 3 0 .slcStat 16 ∧ takes SQueue.reset 3 1 .slcLim 48 ∧ takes SQueue.reset 3 64 .slcLim 48 ∧
     takes { SQueue.reset with descs := [held1] } 3 0 .slcWait 32 ∧ queueQuiet { SQueue.reset with descs := [held1] } = false ∧
     takes { SQueue.reset with halt := some sUe } 3 0 .slcWait 32 ∧ queueQuiet { SQueue.reset with halt := some sUe } = true) := by decide +kernel

theorem witness_SluiceInstructions_issue :
    (let s := sluiceState SQueue.reset (regs3 128 3 64 0) (word3 0x2B 0)
     descStatus (wordsOf 16 (s.dev.bytesAt (tileAddr 0 64) 64)) (s.dev.vlim 0) 128 = sOk) := by decide +kernel

/-- Context S of tile 0 is `s`, and worker 2 is `w`. -/
def supTile (s w : Ctx) : Tile := { tileOf 0 s with ctx := (Tile.reset.ctx.set 0 s).set 2 w }

theorem witness_SystemInstructions :
    (let idle : Ctx := { Ctx.reset with bound := 0x600000 }
     let t := supTile (regs3 8 2 16 0) idle
     taken (tileOf 0 (regs3 8 12 8 0)) 0 .sysCsrr (word3 0x2D 0) false = true ∧
     taken (tileOf 0 (regs3 8 12 8 0)) 0 .sysCsrw (word3 0x2D 16) false = true ∧
     (tileState (tileOf 0 (regs3 8 12 8 0)) 0 false).dev.csrTrap 0 0 12 true = none ∧ (tileDesc 0 12).isSome = true ∧
     tileRegBad 12 8 = false ∧ (tileDesc 0 12).map (fun r => setsReserved r 8) = some false ∧
     taken t 0 .sysStart (word3 0x2D 32) false = true ∧ idle.base.toNat + idle.bound.toNat ≤ 0x600000 ∧ (Fin.ofNat 4 2 : HCtx) = 2 ∧
     taken (supTile (regs3 8 3 0 0) { idle with run := .trapped }) 0 .sysResume (word3 0x2D 49) false = true ∧
     taken (supTile (regs3 8 1 0 0) idle) 0 .sysStop (word3 0x2D 64) false = true ∧
     taken (supTile (regs3 8 2 0 0) { idle with run := .run }) 0 .sysStop (word3 0x2D 64) false = true ∧
     taken (tileOf 3 (regs3 8 0 0 0)) 3 .sysExit (word3 0x2D 96) false = true ∧
     taken (tileOf 0 (regs3 8 0 0 0)) 0 .sysExit (word3 0x2D 96) false = true ∧
     taken (tileOf 0 (regs3 8 0 0 0)) 0 .sysHalt (word3 0x2D 112) false = true) := by decide +kernel

/-- S of tile 0 may take the trap of context 2. -/
def trapTile (s : Ctx) (pre : Option Wait) (inh : Bool) : Tile :=
  { tileOf 0 s with trapQ := if inh then [] else [2], inh := inh, trapVec := 64, pre := pre }

theorem witness_TrapEntryAndReturn :
    (let v : Wait := { id := 0, phys := 5, vid := 9, rc := 3, since := 0, reported := false, fired := none }
     taken (tileOf 1 (regs3 8 0 0 0)) 1 .sysBrk (word3 0x2D 128) false = true ∧
     (let t := trapTile { regs3 8 0 0 0 with run := .wait, wait := some v } none false
      (tileState t 0 false).dev.stage = .ready ∧ ((tileState t 0 false).dev.tileCtx 0).isSome = true ∧ t.trapQ = [2] ∧ t.trapVec ≠ 0) ∧
     taken (trapTile (regs3 8 0 0 0) none true) 0 .sysTret (word3 0x2D 80) false = true ∧
     taken (trapTile (regs3 8 0 0 0) (some v) true) 0 .sysTret (word3 0x2D 80) false = true ∧
     taken (trapTile (regs3 8 0 0 0) (some { v with fired := some sOk }) true) 0 .sysTret (word3 0x2D 80) false = true) := by decide +kernel

theorem witness_IssueWithoutEffect :
    taken (tileOf 1 (regs3 8 0 0 0)) 1 .nop 0 false = true ∧
    (let w := word3 8 0 ||| 0x00800000
     (tileState (tileOf 1 (regs3 8 0 0 0)) w false).dev.skips (.aluImm .add) (alone 1 w false) 0 = true) ∧
    (let w := word3 0x13 0
     (tileState (tileOf 1 (regs3 8 0 0 0)) w false).dev.issues .br (alone 1 w false) 0 = true ∧ illegal (regs3 8 0 0 0) .br w false = true) ∧
    (let a : Slot := { op := .syncSig, word := word3 0x28 0 }
     let s := tileState (tileOf 1 { regs3 8 0 0 0 with hold := some (.stall a { op := .nop, word := 0 } 0) }) a.word false
     (s.dev.endStall 0 1).canIssue 0 1 = some 0) := by decide +kernel

/-- More events of mill 0 on their way than the part can hold, whatever that is. -/
def crowded : List SyncEvt :=
  List.replicate (Config.syncQueue + 1) { kind := .signal, phys := 5, bytes := 0, tile := some 0, waiter := none, ictx := 0, vid := 0 }

theorem witness_SyncInstructions_credit :
    (∀ d : Dev, d.syncFly = [] → d.syncCredit 0 = true) ∧ (∀ d : Dev, d.syncFly = crowded → d.syncCredit 0 = false) ∧
    ([0, 16, 48].all fun lo => let op := if lo = 0 then TileOp.syncSig else if lo = 16 then .syncWait else .syncArm
      let s := syncState (objIn .idle 1 true) (regs3 8 9 4 0) (word3 0x28 lo)
      decide (s.dev.syncFly = []) && ({ s.dev with syncFly := crowded } : Dev).takes op (alone 1 (word3 0x28 lo) false) 0) = true := by
  refine ⟨fun d h => by simp [Dev.syncCredit, h], fun d h => by simp [Dev.syncCredit, h, crowded], by decide +kernel⟩

theorem witness_MillQueueInstructions_failures :
    (let full := { Mill.reset with fault := some (7, sUe), queue := (List.range 32).map cmdNo }
     (millState full (regs3 8 2 0 0) (word3 0x2A 16)).dev.takes .millDrain (alone 1 (word3 0x2A 16) true) 0 = true ∧
     full.fault.isSome = true ∧ 32 ≤ full.queue.length ∧ ({ full with queue := [] } : Mill).queue.length < 32 ∧
     (let m : Mill := { Mill.reset with next := 5, failed := [{ tile := 0, num := 3, status := sUe }, { tile := 0, num := 5, status := sParam }] }
      let d := (millState m (regs3 8 0 0 0) (word3 0x2A 64)).dev
      d.takes .millFence (alone 1 (word3 0x2A 64) true) 0 = true ∧ d.millQuiet 0 5 = true)) := by decide +kernel

theorem witness_IssueWithoutEffect_full :
    (let a : Slot := { op := .slcIssue, word := word3 0x2B 0 }
     let s := tileState (tileOf 1 { regs3 8 3 64 0 with hold := some (.full { op := .nop, word := 0 } a (some (List.replicate 16 0))) }) a.word true
     (s.dev.endStall 0 1).canIssue 0 1 = some 0) := by decide +kernel

/-! ### Skeop -/

/-- A request of the two-wire bus in session 3. -/
def req (bus : Bus) (session : Option Nat) : MgmtReq := { bus := bus, eid := 9, session := session, busy := false }

/-- Skeop with session 3 open, in a mode, with or without an owner. -/
def skeop (m : SkMode) (owner : Bool) (x : Session) : Skeop :=
  { Skeop.reset with mode := m, owner := if owner then some [1] else none, sessions := [x], svnRun := 5, fusedSvn := 2, negotiated := true }

/-- The owner's session, and another that is established. -/
def mine : Session := { id := 3, established := true, owner := true }
def other : Session := { id := 3, established := true, owner := false }

/-- A state that is up, with no context loaded. -/
def skState (k : Skeop) : State := { State.reset with sk := k, dev := { Dev.reset with stage := .ready } }

theorem serves_up (k : Skeop) (b : Bus) (n : Option Nat) (h : b ≠ .pcieVf) : Serves (skState k) (req b n) := ⟨rfl, h⟩

theorem owner_asks (m : SkMode) (b : Bus) (h : b ≠ .pcieVf) : OwnerAsks (skState (skeop m true mine)) (req b (some 3)) :=
  ⟨serves_up _ _ _ h, rfl, rfl⟩

theorem witness_SetOwnerOutcome :
    Serves (skState (skeop .startUp false other)) (req .twoWire (some 3)) ∧ (req .twoWire (some 3)).busy = false ∧
    (skeop .startUp false other).owner = none ∧ (skeop .startUp false other).inSession (req .twoWire (some 3)) = true ∧
    (skeop .test true mine).owner.isSome = true ∧ (skeop .test true mine).byOwner (req .twoWire (some 3)) = true ∧
    (skeop .operational false other).mode ≠ .startUp ∧ (skeop .operational false other).inSession (req .twoWire (some 3)) = true ∧
    (skeop .startUp true other).byOwner (req .twoWire (some 3)) = false ∧
    (skeop .startUp true other).inSession (req .twoWire (some 3)) = true := by
  refine ⟨serves_up _ _ _ (by decide), ?_⟩; decide

/-- Context 15 is loaded. -/
def loaded15 (k : Skeop) : State :=
  { skState k with dev := { Dev.reset with stage := .ready, imgs := [(15, { ImageCtx.reset with state := .loaded })] } }

theorem witness_SetModeOutcome :
    OwnerAsks (skState (skeop .startUp true mine)) (req .pcie (some 3)) ∧ OwnerAsks (skState (skeop .operational true mine)) (req .pcie (some 3)) ∧
    OwnerAsks (loaded15 (skeop .startUp true mine)) (req .pcie (some 3)) ∧
    (skState (skeop .startUp true mine)).dev.allEmpty = true ∧ (loaded15 (skeop .startUp true mine)).dev.allEmpty = false ∧
    OwnerAsks (skState (skeop .test true mine)) (req .pcie (some 3)) ∧ 3 ≠ (skeop .test true mine).mode.code := by
  refine ⟨owner_asks _ _ (by decide), owner_asks _ _ (by decide), ⟨⟨rfl, by decide⟩, rfl, rfl⟩, by decide, by decide,
    owner_asks _ _ (by decide), by decide⟩

theorem witness_CommitSvnOutcome :
    OwnerAsks (skState (skeop .recovery true mine)) (req .oob (some 3)) ∧ (skeop .recovery true mine).mode = .recovery ∧
    (skeop .recovery true mine).svnRun < 6 ∧ 2 ≤ (skeop .recovery true mine).fusedSvn ∧ (skeop .recovery true mine).fusedSvn < 3 ∧
    5 ≤ (skeop .recovery true mine).svnRun := by
  refine ⟨owner_asks _ _ (by decide), ?_⟩; decide

/-- Port 17 sends with slot 1. -/
def encState : State :=
  { skState (skeop .startUp true mine) with dev := { Dev.reset with
    stage := .ready, regs := [(portReg Reg.FLM_PORT_CTLn 17, 0x18000000)] } }

theorem witness_KeySlotWrites :
    OwnerAsks encState (req .pcie (some 3)) ∧ encState.sk.mode = .startUp ∧ encState.dev.sendSlot 17 = some 1 ∧
    encState.dev.sendSlot 17 ≠ some 0 ∧ encState.dev.sendSlot 0 ≠ some 1 := by
  refine ⟨⟨⟨rfl, by decide⟩, rfl, rfl⟩, ?_⟩; decide

/-- A nonce issued at cycle 0, seen at a cycle. -/
def nonceState (cycle : Nat) : State :=
  { skState { skeop .startUp true mine with nonce := some ([7], 0) } with dev := { Dev.reset with stage := .ready, cycle := cycle } }

/-- Whether a signature verifies is open (`Config.ecdsaVerify` has no body): of the two clauses about it one applies. -/
theorem witness_DebugUnlocking :
    OwnerAsks (nonceState 95999999999) (req .oob (some 3)) ∧ (nonceState 95999999999).nonceValid = some [7] ∧
    (nonceState 96000000000).nonceValid = none ∧ (nonceState 96000000000).sk.nonce = some ([7], 0) ∧
    (nonceState 0).sk.owner = some [1] ∧ (nonceState 0).dev.allEmpty = true ∧
    (∃ s, OwnerAsks s (req .oob (some 3)) ∧ s.nonceValid = some [7] ∧ s.sk.owner = some [1] ∧ s.dev.allEmpty = false) := by
  refine ⟨⟨⟨rfl, by decide⟩, rfl, rfl⟩, by decide, by decide, by decide, by decide, by decide,
    ⟨{ nonceState 0 with dev := (loaded15 Skeop.reset).dev }, ⟨⟨rfl, by decide⟩, rfl, rfl⟩, by decide, by decide, by decide⟩⟩

theorem witness_OwnerMaintenance :
    OwnerAsks (skState (skeop .recovery true mine)) (req .pcie (some 3)) ∧ (skeop .recovery true mine).mode = .recovery ∧
    (skeop .recovery true mine).mode ≠ .operational ∧ (skState (skeop .recovery true mine)).dev.lehr.dom50 = true := by
  refine ⟨owner_asks _ _ (by decide), ?_⟩; decide

/-- A partial message of the two-wire bus, with endpoint ID 8. -/
def partState : State := skState { skeop .startUp true other with eid := 8, partMsg := [1], partBus := 0 }

theorem witness_MctpEndpoint :
    Serves partState (req .twoWire none) ∧ (req .twoWire none).bus ≠ .oob ∧ Serves partState (req .oob none) ∧
    (List.replicate 64 (0 : Byte)).length ≤ partState.sk.unit ∧ (8 : Byte).toNat = partState.sk.eid ∧
    partState.sk.partBus = busCode (req .twoWire none).bus ∧ partState.sk.partMsg ≠ [] ∧
    partState.sk.unit < (List.replicate 65 (0 : Byte)).length := by
  refine ⟨⟨rfl, by decide⟩, by decide, ⟨rfl, by decide⟩, ?_⟩; decide

theorem witness_SpdmAnswers :
    Serves (skState (skeop .startUp false other)) (req .pcie none) ∧ (skeop .startUp false other).negotiated = true ∧
    Serves (skState Skeop.reset) (req .pcie none) ∧ Skeop.reset.negotiated = false := by
  refine ⟨serves_up _ _ _ (by decide), by decide, serves_up _ _ _ (by decide), by decide⟩

/-- Sessions 0 to `n - 1` open. -/
def openN (n : Nat) : Skeop :=
  { Skeop.reset with negotiated := true, sessions := (List.range n).map fun i => { id := i, established := false, owner := false } }

theorem witness_SpdmSessions :
    Serves (skState (openN 3)) (req .pcie (some 0)) ∧ (openN 3).negotiated = true ∧ (∀ x ∈ (openN 3).sessions, x.id ≠ 3) ∧
    (∀ m, m < 3 → ∃ x ∈ (openN 3).sessions, x.id = m) ∧ (∀ n, n < 4 → ∃ x ∈ (openN 4).sessions, x.id = n) ∧
    ((openN 3).sessionOf (req .pcie (some 0))).map (·.established) = some false ∧
    (skeop .startUp true other).inSession (req .pcie (some 3)) = true := by
  refine ⟨serves_up _ _ _ (by decide), ?_⟩; decide

theorem witness_PldmRequests :
    Serves (skState (skeop .startUp false other)) (req .oob (some 3)) ∧ (skeop .startUp false other).inSession (req .oob (some 3)) = true ∧
    Serves (skState Skeop.reset) (req .twoWire none) ∧ Skeop.reset.rom = false ∧ Skeop.reset.updating = false ∧
    (Skeop.reset.slotOf Skeop.reset.spare).invalid = false ∧ ({ Skeop.reset with updating := true } : Skeop).updating = true := by
  refine ⟨serves_up _ _ _ (by decide), rfl, serves_up _ _ _ (by decide), rfl, rfl, rfl, rfl⟩

/-- The recorder with one record, not yet copied, and a window copy due. -/
def evrState (cursor : Word) : State := onDevice { Dev.reset with
  stage := .ready, cycle := 1600000, regs := [(Reg.EVR_CURSOR, cursor)]
  evr := { Evr.reset with head := 2, sram := [{ seq := 0, words := List.replicate 8 0 }, { seq := 1, words := List.replicate 8 0 }], copying := true } }

theorem witness_RecorderSteps :
    (evrState 0).dev.skeopRuns = true ∧ (evrState 0).dev.evr.erasing = false ∧
    (evrState 0).dev.evr.sram.find? (fun r => r.seq = (evrState 0).dev.evr.norNext) = some { seq := 0, words := List.replicate 8 0 } ∧
    (evrState 0).dev.evr.nor.length < 65536 ∧ (evrState 0).dev.evr.copying = true ∧
    (evrState 0).dev.evr.record 0 = some (List.replicate 8 0) ∧ (evrState 2).dev.evr.record 2 = none ∧
    (evrState 0).dev.lehr.dom50 = true ∧ (evrState 0).dev.evr.ms ≠ (evrState 0).dev.opMs ∧
    ((evrState 0).dev.evr.norNext + 1) % 2 ^ 32 ≠ (evrState 0).dev.evr.head := by decide +kernel

/-- An export with `n` ledger records to send. -/
def exportState (n lost : Nat) : State :=
  let x : Export := {
    collector := [], port := 1, ledger := true, events := false, minSev := 0, nextLedger := 0, nextEvent := 0, seq := 0, lost := lost }
  { State.reset with
    sk := { Skeop.reset with telemetry := some x }, dev := { Dev.reset with stage := .ready, ledgerCount := n } }

theorem witness_ExportSteps :
    (exportState 1 0).sk.telemetry.isSome = true ∧ (exportState 1 0).dev.skeopRuns = true ∧
    (exportState 4096 1).sk.telemetry.map (fun x => ((exportState 4096 1).dev.ledgerCount - x.nextLedger, x.lost)) = some (4096, 1) ∧
    (exportState 1 0).sk.telemetry.map (fun x => (x.nextLedger, x.lost)) = some (0, 0) := by decide +kernel

/-! ### Power -/

/-- The device with its supplies up. -/
def powered (f : Dev → Dev) : State := onDevice (f { Dev.reset with stage := .ready })

theorem witness_ComparatorResponses :
    (let d := (powered id).dev
     d.lehr.dom50 = true ∧ d.lehr.main = true ∧ (∀ n : Fin 6, d.isActive n = false) ∧ d.regFld Reg.LEHR_TJ_CFG 0 8 ≤ 150 ∧
     d.regFld Reg.LEHR_TJ_CFG 8 8 ≤ 150 ∧ d.regFld Reg.LEHR_COOL_CFG 0 8 ≤ 90 ∧ d.regFld Reg.LEHR_COOL_CFG 8 8 ≤ 90) := by decide +kernel

/-- The 50 V domain is unpowered. -/
def offState (latched : Bool) : State :=
  onDevice { Dev.reset with stage := .off, lehr := { Lehr.reset with dom50 := false, main := false, latched := latched } }

theorem witness_SuppliesAndTrip :
    (powered id).dev.lehr.dom50 = true ∧ (powered id).dev.lehr.buffer = [] ∧
    (offState false).dev.lehr.dom50 = false ∧ (offState false).dev.lehr.latched = false ∧ (offState true).dev.lehr.latched = true ∧
    (offState false).dev.evr.sram = [] ∧ (offState false).dev.lehr.bufLost = 0 ∧
    (let l := { (offState false).dev.lehr with aux := false }
     l.aux = false ∧ l.main = false) ∧ (offState false).dev.lehr.aux = true := by decide +kernel

theorem witness_InputResponses :
    (let l := Lehr.reset
     l.main = true ∧ l.siteAlert = false ∧ l.refclk = true ∧ l.crystal = true ∧ (powered id).dev.skeopRuns = true ∧
     (onDevice { Dev.reset with stage := .waitRefclk }).dev.stage = .waitRefclk ∧
     (∀ b : Fin 7, (powered fun d => { d with lehr := { l with active := 0x7F, refclk := false, siteAlert := true } }).dev.isActive b = true) ∧
     0 < (powered id).dev.regFld Reg.LEHR_TJ_CFG 0 8 ∧ (∀ n : Fin 4, ∀ h ∈ l.held, h.1 ≠ n.val) ∧
     (let x := (powered fun d => { d with cycle := 16000000000, lehr := { l with held := [(0, 0)], crystal := false } }).dev
      (0, 0) ∈ x.lehr.held ∧ 16000000000 ≤ x.cycle - 0 ∧ x.lehr.crystal = false)) := by decide +kernel

/-- Mill 215 of context 0, idle since cycle 0, at a cycle, with its clock `k`. -/
def clkState (cycle : Nat) (k : MillClk) : State := onDevice { Dev.reset with
  stage := .ready, cycle := cycle, imgs := [(0, { runImg with mills := [215] })]
  gov := { Gov.reset with mills := [(215, k)], pllIdle := [(7, 0)] }
  tiles := [(1720, tileOf 3 { Ctx.reset with run := .wait, wait := some { id := 0, phys := 0, vid := 0, rc := 0, since := 0, reported := false, fired := none } })] }

theorem witness_MillClocks :
    (let k : MillClk := { MillClk.reset with gate := .g0, idleSince := some 0, level := 3, target := 3 }
     let d := (clkState 3200 k).dev
     d.runningOn 215 = some 0 ∧ (d.clk 215).lend = false ∧ d.idleFor 215 = 3200 ∧ d.waitsFor 215 3200 = true ∧ (clkState 3199 k).dev.idleFor 215 = 3199 ∧
     (d.clk 215).gate = .g0 ∧ 256 ≤ d.millCycles 215 (d.idleFor 215) ∧ (clkState 1 k).dev.millCycles 215 1 < 256 ∧
     d.millIdle 215 = true ∧ ({ d with imgs := [] } : Dev).runningOn 215 = none ∧ (clkState 16000000 k).dev.gov.pllIdle.find? (fun e => e.1 = 7) = some (7, 0) ∧
     ((clkState 0 { k with target := 4 }).dev.clk 215).level < ((clkState 0 { k with target := 4 }).dev.clk 215).target ∧
     ((clkState 0 { k with target := 2 }).dev.clk 215).target < ((clkState 0 { k with target := 2 }).dev.clk 215).level) := by decide +kernel

theorem witness_MillClocks_restart :
    (let k : MillClk := { MillClk.reset with gate := .g1, wake := some 0 }
     let d := (clkState 3200 k).dev
     (d.dueSince 215).isSome = true ∧ (∀ q, q < 215 → d.dueSince q = none) ∧ (d.gov.window ≠ d.window ∨ d.gov.started < 24) ∧
     (let e : Dev := { d with gov := { d.gov with window := d.window, started := 24 } }
      e.gov.window = e.window ∧ 24 ≤ e.gov.started ∧ (e.dueSince 215).isSome = true)) := by decide +kernel

theorem witness_GovernorTick :
    (let d := (powered id).dev
     d.lehr.dom50 = true ∧ d.granted = 0 ∧ d.isActive 2 = false ∧ d.regFld Reg.GOV_CTL 0 12 < 0xFFFF ∧
     (offState false).dev.lehr.dom50 = false) := by decide +kernel

/-- A park is under way, with one running context. -/
def parkState (cycle : Nat) (p : Park) : State := onDevice { up with
  cycle := cycle, park := p, regs := [(Reg.LEHR_ALERT_CTL, 0x20000064)], lehr := { Lehr.reset with refclk := true } }

theorem witness_ParkSequence :
    (let p : Park := { Park.reset with stage := .parking, causes := 1 }
     let d := (parkState 160000000 p).dev
     d.park.stage = .parking ∧ (d.img 0).state = .running ∧ 0 ∉ d.park.atPoint ∧ (d.img 0).due = none ∧
     d.regFld Reg.LEHR_ALERT_CTL 0 16 = 100 ∧ cyclesOfMs 100 ≤ d.cycle - d.park.since ∧ d.stage = .ready ∧ d.allParked = false ∧
     (let e : Dev := { d with imgs := [], park := { p with begun := true } }
      e.allParked = true ∧ e.park.begun = true ∧ e.moduleQuiet = true) ∧
     (let e : Dev := { d with imgs := [], park := { p with stage := .parked, causes := 16 } }
      bit (e.reg Reg.LEHR_ALERT_CTL) 29 = true ∧ e.park.stage = .parked) ∧
     (let e : Dev := { d with park := { p with stage := .unparking } }
      e.stage = .ready ∧ e.park.stage = .unparking ∧ e.park.atPoint = [])) := by decide +kernel

theorem witness_StartUpSequence :
    (∀ h ∈ Lehr.reset.held, h.1 ≠ 2) ∧ (powered id).dev.stage = .ready ∧ State.reset.dev.stage = .inReset ∧
    State.reset.dev.lehr.refclk = true ∧
    (let d : Dev := { Dev.reset with
      stage := .waitRefclk, cycle := 160000000, lehr := { Lehr.reset with refclk := false, holdSince := some 0 } }
     d.lehr.holdSince = some 0 ∧ 160000000 ≤ d.cycle - 0 ∧ d.lehr.refclk = false) ∧
    (let k : Skeop := { Skeop.reset with slotA := { image := [], invalid := true }, slotB := { image := [], invalid := true } }
     k.slotFault (k.slotOf 0) ≠ none ∧ k.slotFault (k.slotOf 1) ≠ none) ∧
    (onDevice { Dev.reset with stage := .off }).dev.isActive 0 = false := by decide +kernel

theorem witness_RecorderSteps_clear :
    (let r := fun (n : Nat) => ({ seq := n, words := List.replicate 8 0 } : EvRec)
     let e : Evr := { Evr.reset with head := 2, cycleHead := 1, ms := Dev.reset.opMs, sram := [r 0, r 1] }
     let d : Dev := { Dev.reset with stage := .ready, evr := e }
     d.evr.ms = d.opMs ∧ d.lehr.dom50 = true ∧ (skeop .startUp true mine).mode ≠ .operational ∧
     (d.evr.sram.filter d.evr.thisCycle).length = 1) := by decide +kernel

/-- A comparator's command that waits beside the one that runs. -/
def withWaiting (i : Instr) : State := { powered id with pending := [i] }

theorem witness_ComparatorResponses_precedence :
    ((powered id).powerGoes = false ∧ (powered id).parkGoes = false ∧ (withWaiting (.thermalTrip 0 150)).powerGoes = true ∧
     (withWaiting (.dieTempPark 0 (some 150))).parkGoes = true ∧ (withWaiting (.dieTempPark 0 (some 150))).powerGoes = false ∧
     (powered id).dev.regFld Reg.LEHR_TJ_CFG 0 8 ≤ (powered id).dev.regFld Reg.LEHR_TJ_CFG 8 8) := by decide +kernel

theorem witness_SuppliesAndTrip_latch :
    (let off := fun (cycle : Nat) (main : Bool) => onDevice { Dev.reset with
       stage := .off, cycle := cycle, lehr := { Lehr.reset with dom50 := false, main := main, latched := true, lostAt := 0 } }
     (off 1600000000 false).dev.lehr.main = false ∧ 1600000000 ≤ (off 1600000000 false).dev.cycle - (off 1600000000 false).dev.lehr.lostAt ∧
     (off 1599999999 false).dev.cycle - (off 1599999999 false).dev.lehr.lostAt < 1600000000 ∧ (off 0 true).dev.lehr.main = true ∧
     (off 0 true).dev.lehr.latched = true ∧ (off 0 true).dev.lehr.dom50 = false) := by decide +kernel

theorem witness_InputResponses_precedence :
    (let s := withWaiting (.thermalTrip 0 150)
     s.powerGoes = true ∧ s.dev.lehr.siteAlert = false ∧ s.dev.lehr.refclk = true ∧ s.dev.skeopRuns = true) := by decide +kernel

theorem witness_RegisterReads_tile :
    (let d := fun (c : Ctx) => { up with tiles := [(0, tileOf 1 c)] }
     (d (regs3 8 0 0 0)).regsUp (.tile 0 1) = true ∧ ((d (regs3 8 0 0 0)).csrTrap 0 1 0x24 false).isSome = true ∧
     ((d (regs3 8 0 0 0)).ctx 0 1).run = .run ∧ ((d Ctx.reset).ctx 0 1).run ≠ .run ∧ ((d Ctx.reset).csrTrap 0 1 0x24 false).isSome = true ∧
     ([0, 1, 2, 3].any fun k => (List.range 64).any fun n => decide ((d (regs3 8 0 0 0)).csrTrap 0 k (4 * n) false = none) &&
       (tileDesc 0 (4 * n)).isSome) = true ∧
     (up.csrTrap 0 0 12 true = none ∧ (tileDesc 0 12).isSome = true ∧ tileRegBad 12 8 = false ∧
       (tileDesc 0 12).map (fun r => (setsReserved r 8, isErrInfo r)) = some (false, false)) ∧
     ((d (regs3 8 0 0 0)).csrTrap 0 1 12 true).isSome = true) := by decide +kernel

/-! ### Registers -/

/-- The hypotheses that `single` of RegisterReads makes of an offset. -/
def plainReg (off : Nat) : Bool :=
  decide (off % 4 = 0) && decide (off ≠ Reg.EVR_WINDOWw + 28) &&
  match regFind off with
  | some (r, _) => decide (r.base ∉ loBases) && decide (r.base < 4 ∨ r.base - 4 ∉ loBases)
  | none => false

theorem witness_RegisterReads :
    (let d := (powered id).dev
     d.regsUp (.host 0) = true ∧ d.regsUp .skeop = true ∧ (onDevice Dev.reset).dev.regsUp (.host 0) = false ∧
     plainReg Reg.ECC_FENCE_TMO = true ∧ pageOf Reg.ECC_FENCE_TMO = none ∧
     (powered id).view Reg.ECC_FENCE_TMO = some 1000 ∧
     (regFind Reg.TWIN_NET_LO).isSome = true ∧ Reg.TWIN_NET_LO ∈ loBases ∧ (regFind (Reg.TWIN_NET_LO + 4)).isSome = true ∧
     pageOf Reg.TWIN_NET_LO = none ∧ pageOf (Reg.TWIN_NET_LO + 4) = none ∧ (powered id).view Reg.TWIN_NET_LO = some 0 ∧
     (powered id).view (Reg.TWIN_NET_LO + 4) = some 0) := by decide +kernel

theorem witness_RegisterReads_functions :
    (let d := (powered fun d => { d with numVf := 16 }).dev
     d.regsUp (.host 16) = true ∧ plainReg (0x100000 + 0x20 + 15 * 0x1000) = true ∧ (onDevice d).view (0x100000 + 0x20 + 15 * 0x1000) = some 0x100000 ∧
     pageOf (hostReg Reg.HST_CMD_IDX 15) = some 15 ∧ d.owner 15 ≠ 0 ∧
     ({ d with imgs := [(0, runImg)] } : Dev).regsUp (.tile 0 1) = true ∧
     (({ d with imgs := [(0, runImg)] } : Dev).csrTrap 0 1 0x24 false).isSome = true) := by decide +kernel

theorem witness_RegisterAccessRefused :
    (powered id).dev.regsUp .skeop = true ∧ (Reg.ECC_FENCE_TMO + 3) % 4 ≠ 0 ∧ regFind Reg.ECC_FENCE_TMO ≠ none ∧
    (∀ c, pageOf Reg.ECC_FENCE_TMO ≠ some c) ∧ bit ((powered id).dev.reg (Reg.ECC_ERR_ADDR_LO + 8)) 31 = false ∧
    0x3F0FFC % 4 = 0 ∧ regFind 0x3F0FFC = none ∧ capHeader 0x3F0FFC = none ∧ pageOf 0x3F0FFC = none := by
  have h : pageOf Reg.ECC_FENCE_TMO = none := by decide +kernel
  refine ⟨by decide +kernel, by decide +kernel, by decide +kernel, fun c => ?_, ?_⟩
  · rw [h]; simp
  · decide +kernel

theorem witness_RegisterWriteStores :
    (powered id).dev.regsUp (.host 0) = true ∧
    ([Reg.SYNC_OBJ_SEL, Reg.SYNC_WDOGc + 60, Reg.SLC_FTMOc, Reg.UPD_SAT, Reg.FLM_DISCARD, Reg.TWIN_RJ_STEP, Reg.HST_CPL_LOST,
      Reg.ECC_HBM_CE, Reg.GOV_THROTTLE, Reg.SKP_DMA_RATE, Reg.RACE_PAD_OVR, Reg.ECC_ERR_ADDR_LO + 8, Reg.SYNC_XLATc_v + 0x4000 * 15].all fun o =>
      (regFind o).isSome && (capHeader o).isNone && (pageOf o).isNone && (tileOfOff o).isNone && decide (o % 4 = 0)) = true ∧
    (regFind Reg.SYNC_OBJ_SEL).map (fun x => (setsReserved x.1 0, setsReserved x.1 0xFFFFFFFF)) = some (false, true) ∧
    (regFind (Reg.ECC_ERR_ADDR_LO + 8)).map (fun x => isErrInfo x.1) = some true ∧
    (regFind (Reg.SYNC_XLATc_v + 0x4000 * 15)).map (fun x => (x.1.base, x.2)) = some (Reg.SYNC_XLATc_v, [15, 0]) ∧
    (onDevice up).dev.regsUp (.host 0) = true ∧ ((onDevice up).dev.img 0).locked = true ∧ ((onDevice up).dev.img 15).locked = false := by
  decide +kernel

theorem witness_SixtyFourBitWrites :
    (powered id).dev.regsUp .skeop = true ∧ (0xFFFFFFC0 : Word) &&& 0xFFFFFFC0 = 0xFFFFFFC0 ∧ (0xFFFF : Word) &&& 0xFFFF = 0xFFFF ∧
    ((powered id).dev.halvesAt Reg.TWIN_NET_LO).held = none ∧ ((powered id).dev.halvesAt Reg.TWIN_NET_LO).refused = none ∧
    bit ((powered id).dev.reg (hostReg Reg.HST_CMD_CFG 15)) 31 = false ∧ (powered id).dev.owner 15 = 0 ∧
    (let d := (powered fun d => { d with regs := [(hostReg Reg.HST_CMD_CFG 15, 0x80000004)] }).dev
     bit (d.reg (hostReg Reg.HST_CMD_CFG 15)) 31 = true ∧ d.regsUp .skeop = true) := by decide +kernel

/-- Context 15 belongs to function 16, whose rings hold sixteen entries; virtual ID 7 reaches counter 5. -/
def ringState (waiting : List (List Word)) : State := onDevice { Dev.reset with
  stage := .ready, numVf := 16, objs := [(5, { objIn .idle 1 false with ictx := 15, host := true })]
  imgs := [(15, { ImageCtx.reset with state := .loaded, waiting := waiting })]
  regs := [(Reg.SYNC_XLATc_v + 0x4000 * 15 + 28, 0x80000005)] }

theorem witness_DoorbellsAndRings :
    (let d := (ringState []).dev
     d.regsUp (.host 16) = true ∧ d.regsUp (.host 0) = true ∧ d.owner 15 = 16 ∧
     d.doorbellStatus 15 (putFld 7 12 2 0) 0 = (sOk, 5) ∧ d.doorbellStatus 15 (putFld 7 12 2 1) 0 = (sOk, 5) ∧
     (d.doorbellStatus 15 (putFld 7 12 2 2) 0).1 ≠ sOk ∧ (d.doorbellStatus 15 (putFld 7 12 2 0) 1).1 ≠ sOk ∧
     ringSize (d.reg (hostReg Reg.HST_CMD_CFG 15)) < 0xFFFF ∧ (0x80000004 : Word) &&& 0x3FFFFFF0 = 0 ∧ fld (0x80000004 : Word) 0 4 = 4 ∧
     bit (d.reg (hostReg Reg.HST_CMD_CFG 15)) 31 = false ∧ (0x8000000C : Word) &&& 0x3FFF00F0 = 0 ∧ fld (0x8000000C : Word) 0 4 = 12 ∧
     (d.img 15).waiting = [] ∧ ((ringState [[1]]).dev.img 15).waiting.length ≤ 16 ∧ bit (d.reg (hostReg Reg.HST_CPL_CFG 15)) 30 = false ∧
     (d.regFld (hostReg Reg.HST_CPL_IDX 15) 16 16 + 2 ^ 16 - 0) % 2 ^ 16 ≤ ringSize (d.reg (hostReg Reg.HST_CPL_CFG 15)) ∧
     ringSize (d.reg (hostReg Reg.HST_CPL_CFG 15)) < (d.regFld (hostReg Reg.HST_CPL_IDX 15) 16 16 + 2 ^ 16 - 1) % 2 ^ 16) := by decide +kernel

theorem witness_UpdateRegisterWrites :
    (let d := (powered fun d => { d with
        imgs := [(3, { ImageCtx.reset with state := .loaded })], regs := [(at1 Reg.UPD_CAP_SIZEc 0x100 3, 1)] }).dev
     d.regsUp (.host 0) = true ∧ fld (0x3F800000 : Word) 23 8 ≠ 255 ∧ fld (0x7F800000 : Word) 23 8 = 255 ∧
     (5 : Word) &&& 0x30FFFFE0 = 0 ∧ (d.img 3).state = .loaded ∧ d.rplState 3 ≠ 3 ∧ (d.rplRec 3 0).toNat = d.stepLow 3 ∧
     fld (d.rplRec 3 1) 16 16 = fld (d.img 3).imageId 0 16 ∧ bit (5 : Word) 3 = false ∧
     (d.rplRec 4 0).toNat = d.stepLow 4 ∧ (d.img 4).state = .empty ∧ bit (2 : Word) 0 = false ∧
     ({ d with regs := [(rplReg 3, 0xC0000000)] } : Dev).rplState 3 = 3 ∧ fld (0x80000001 : Word) 0 16 ≠ 0 ∧ fld (0x80000000 : Word) 0 16 = 0 ∧
     0 < (d.reg (at1 Reg.UPD_CAP_SIZEc 0x100 3)).toNat ∧
     (d.reg (at1 Reg.UPD_CAP_BASEc 0x100 3)).toNat * 65536 + 65536 ≤ d.hbmSize ∧ (d.img 3).allocs = [] ∧
     (∀ k : ICtx, (d.stepOf k).capRegion = none)) := by decide +kernel

theorem witness_ParkAndWindowWrites :
    (let d := (powered id).dev
     d.regsUp .skeop = true ∧ d.park.stage = .run ∧ (1 : Word) &&& 0x3FE0FFFE = 0 ∧ (2 : Word) &&& 0x3FE0FFFD = 0 ∧
     ({ d with cycle := 10 ^ 12 } : Dev).unparkAllowed = true ∧ (({ d with lehr := { d.lehr with refclk := false } } : Dev).unparkAllowed) = false ∧
     (({ d with park := { d.park with stage := .parking } } : Dev).regsUp .skeop) = true ∧
     bit (({ d with regs := [(Reg.EVR_CTL, 0x80000000)] } : Dev).reg Reg.EVR_CTL) 31 = true ∧
     bit (({ d with regs := [(Reg.EVR_STAT, 1)] } : Dev).reg Reg.EVR_STAT) 0 = true) := by decide +kernel

/-! ### Flume -/

/-- A device at Flume address 5 whose port `n` is UP in mode `mode`, with a context of JOB 7 on mill 0; `f` changes the port. -/
def flumeDev (n mode : Nat) (f : FPort → FPort) : Dev :=
  { up with
    regs := Tab.put (Tab.put (Tab.put (Tab.put up.regs Reg.FLM_FA 0x80000005) Reg.FLM_CTL 0xFFFF0001)
      (portReg Reg.FLM_PORT_CTLn n) (BitVec.ofNat 32 (mode * 2 ^ 30 + 1))) Reg.FLM_TIME_CTL (BitVec.ofNat 32 n)
    flume := { Flume.reset with ports := [(n, f { FPort.reset with state := .up, lanes := 8 })] }
    colls := [(0, { Coll.empty with job := 7, ranks := [[5, 6]] })] }

/-- A frame from device 6 under JOB 7. -/
def frame6 (kind lseq : Nat) (a0 a1 a2 : Word) (bs : List Byte) : Frame :=
  { cls := frameClass kind, kind := kind, ttl := 64, keyId := false, dfa := 5, sfa := 6, job := 7, lseq := lseq, flow := 0,
    arg0 := a0, arg1 := a1, arg2 := a2, payload := bs }

theorem witness_PortTraining :
    (let d := fun (n m : Nat) (x : PortState) => flumeDev n m fun q => { q with state := x }
     ((d 0 1 .train).port 0).state = .train ∧ ((d 31 1 .retrain).port 31).state = .retrain ∧ (d 0 1 .train).portMode 0 ≠ 2 ∧
     (d 16 2 .train).portMode 16 = 2 ∧ ((d 0 1 .down).port 0).state = .down ∧ (d 0 1 .hello).portMode 0 = 1 ∧
     ((d 0 1 .hello).port 0).state = .hello ∧ (d 0 1 .up).regsUp (.host 0) = true ∧ (0x40000001 : Word) &&& 0x07FF0000 = 0 ∧
     fld (0x40000001 : Word) 30 2 = 1 ∧ fld (0x40000001 : Word) 30 2 = (d 0 1 .up).portMode 0 ∧
     fld (0x80000000 : Word) 30 2 = 2 ∧ fld (0x80000000 : Word) 30 2 ≠ (d 16 1 .up).portMode 16 ∧ (0xFFFF : Word) &&& 0xC7FF0000 = 0 ∧
     (d 0 0 .down).portMode 0 = 0 ∧ (d 0 1 .up).regFld (portReg Reg.FLM_PORT_CTLn 0) 0 16 = 1 ∧
     (d 0 0 .up).regFld (portReg Reg.FLM_PORT_CTLn 0) 0 16 ≠ 0 ∧
     800000000 ≤ ({ d 0 1 .up with cycle := 800000000 } : Dev).cycle - ((d 0 1 .up).port 0).helloIn ∧
     (List.replicate 32 (0 : Byte)).length = 32) := by decide +kernel

theorem witness_LinkAndRouting :
    (let f := frame6 2 4095 0 0 0 [1]
     let d := flumeDev 0 1 fun q => { q with retry := [f], ackDue := 62, expect := 4095, waiting := [] }
     (d.port 0).state = .up ∧ d.portMode 0 = 1 ∧ (d.port 0).seqAt 4095 = some 0 ∧ (d.port 0).seqAt 0 = none ∧ (d.port 0).ackDue ≠ 0 ∧
     ((flumeDev 0 1 fun q => { q with nakSeq := 4095, nakCount := 7 }).port 0).nakCount + 1 = 8 ∧
     f.lseq = (d.port 0).expect ∧ (d.port 0).ackDue < 63 ∧ d.routeEn = true ∧ 2 ≤ f.kind ∧ badClass f = false ∧ ({ f with dfa := 7 } : Frame).dfa ≠ d.fa ∧
     1 < f.ttl ∧ ({ f with ttl := 1 } : Frame).ttl ≤ 1 ∧
     (let e := { flumeDev 0 1 (fun q => { q with waiting := [(f, 0, false)] }) with cycle := 1600 * 0xFFFF + 1 }
      (e.port 0).waiting[0]? = some (f, 0, false) ∧ e.regFld Reg.FLM_CTL 16 16 ≠ 0 ∧ 1600 * e.regFld Reg.FLM_CTL 16 16 < e.cycle - 0) ∧
     Dev.reset.regFld Reg.FLM_CTL 16 16 = 0 ∧ d.regsUp .skeop = true ∧ (0xFFFF0007 : Word) &&& 0xFFF8 = 0 ∧ bit (0xFFFF0007 : Word) 0 = true ∧
     bit (d.reg Reg.FLM_FA) 31 = true ∧
     (let st := ({ d with flume := { d.flume with staged := [(0, 1), (8191, 2)] } } : Dev).flume.staged
      (st.map (·.1)).Nodup ∧ ∀ e ∈ st, e.1 < 8192)) := by decide +kernel

theorem witness_FramesForTiles :
    (let d := flumeDev 0 1 id
     (d.port 0).state = .up ∧ d.portMode 0 = 1 ∧ (d.port 0).expect = 0 ∧ d.routeEn = true ∧ d.fa = 5 ∧ d.jobCtx 7 = some 0 ∧ d.jobCtx 8 = none ∧
     d.soloReplay 0 = false ∧ d.capturing 0 = false ∧ (d.img 0).state ≠ .preempted ∧ d.mapTile 0 7 = some 7 ∧ d.mapTile 0 8 = none ∧
     (([(2, (0 : Word), (0 : Word)), (2, 0x30000000, 0), (3, 0, 0x70000000), (4, 0, 0), (5, 0, 0), (7, 0, 0), (6, 0, 0x30000)].all fun x =>
        let f := frame6 x.1 0 (x.2.1 + 0x3800) x.2.2 0 [1]
        decide (f.lseq = (d.port 0).expect ∧ f.cls = frameClass f.kind ∧ f.dfa = d.fa ∧ f.sfa ≠ d.fa ∧ fld f.arg0 11 11 = 7)) = true) ∧
     fld (0x30003800 : Word) 27 3 = 6 ∧ fld (0x70000000 : Word) 28 4 < 8 ∧ fld (0x30000 : Word) 16 2 = 3 ∧
     (let p := { packet .data 0 0 7 with at_ := 7, remote := true }
      (d.inject p).arrived d.race.length = some p ∧ d.isFenced (7 / 8) = false) ∧
     (({ d with ecc := { d.ecc with fenced := [0] } } : Dev).isFenced (7 / 8) = true) ∧
     (({ d with imgs := [(0, { runImg with state := .preempted })] } : Dev).jobCtx 7 = some 0)) := by decide +kernel

theorem witness_TimeAndQueuePairs :
    (let d := flumeDev 0 1 id
     (d.port 0).state = .up ∧ d.timeMaster = false ∧ d.upPort = 0 ∧ (frame6 1 0 5 0 0 []).cls = 0 ∧ (d.port 0).ackDue < 63 ∧
     (let e := { d with flume := { d.flume with time := { GTime.reset with state := 1, good := 7 } } }
      e.flume.time.state = 1 ∧ 7 ≤ e.flume.time.good ∧ 16000000 ≤ ({ e with cycle := 16000000 } : Dev).cycle - e.flume.time.last) ∧
     (((1 : Word) - 0).toInt - ((0 : Word) - 0).toInt) / 2 = 0 ∧ ((((40 : Word) - 0).toInt - ((0 : Word) - 0).toInt) / 2).natAbs = 20 ∧
     d.lehr.ppsLast = none ∧ (∀ h ∈ d.lehr.held, h.1 ≠ 1) ∧ d.ppsEn = false ∧ d.lehr.ppsLost = false ∧
     (({ d with regs := [(Reg.FLM_TIME_CTL, 0xC0000000)] } : Dev).ppsEn = true) ∧
     3200000000 ≤ ({ d with cycle := 3200000000 } : Dev).cycle - d.lehr.opSince ∧
     (let l := { d.lehr with ppsLast := some 0 }
      ∃ t, l.ppsLast = some t ∧ 999900000 ≤ (1600000000 - t) * 5 / 8 ∧ (1600000000 - t) * 5 / 8 ≤ 1000100000)) ∧
    (let d := flumeDev 16 2 id
     d.ethUp 16 = true ∧ (flumeDev 0 1 id).ethUp 16 = false ∧
     (let e := { d with flume := { d.flume with qps := [(0, { QPair.reset with psn := 3, unacked := 1 })] } }
      let r := e.qpair 16 0
      let back := (r.psn + 2 ^ 24 - 2) % 2 ^ 24
      0 < back ∧ back ≤ (r.psn + 2 ^ 24 - r.unacked) % 2 ^ 24)) := by decide +kernel

/-! ### The Race -/

/-- Context S of tile 7 has the bound 1000H, and its sequencer is `q`; `mem` lies in its memory. -/
def raceDev (q : XSeq) (mem : List (Nat × List Byte)) : Dev :=
  { up with
    tiles := [(7, tileOf 0 { Ctx.reset with run := .wait, bound := 0x1000 })], seqs := [(7, q)]
    mem := mem.foldl (fun m x => Memory.setBytes m (tileAddr 7 x.1) x.2) [] }

/-- A sequencer with one entry of the words `w`. -/
def seqOf (stage : XStage) (w : List Word) (f : XEntry → XEntry) : XSeq := { XSeq.reset with stage := stage, entries := [f (XEntry.fresh w)] }

/-- RECV 255 of 8 bytes at FF0H, of 2 FFH; SEND of 264 bytes to tile 0; STREAM to queue 3; RNODE 4095 with one child, 256 bytes. -/
def recvW : List Word := [0x20FF0000, 0xFF0, 16, 8, 0, 0, 0, 0]
def sendW (remote : Bool) : List Word := [if remote then 0x110000FF else 0x10000000, 0, 0, 264, 6, 0, 0, 0]
def streamW : List Word := [0x60000003, 0, 0, 0, 0, 0, 0, 0]
def rnodeW (root : Bool) : List Word := [BitVec.ofNat 32 (0x40FFF210 + if root then 4 else 0), 256, 0, 0, 0, 0, 0, 0]
def passW (last : Bool) : List Word := [if last then 0x5801FF00 else 0x5001FF00, 0, 0, 0, 0, 0, 0, 0]

theorem witness_ExchangePhases_entries :
    (let s := raceDev (seqOf .opened (sendW false) fun e => { e with next := 1 }) [(256, List.replicate 8 1)]
     let r := raceDev (seqOf .opened (sendW true) id) [(0, List.replicate 256 1)]
     s.xchOf 7 = some 0 ∧ xKind (sendW false) = 1 ∧ xRemote (sendW false) = false ∧ sendLen (sendW false) ≤ 256 * 1 + 256 ∧
     s.mapTile 0 (sendDtile (sendW false)) = some 0 ∧ s.clean (tileAddr 7 256) 8 = true ∧ xRemote (sendW true) = true ∧
     ¬sendLen (sendW true) ≤ 256 * 0 + 256 ∧ r.clean (tileAddr 7 0) 256 = true) ∧
    (let d := raceDev (seqOf .opened streamW id) []
     let q := fun (n : Nat) (h : Option Nat) => ({ d with sluice := [(queueKey 7 3, { SQueue.reset with
       halt := h, descs := List.replicate n { num := 0, w := [], base := 0, bound := 0, entry := none } })] } : Dev).queue (queueKey 7 3)
     xKind streamW = 6 ∧ strQueue streamW = 3 ∧ (q 7 none).descs.length < 8 ∧ 8 ≤ (q 8 none).descs.length ∧ (q 0 (some sUe)).halt = some sUe) ∧
    (let f := fun (e : XEntry) => { e with credit := 1, inputs := [(0, 0, List.replicate 256 (0 : Byte))] }
     xKind (rnodeW false) = 4 ∧ rnLocal (rnodeW false) = false ∧ xRemote (rnodeW false) = false ∧ 256 * 0 < rnLen (rnodeW false) ∧
     rnRoot (rnodeW true) = true ∧ rnRoot (rnodeW false) = false ∧ rnIn (rnodeW false) = 1 ∧
     (f (XEntry.fresh (rnodeW false))).inputs.find? (fun x => decide (x.1 = 0 ∧ x.2.1 = 0)) = some (0, 0, List.replicate 256 (0 : Byte)) ∧
     (raceDev (seqOf .opened (rnodeW false) f) []).mapTile 0 (rnPtile (rnodeW false)) = some 0) ∧
    (let q := { seqOf .opened recvW (fun e => { e with count := 8 }) with pos := 1 }
     q.entries.length ≤ q.pos ∧ q.entries.all q.entryOver = true ∧ (seqOf .opened recvW id).entries.all (seqOf .opened recvW id).entryOver = false) := by
  decide +kernel

theorem witness_PacketMovement :
    (let d := fun (p : Packet) => { up with race := [p] }
     let p := fun (a b : Nat) => { packet .data 0 a b with at_ := a }
     (d (p 0 1727)).race[0]? = some (p 0 1727) ∧ (d (p 0 1727)).race[1]? = none ∧ (p 0 1727).at_ / 8 ≠ (p 0 1727).dst / 8 ∧
     (p 0 7).at_ / 8 = (p 0 7).dst / 8 ∧ (p 0 7).at_ ≠ (p 0 7).dst ∧ (d (p 1727 1727)).arrived 0 = some (p 1727 1727) ∧
     (d (p 0 7)).arrived 0 = none ∧ (d (p 1727 1727)).isFenced (1727 / 8) = false ∧
     ({ d (p 1727 1727) with ecc := { Ecc.reset with fenced := [215] } } : Dev).isFenced (1727 / 8) = true ∧
     ({ d (p 0 1727) with regs := [(Reg.RACE_EXCn, BitVec.ofNat 32 (2 ^ 31 + nextHop false 0 1727))] } : Dev).blocked (nextHop false 0 1727) = true ∧
     ((d (p 0 1727)).img 0).state = .running ∧ ((d (p 0 1727)).img 0).halted = false) := by decide +kernel

/-- A packet of context 0 at tile 7, from tile 0. -/
def at7 (kind : PktKind) (f : Packet → Packet) : Packet := f { packet kind 0 0 7 with at_ := 7, payload := List.replicate 8 1 }

theorem witness_PacketArrivals :
    (let d := fun (q : XSeq) (p : Packet) => { raceDev q [] with race := [p] }
     let q := seqOf .opened recvW id
     let p := at7 .data fun p => { p with id := 255, last := true }
     (d q p).arrived 0 = some p ∧ bit ((d q p).reg Reg.ECC_FLIP_SEL) 31 = false ∧ (d q p).portAct p = .accept 0 ∧ q.findId 2 255 = some 0 ∧ q.findId 2 0 = none ∧
     recvSize recvW = 16 ∧ recvExpect recvW = 8 ∧ p.offset + 8 ≤ 16 ∧ 16 < 9 + p.payload.length ∧ 0 + p.payload.length ≤ 8 ∧ 8 < 1 + p.payload.length ∧ p.tag ≠ 1 ∧
     (d XSeq.reset p).portAct p = .wait ∧ (d q { p with ictx := 1 }).portAct { p with ictx := 1 } = .discard ∧
     ({ d q p with imgs := [(0, { runImg with exited := [7] })] } : Dev).portAct p = .refuse 0 ∧
     (let x := { q with entries := q.entries ++ [XEntry.fresh (passW false)] }
      x.findId 5 1 = some 1 ∧ passRid (passW false) = 255 ∧ passEnd (passW false) = false ∧ passEnd (passW true) = true ∧
      (d x p).mapTile 0 (passNext (passW false)) = some 0 ∧
      (d x (at7 .pass fun p => { p with id := 1 })).portAct (at7 .pass fun p => { p with id := 1 }) = .accept 0) ∧
     (let x := seqOf .opened (rnodeW false) id
      let p := at7 .part fun p => { p with tag := 4095 }
      x.findTag 4095 = some 0 ∧ x.findTag 0 = none ∧ (d x p).childNo (rnodeW false) p = some 0 ∧ (d x p).portAct p = .accept 0 ∧
      256 * 0 < rnLen (rnodeW false) ∧ rnLen (rnodeW false) ≤ 256 * 1 ∧
      (d x (at7 .sig id)).tileCtx 7 = some 0 ∧ (d x p).isFenced 0 = false ∧ ((d x p).img 0).halted = false) ∧
     (let x := seqOf .opened (sendW false) id
      xKind (sendW false) = 1 ∧ x.entries[0]? = some (XEntry.fresh (sendW false)))) := by decide +kernel

theorem witness_PacketArrivals_queues :
    (let ch : Channel := { chan1 false .opened 0 0 with dtile := 0 }
     let t := fun (shut : Bool) => { Tile.reset with
       chans := [(4, ch)], hop := Tile.reset.hop.set 7 { entries := [], closed := shut }, rings := [(3, { ring1 with closed := shut })] }
     let d := fun (shut : Bool) (p : Packet) => { up with tiles := [(7, t shut)], race := [p] }
     let a := at7 .answer fun p => { p with answers := .hop, id := sClosed }
     (d false a).arrived 0 = some a ∧ Tab.find (t false).chans 4 = some ch ∧ ch.num = a.ref % 8 ∧ (d false a).mapTile 0 ch.dtile = some a.src ∧
     Tab.rising 0 (t false).chans = true ∧ (d false (at7 .hop id)).arrived 0 = some (at7 .hop id) ∧ (t true).hop[7].closed = true ∧
     (t false).hop[7].closed = false ∧ (at7 .hop fun p => { p with id := 7 }).id % 8 = 7 ∧
     ((Tab.find (t false).rings 3).map (·.closed)) = some false ∧ ((Tab.find (t true).rings 3).map (·.closed)) = some true ∧
     (at7 .ring fun p => { p with id := 3, last := true }).id % 4 = 3 ∧
     (d false (at7 .ring id)).arrived 0 = some (at7 .ring id)) := by decide +kernel

theorem witness_PortTraining_hello :
    (let d := fun (st : PortState) (cycle nbr : Nat) =>
       ({ flumeDev 0 1 (fun q => { q with state := st }) with cycle := cycle } : Dev).setReg (portReg Reg.FLM_NBR_INFOn 0) (BitVec.ofNat 32 nbr)
     ((d .hello 1600000 0).port 0).state = .hello ∧ 1600000 ≤ (d .hello 1600000 0).cycle - ((d .hello 1600000 0).port 0).helloOut ∧
     bit ((d .up 1600000 1).reg (portReg Reg.FLM_NBR_INFOn 0)) 0 = true ∧ (d .up 1600000 1).cycle - ((d .up 1600000 1).port 0).helloOut < 160000000 ∧
     160000000 ≤ (d .up 160000000 1).cycle - ((d .up 160000000 1).port 0).helloOut ∧
     (let f := frame6 0 0 0 0 0 (List.replicate 32 0)
      f.enc = (d .up 0 0).portEnc 0 ∧ f.cls = 0 ∧ ({ f with enc := true } : Frame).enc ≠ (d .up 0 0).portEnc 0)) := by decide +kernel

theorem witness_LinkAndRouting_owed :
    (let f := frame6 2 0 0 0 0 [1]
     let d := (flumeDev 0 1 fun q => { q with retry := [f], authSeq := [0] }).setReg Reg.FLM_CTL 0xFFFF0000
     (d.port 0).state = .up ∧ d.portMode 0 = 1 ∧ (d.port 0).seqAt 0 = some 0 ∧ d.routeEn = false ∧ (∃ x ∈ (d.port 0).retry.drop 0, 2 ≤ x.kind) ∧
     0 % 4096 ∈ (d.port 0).authSeq ∧ 4096 % 4096 ∈ (d.port 0).authSeq ∧ 4095 % 4096 ∉ (d.port 0).authSeq ∧
     ((flumeDev 0 1 fun q => { q with retry := [frame6 0 0 0 0 0 [], frame6 1 1 0 0 0 []] }).port 0).retry.all (fun x => decide (x.kind < 2)) = true ∧
     f.enc = d.portEnc 0 ∧ ({ f with enc := true } : Frame).enc ≠ d.portEnc 0 ∧
     (∀ n : Port, (d.port n).waiting = [] ∧ (d.port n).owed = false)) := by decide +kernel

theorem witness_TimeAndQueuePairs_times :
    (let d := flumeDev 0 1 fun q => { q with timeOut := 0 }
     (d.port 0).state = .up ∧ 1600000 ≤ ({ d with cycle := 1600000 } : Dev).cycle - (d.port 0).timeOut ∧
     ({ d with cycle := 1599999 } : Dev).cycle - (d.port 0).timeOut < 1600000 ∧ (frame6 1 0 5 0 0 []).enc = d.portEnc 0 ∧
     (let g : GTime := { GTime.reset with newMaster := true, state := 2 }
      let e := { d with flume := { d.flume with time := g }, regs := [(Reg.FLM_TIME_CTL, 0xC0000000)] }
      e.flume.time.newMaster = true ∧ e.ppsEn = true ∧ e.lehr.ppsLast = none ∧ (∀ h ∈ e.lehr.held, h.1 ≠ 1)) ∧
     (let r := ({ flumeDev 16 2 id with flume := { (flumeDev 16 2 id).flume with qps := [(0, { QPair.reset with psn := 3, unacked := 3 })] } } : Dev).qpair 16 0
      (r.psn + 2 ^ 24 - 3) % 2 ^ 24 ≤ (r.psn + 2 ^ 24 - r.unacked) % 2 ^ 24)) := by decide +kernel

/-- Race headers, for tile 7 from tile 0 of the other device, with what stands beside them. -/
def raceHeads : List (Nat × Word × Word) :=
  [(2, 0x40003800, 0xFF000000), (2, 0x70003800, 0), (3, 0x08003800, 0x20000004), (4, 0x10003800, 0x07000000), (5, 0x18003800, 0x03000000),
    (7, 0xA8003800, 0xFFF00000)]

theorem witness_FramesForTiles_arrivals :
    (let ch : Channel := { chan1 false .opened 0 0 with remote := true, dfa := 6, dtile := 0, num := 4 }
     let tl : Tile := { Tile.reset with
       chans := [(4, ch)], hop := Tile.reset.hop.set 7 { entries := [], closed := false }, rings := [(3, ring1)] }
     let dev := fun (w : List Word) => ({ flumeDev 0 1 id with tiles := [(7, tl)], seqs := [(7, seqOf .opened w id)] } : Dev)
     let d := dev recvW
     let fr := fun (x : Nat × Word × Word) => frame6 x.1 0 x.2.1 x.2.2 0 (List.replicate 8 1)
     (raceHeads.all fun x => let f := fr x
       let kind : PktKind := if f.kind = 2 then (if fld f.arg0 27 3 = 6 then PktKind.pass else .data) else if f.kind = 3 then .answer else if f.kind = 4 then .hop
         else if f.kind = 5 then .ring else .part
       decide (fld f.arg0 30 2 = kind.vc ∧ fld f.arg0 27 3 = kind.code ∧ d.mapTile 0 (fld f.arg0 11 11) = some 7 ∧ f.enc = d.portEnc 0)) = true ∧
     d.race = [] ∧ d.isFenced (7 / 8) = false ∧ (d.img 0).halted = false ∧ d.tileCtx 7 = some 0 ∧ bit (d.reg Reg.ECC_FLIP_SEL) 31 = false ∧
     (d.tile 7).hop[7].closed = false ∧ fld (0x07000000 : Word) 24 8 % 8 = 7 ∧
     Tab.find (d.tile 7).rings (fld (0x03000000 : Word) 24 8 % 4) = some ring1 ∧ ring1.closed = false ∧ bit (0 : Word) 22 = false ∧
     ¬((if ring1.part = 0 then leAt (List.replicate 8 (1 : Byte)) 0 2 / 2 ^ 15 % 2 = 1 else ring1.payload = 0) ∧ 0 + 8 = ring1.size) ∧
     (let f := fr (2, 0x40003800, 0xFF000000)
      (d.inject (framePacket .data 0 7 f)).portAct (framePacket .data 0 7 f) = .accept 0 ∧ (d.seq 7).findId 2 (fld f.arg1 24 8) = some 0 ∧
      (d.seq 7).entries[0]? = some (XEntry.fresh recvW) ∧ fld f.arg1 0 23 + f.payload.length ≤ recvSize recvW ∧ 0 + f.payload.length ≤ recvExpect recvW) ∧
     (let f := fr (7, 0xA8003800, 0xFFF00000)
      let e := dev (rnodeW false)
      let pkt := framePacket .part 0 7 f
      (e.inject pkt).portAct pkt = .accept 0 ∧ (e.seq 7).findTag (fld f.arg1 20 12) = some 0 ∧ e.childNo (rnodeW false) pkt = some 0 ∧
      256 * fld f.arg1 0 20 < rnLen (rnodeW false)) ∧
     (let f := fr (3, 0x08003800, 0x20000004)
      fld f.arg1 28 4 = 2 ∧ Tab.rising 0 (d.tile 7).chans = true ∧ Tab.find (d.tile 7).chans 4 = some ch ∧ ch.num = fld f.arg1 0 23 % 8 ∧ ch.dfa = f.sfa ∧
      ch.dtile = fld f.arg0 0 11) ∧
     fld (0x3800 : Word) 30 2 ≠ PktKind.data.vc ∧
     (let w : List Word := [0x41FFF000, 0, 0, 0, 0, 0, 0, 0x00060000]
      let f := frame6 6 0 0x3800 0x30FFF 5 []
      (dev w).creditTile 0 f = some 7)) := by decide +kernel

/-- The 64 bytes of tile 7's XCB at FC0H: PROG, the count, and zeros. -/
def xcb64 (prog n : Nat) : Nat × List Byte := (0xFC0, bytesOf 4 prog ++ bytesOf 4 n ++ List.replicate 56 0)

/-- The setup of tile 7 with `n` entries at `prog`. -/
def setupDev (prog n : Nat) (mem : List (Nat × List Byte)) : Dev := raceDev { XSeq.reset with stage := .setup } (xcb64 prog n :: mem)

theorem witness_ExchangePhases :
    (let es := fun (a : List (List Word)) => (a.flatMap fun w => w).flatMap fun w => bytesOf 4 w.toNat
     let prog := fun (a : List (List Word)) => setupDev 0xE0 a.length [(0xE0, es a)]
     ([[recvW], [recvW, sendW true], [rnodeW true, recvW]].all fun a => let d := prog a
       let ws := (List.range a.length).map fun i => wordsOf 8 (d.bytesAt (ctxAddr 7 (d.ctx 7 0) 0xE0 + 32 * i) 32)
       d.clean (d.xcbAddr 7) 64 && decide (leAt (d.bytesAt (d.xcbAddr 7) 64) 4 2 = a.length) && d.clean (ctxAddr 7 (d.ctx 7 0) 0xE0) (32 * a.length) &&
         decide (ws = a)) = true ∧
     ([(0, 4097), (0, 4096), (32, 4096), (33, 4096), (0, 0)].all fun x =>
       let d := setupDev x.1 x.2 []
       d.clean (d.xcbAddr 7) 64 && decide (leAt (d.bytesAt (d.xcbAddr 7) 64) 4 2 = x.2)) = true ∧
     (prog [recvW]).entryStatus 0 0x1000 [recvW] 0 recvW = sOk ∧ xKind recvW = 2 ∧ (prog [recvW]).xchOf 7 = some 0 ∧
     ((prog [recvW]).seq 7).stage = .setup ∧ (raceDev { XSeq.reset with stage := .due } []).xchOf 7 = some 0 ∧
     bit ((prog [recvW]).reg Reg.ECC_FLIP_SEL) 31 = false ∧ inBound ((prog [recvW]).ctx 7 0).bound.toNat 0xE0 32 = true ∧
     inBound ((prog [recvW]).ctx 7 0).bound.toNat 0xFE0 64 = false) := by decide +kernel

/-- Tile 7's setup with one STREAM entry, whose descriptor stands at 0. -/
def streamDev : Dev :=
  { setupDev 0xE0 1 [(0xE0, streamW.flatMap fun w => bytesOf 4 w.toNat), (0, (List.range 16).flatMap fun i =>
      bytesOf 4 (if i = 0 then 0x00110008 else if i = 1 then 8 else if i = 6 then 1 else 0))] with
    regs := Tab.put up.regs Reg.SLC_VLIMc_LO 0x10000 }

theorem witness_ExchangePhases_stream :
    streamDev.entryStatus 0 (streamDev.ctx 7 0).bound.toNat [streamW] 0 streamW = sOk ∧ xKind streamW = 6 ∧
    ∃ sw, streamDev.checkDesc 7 0 (queueKey 7 (strQueue streamW)) (strDesc streamW) = (streamDev, sOk, sw) := by
  refine ⟨by decide +kernel, by decide +kernel, ?_⟩
  have h1 : streamDev.clean (ctxAddr 7 (streamDev.ctx 7 0) (strDesc streamW)) 64 = true := by decide +kernel
  have h2 : (streamDev.queue (queueKey 7 (strQueue streamW))).halt = none := by decide +kernel
  have h3 : strDesc streamW % 64 = 0 := by decide +kernel
  have h4 : inBound (streamDev.ctx 7 0).bound.toNat (strDesc streamW) 64 = true := by decide +kernel
  have h5 : descStatus (wordsOf 16 (streamDev.bytesAt (ctxAddr 7 (streamDev.ctx 7 0) (strDesc streamW)) 64))
      (streamDev.vlim ((streamDev.tileCtx 7).getD 0)) (streamDev.ctx 7 0).bound.toNat = sOk := by decide +kernel
  unfold Dev.checkDesc
  simp [h2, h3, h4, read_clean 7 h1, h5]

theorem witness_ExchangePhases_kinds :
    (let redW : List Word := [0x30FFF000, 0x100, 0, 0, 0, 0, 0, 0]
     let loc : List Word := (rnodeW true).set 0 (wordAt (rnodeW true) 0 ||| 8)
     let q := { seqOf .opened redW id with entries := [{ XEntry.fresh redW with issued := true }, XEntry.fresh loc] }
     let d := raceDev q [(0x100, List.replicate 256 1)]
     (q.localRed 4095).map (fun x => redSrc x.2.w) = some 0x100 ∧ xTag loc = 4095 ∧ rnLocal loc = true ∧ d.xchOf 7 = some 0 ∧
     d.clean (tileAddr 7 ((d.ctx 7 0).base.toNat + 0x100 + 256 * 0)) 256 = true ∧ rnRoot loc = true ∧ 256 * 0 < rnLen loc) ∧
    (let q := { seqOf .ended streamW id with pos := 0 }
     q.stage = .ended ∧ q.entries[q.pos]? = some (XEntry.fresh streamW) ∧ xKind streamW = 6) := by decide +kernel

theorem witness_PacketMovement_legs :
    (let p := fun (a leg b : Nat) => { packet .data 0 a b with at_ := a, leg := leg }
     (p 0 0 7).at_ ≠ (p 0 0 7).dst ∧ (p 0 0 7).leg / 8 = (p 0 0 7).dst / 8 ∧ (p 0 1727 7).leg / 8 ≠ (p 0 1727 7).dst / 8) := by decide +kernel

theorem witness_PacketArrivals_markers :
    (let r : Ring := { ring1 with wr := 240, records := [] }
     let p := at7 .ring fun p => { p with id := 3, offset := 248, payload := [0, 0x80, 0, 0, 0, 0, 0, 0] }
     r.part = 0 ∧ leAt p.payload 0 2 / 2 ^ 15 % 2 = 1 ∧ p.offset + p.payload.length = r.size ∧ p.last = false) := by decide +kernel

/-! ### The collective engine and the step commit -/

/-- An operation with the words `w`. -/
def cxop (stage : OpStage) (w : List Word) (f : CxOp → CxOp) : CxOp :=
  f { w := w, stage := stage, started := false, start := 0, gen := 0, pend := [], bytes := 0, landed := [], summed := [], cout := false, held := []
      combined := [], frames := [], permBytes := 0 }

/-- A tensor of shards of 256 bytes in rank table 0. -/
def tensor : Tensor :=
  let x : Tensor := { upd := true, rt := 0, shb := 256, buf0 := 0x100, buf1 := 0x200, cur := 0, prevValid := false
                      kept := { rt := 0, shb := 0, buf0 := 0, buf1 := 0, cur := 0, prevValid := false }, perm := none }
  x.keep

/-- Context 0 has one operation, one tensor and the ranks `rt`; its virtual space is 64 KiB, one page at device address 200000H; the
device's own address is 5. -/
def collDev (rt : List Nat) (o : CxOp) (f : Dev → Dev) : Dev :=
  let d := flumeDev 0 1 id
  f { d with
    regs := Tab.put (Tab.put (Tab.put d.regs Reg.SLC_VLIMc_LO 0x10000) Reg.FLM_CX_TMOc 1) (at1 Reg.FLM_CX_CTLc 4 0) 1
    mem := [(0, 0x1001), (0x1000, 0x2001), (0x2000, 0x20000B), (0x2008, 0)].foldl (fun m x => Memory.setBytes m x.1 (bytesOf 8 x.2)) []
    colls := [(0, { Coll.empty with job := 7, ranks := [rt], tensors := [tensor], ops := [o] })], cxWait := [(0, 0)] }

/-- The page of that space lies on the host. -/
def onHost (d : Dev) : Dev := { d with mem := Memory.setBytes d.mem 0x2000 (bytesOf 8 0x20001B) }

/-- GATHER of one shard, to the context's space or to tile `t`; REDUCE of 64 F32 per segment; exchange of 2,048; permute of 256 bytes. -/
def gatherW (dsp : Bool) (first tile : Nat) : List Word :=
  [BitVec.ofNat 32 (0x10000000 + if dsp then 0x02000000 else 0), BitVec.ofNat 32 (tile * 2 ^ 16), BitVec.ofNat 32 first, 1, 0, 0, 0, 0]
def reduceW : List Word := [0x20000000, 0, 64, 0, 0, 0, 0x100, 0]
def exchW (cdb : Bool) : List Word :=
  [if cdb then 0x37000000 else 0x33000000, 0x30000, 2048, 0, 0, 0, 0, 0, 0, 0, 0, 0]
def permW : List Word := [0x40000000, 0, 256, 0, 0, 0, 0, 0, 0x100, 0]

theorem witness_CollectiveProgress :
    (let g := collDev [6, 5] (cxop .waiting (gatherW false 0 0) id) id
     g.cxOp 0 0 = some (cxop .waiting (gatherW false 0 0) id) ∧ g.cxOp 0 1 = none ∧ g.mayStart 0 0 = true ∧ oKind (gatherW false 0 0) = 1 ∧
     (g.coll 0).tensors[oTensor (gatherW false 0 0)]? = some tensor ∧ g.gatherCheck 0 (gatherW false 0 0) tensor = sOk ∧
     (∀ j, j < 1 → (g.rankTable 0 0).getD (0 + j) 0 ≠ g.fa) ∧ gFirst (gatherW false 1 0) + 1 ≤ 2 ∧ ¬gFirst (gatherW false 2 0) + 1 ≤ 2 ∧
     gDsp (gatherW true 0 7) = true ∧ g.mapTile 0 (gTile (gatherW true 0 7)) = some 7 ∧ g.mapTile 0 (gTile (gatherW true 0 8)) = none ∧
     oKind reduceW = 2 ∧ oAddr reduceW 4 + 2 * (64 * 4) ≤ g.vlim 0 ∧ oAddr reduceW 6 + 64 * 4 ≤ g.vlim 0 ∧
     oKind (exchW false) = 3 ∧ xCdb (exchW false) = false ∧ bit (g.reg (at1 Reg.FLM_CX_CTLc 4 0)) 0 = true ∧ xCdb (exchW true) = true ∧
     oKind permW = 4 ∧ oAddr permW 4 + 16 * pCount permW ≤ g.vlim 0) ∧
    (let o := cxop .running (gatherW false 0 0) fun o => { o with pend := [{ peer := 6, segment := 0, key := 0, sent := 0 }] }
     let d := collDev [6, 5] o fun d => { d with cycle := 1600 }
     let e := collDev [6, 5] (cxop .running (gatherW false 0 0) id) id
     d.cxOp 0 0 = some o ∧ d.cxOver 0 o = false ∧ (d.reg (at1 Reg.FLM_CX_TMOc 4 0)).toNat = 1 ∧ (∃ p ∈ o.pend, p.sent + 1600 * 1 ≤ d.cycle) ∧
     (d.img 0).state = .running ∧ d.ecc.pending = [] ∧ e.cxOver 0 (cxop .running (gatherW false 0 0) id) = true ∧
     (e.engineXlat 0 ((e.coll 0).cstat + 8 * 0) true).2 = .ok false 0x200000 ∧ bit ((e.engineXlat 0 0 true).1.reg Reg.ECC_FLIP_SEL) 31 = false) := by
  decide +kernel

theorem witness_CollectiveFrames :
    (let o := cxop .running (gatherW false 0 0) fun o => { o with pend := [{ peer := 6, segment := 0, key := 0, sent := 0 }] }
     let d := collDev [6, 5] o onHost
     let f := frame6 9 0 0 0 0 (List.replicate 256 1)
     d.jobCtx 7 = some 0 ∧ (frame6 8 0 0 0 0 []).flow = 0 ∧ (d.coll 0).tensors[0]? = some tensor ∧ (0 : Nat) = tensor.cur ∧
     (d.engineRead 11 0 0x100 256).2.2 = none ∧ (d.engineRead 11 0 0x10000 256).2.2 ≠ none ∧ d.gatherOf 0 f = some (0, 0) ∧
     d.gatherOf 0 { f with sfa := 8 } = none ∧ (d.engineWrite 11 0 (oAddr o.w 4 + 0) f.payload).2 = none ∧ d.physical 0 (gTile (gatherW true 0 7)) = some 7 ∧
     bit (d.reg Reg.ECC_FLIP_SEL) 31 = false ∧ f.cls = frameClass f.kind) ∧
    (let k := fun (w : List Word) (rt : List Nat) => collDev rt (cxop .running w id) onHost
     let r := k reduceW [5, 6]
     (r.bucketOp 0 0).map (·.1) = some 0 ∧ r.bucketOp 0 4095 = none ∧ (0 : Nat) / 4096 = r.stepLow 0 % 16 ∧ oKind reduceW = 2 ∧
     r.ownRank 0 0 = 0 ∧ rankOf (r.rankTable 0 0) 6 = some 1 ∧ relRank 2 0 1 ∈ treeKids 2 (relRank 2 0 0) ∧ rBf16 reduceW = false ∧
     0 + ceilDiv 256 256 ≤ rscChunks reduceW ∧
     (k (exchW true) [5, 6]).ownRank 0 0 = 0 ∧ 0 / 272 < 2 * rsxFrames (exchW true) ∧
     (((k (exchW true) [5, 6]).engineWrite 11 0 (oAddr (exchW true) 10 + 272) (List.replicate 272 0)).2) = none ∧
     oKind permW = 4 ∧ 0 + 256 ≤ pShb permW ∧ ((k permW [5, 6]).bucketOp 0 0xF00).map (·.1) = some 0 ∧
     (((k permW [5, 6]).engineWrite 11 0 (oAddr permW 6 + 0) (List.replicate 256 0)).2) = none) := by decide +kernel

theorem witness_CollectiveFrames_sums :
    (let o := cxop .running reduceW fun o => { o with held := [(0, 0, 1, List.replicate 256 1)] }
     let root := collDev [5, 6] o onHost
     let kid := collDev [6, 5] (cxop .running reduceW id) onHost
     root.cxOp 0 0 = some o ∧ relRank 2 0 (root.ownRank 0 0) = 0 ∧ rscChunks reduceW = 1 ∧ (0, 0) ∉ o.combined ∧ treeKids 2 0 = [1] ∧
     (∀ y, y < 1 → ∀ j ∈ (treeKids 2 0)[y]?, (o.held.find? fun x => decide (x.1 = 0 ∧ x.2.1 = 0 ∧ x.2.2.1 = j)).map (·.2.2.2) =
       [List.replicate 256 (1 : Byte)][y]?) ∧
     (root.engineRead 11 0 0 256).2.2 = none ∧ (root.engineWrite 11 0 0x100 (List.replicate 256 0)).2 = none ∧
     relRank 2 0 (kid.ownRank 0 0) = 1 ∧ treeKids 2 1 = [] ∧ (kid.engineRead 11 0 0 256).2.2 = none) ∧
    (let o := cxop .running (exchW true) fun o => { o with landed := [(0, 0)] }
     let d := collDev [5] o onHost
     d.cxOp 0 0 = some o ∧ oKind (exchW true) = 3 ∧ 0 < rsxFrames (exchW true) ∧ 0 ∉ o.summed ∧ (∀ r, r < 1 → (r, 0) ∈ o.landed) ∧
     (d.rsxRead 0 (exchW true) 0).2.2 = none ∧ (d.engineWrite 11 0 0 (List.replicate 4096 0)).2 = none) := by decide +kernel

/-- Context 0 commits at counter 3, with the step `f` gives. -/
def commitDev (rt : List Nat) (f : Step → Step) (g : Dev → Dev) : Dev :=
  collDev rt (cxop .idle (gatherW false 0 0) id) fun d => g { d with
    steps := [(0, f { Step.reset with section_ := some { header := [0x300000], windows := [], tables := [], entries := [] } })] }

theorem witness_StepCommit :
    (let runs := fun (d : Dev) => (d.img 0).state = .running ∧ (d.img 0).halted = false
     let a := fun (rt : List Nat) => commitDev rt (fun p => { p with action := 1 }) id
     runs (a [5]) ∧ ((a [5]).stepOf 0).action = 1 ∧ (a [5]).commitQuiet 0 = true ∧ (a [5]).cmtKids 0 = [] ∧ (a [5]).ownRank 0 0 = 0 ∧
     (a [5]).twin.halt = false ∧ (a [5]).replaying 0 = false ∧ (a [6, 5]).commitQuiet 0 = true ∧ (a [6, 5]).cmtKids 0 = [] ∧ (a [6, 5]).ownRank 0 0 = 1 ∧
     (a [5, 6]).cmtKids 0 = [6] ∧ ((a [5, 6]).stepOf 0).children = [] ∧
     (let h := commitDev [5] (fun p => { p with action := 1 }) fun d => { d with flume := { d.flume with twin := { Twin.reset with halt := true } } }
      h.twin.halt = true ∧ h.twinCtx = 0) ∧
     (let w := commitDev [5, 6] (fun p => { p with action := 2 }) id
      let f := frame6 13 0 0 0 0 (List.replicate 24 0)
      (w.port 0).state = .up ∧ w.portMode 0 = 1 ∧ f.cls = 0 ∧ f.dfa = w.fa ∧ w.jobCtx 7 = some 0 ∧ w.jobCtx 8 = none ∧ w.soloReplay 0 = false ∧
      w.capturing 0 = false ∧ f.enc = w.portEnc 0 ∧ f.sfa ∈ w.cmtKids 0 ∧ w.cmtKids 0 = [f.sfa] ∧ (w.stepOf 0).action = 2 ∧ (w.stepOf 0).sent = false ∧
      (((w.setStep 0 { w.stepOf 0 with children := [] }).ownContribution 0).join false (contributionOf 0 f.payload)).halt = false ∧
      (((w.setStep 0 { w.stepOf 0 with children := [] }).ownContribution 0).join false
        (contributionOf 0 (bytesOf 4 (w.stepLow 0) ++ List.replicate 16 0 ++ bytesOf 4 1))).halt = true) ∧
     (let w := commitDev [6, 5] (fun p => { p with action := 2, sent := true }) id
      w.ownRank 0 0 = 1 ∧ (w.rankTable 0 0).getD ((1 - 1) / 8) 0 = 6 ∧ (0 : Word).toNat = w.stepLow 0 ∧ (w.stepOf 0).sent = true ∧
      (contributionOf 0 (List.replicate 24 0)).halt = false ∧ (contributionOf 0 (List.replicate 24 0)).mismatch = none ∧
      (contributionOf 0 (List.replicate 20 0 ++ [1, 0, 0, 0])).halt = true ∧ (contributionOf 0 (List.replicate 20 0 ++ [2, 0, 0, 0])).mismatch = some 0)) := by
  decide +kernel

theorem witness_StepCommit_pass :
    (let sec := fun (es : List (List Word)) => { header := [0x300000], windows := [], tables := [], entries := es : UpdSection }
     let w := commitDev [5] (fun p => { p with action := 5 }) id
     (w.stepOf 0).section_ = some (sec []) ∧ (w.stepOf 0).action = 5 ∧ (w.img 0).state = .running ∧ (w.img 0).halted = false ∧
     (w.updPass 0 (sec [])).bad = none ∧ w.ecc.pending = [] ∧ w.park.stage ≠ .parking ∧ w.replaying 0 = false ∧
     (commitDev [5] (fun p => { p with action := 5 }) fun d => { d with regs := Tab.put d.regs Reg.TWIN_CTL 15 }).twinCtx ≠ 0 ∧
     (w.coll 0).tensors[0]? = some tensor ∧ tensor.perm = none ∧
     ((commitDev [5] (fun p => { p with action := 5 }) fun d => { d with
       regs := Tab.put d.regs (rplReg 0) 0x80000000 }).replaying 0) = true) := by decide +kernel

/-! ### The twin -/

/-- F16 is an Ethernet port that is UP; the twin unit is `w`, its context 0, MAX_LAG 255 and TWIN_TMO 1 ms. -/
def twinDev (w : Twin) (f : Dev → Dev) : Dev :=
  let d := flumeDev 16 2 id
  f { d with
    regs := Tab.put (Tab.put d.regs Reg.TWIN_CTL 0x00FF0000) Reg.TWIN_TMO 1, flume := { d.flume with twin := w } }

/-- A message of a type from the twin, whose record is of step `t`. -/
def twinMsgOf (type t : Nat) : List Byte :=
  bytesOf 4 0xC0000000 ++ bytesOf 4 0x8005 ++ bytesOf 4 7 ++ List.replicate 16 0 ++ [BitVec.ofNat 8 type, 1, 0, 0] ++ bytesOf 4 (t / 2 ^ 32) ++
    bytesOf 4 t ++ List.replicate 60 0

theorem witness_TwinLockstep_messages :
    (let good := fun (d : Dev) (msg : List Byte) => decide (100 ≤ msg.length ∧ leAt msg 0 4 / 2 ^ 30 = 3 ∧ leAt msg 4 2 = d.twinFa ∧
       1 ≤ byteAt msg 28 ∧ byteAt msg 28 ≤ 5 ∧ BitVec.ofNat 32 (leAt msg 8 4) = (d.coll d.twinCtx).job)
     let d := twinDev { Twin.reset with state := 2, kept := [(3, 3 :: List.replicate 15 0)], rejoin := none } id
     d.portMode 16 = 2 ∧ (d.port 16).state = .up ∧ (d.stepOf d.twinCtx).action ≠ 7 ∧ d.twinCtx = 0 ∧
     ([1, 2, 3, 4, 5].all fun k => good d (twinMsgOf k (2 ^ 33))) = true ∧ good d (twinMsgOf 0 0) = false ∧ good d (twinMsgOf 6 0) = false ∧
     (twinBody (twinMsgOf 1 (2 ^ 33))).step = 2 ^ 33 ∧ d.twin.used < d.twin.rx16 + 1 ∧ (twinDev { Twin.reset with used := 1 } id).twin.used = 1 ∧
     d.stepNum 0 ≤ max d.twin.r 3 + d.regFld Reg.TWIN_CTL 16 8 ∧ recordOf d.twin.kept 3 = some (3 :: List.replicate 15 0) ∧
     (∀ i, i < 16 → wordAt (3 :: List.replicate 15 0) i = wordAt (twinBody (twinMsgOf 1 3)).record i) ∧ recordOf d.twin.kept 4 = none ∧
     (d.twin.kept.head?.map (·.1)) = some 3 ∧ (2 : Nat) < 3 ∧ d.twin.failed = false ∧ d.twinAgreed < 3 ∧ (twinBody (twinMsgOf 3 0)).ver = 1 ∧
     (let e := twinDev { Twin.reset with state := 2, kept := [(3, 3 :: 1 :: List.replicate 14 0)] } id
      (∀ j, j < 1 → wordAt (3 :: 1 :: List.replicate 14 0) j = wordAt (twinBody (twinMsgOf 1 3)).record j) ∧
      putFld (wordAt (3 :: 1 :: List.replicate 14 0) 1) 12 4 0 ≠ putFld (wordAt (twinBody (twinMsgOf 1 3)).record 1) 12 4 0 ∧ e.twin.state = 2)) := by
  decide +kernel

theorem witness_TwinLockstep :
    (let r : Rejoin := { regions := [(0x1000, 0x1000)], agreed := false, doneSent := false, last := 0, prior := 3, record := [] }
     let five := twinDev { Twin.reset with state := 5, rejoin := some r } id
     let six := twinDev { Twin.reset with state := 6, rejoin := some r } id
     five.twin.state = 5 ∧ five.twin.rejoin = some r ∧ r.agreed = false ∧ (r.prior = 3) ∧ six.twin.state = 6 ∧ six.portMode 16 = 2 ∧
     (six.engineWrite 12 0 0 [1]).2 ≠ none ∧ (five.rjRegions [0x1000]).2 ≠ none ∧
     (let d := twinDev Twin.reset fun d => { d with
        regs := Tab.put (Tab.put d.regs Reg.SLC_VLIMc_LO 0x10000) Reg.TWIN_RJ_CTL 1
        mem := [(0, 0x1001), (0x1000, 0x2001), (0x2000, 0x20001B)].foldl (fun m x => Memory.setBytes m x.1 (bytesOf 8 x.2)) [] }
      (d.engineWrite 12 0 0 [1]).2 = none ∧ (d.rjRegions [0x1000]).2 = none ∧ (d.engineRead 12 0 0 128).2.2 = none ∧
      d.rjTable.2.2 = none) ∧
     (let w := fun (s : Nat) => twinDev { Twin.reset with state := s } fun d => { d with cycle := 1600000 }
      (w 1).twin.state ≠ 0 ∧ 1600000 ≤ (w 1).cycle - (w 1).twin.sent ∧ (w 2).twin.state = 2 ∧
      1600000 * ((w 2).reg Reg.TWIN_TMO).toNat ≤ (w 2).cycle - (w 2).twin.last ∧ (Dev.reset.twin.state = 0) ∧ five.cycle - r.last < 1600000) ∧
     (let a := twinDev { Twin.reset with state := 2 } fun d => { d with steps := [(0, { Step.reset with action := 7 })] }
      (a.stepOf a.twinCtx).action = 7 ∧ a.park.stage ≠ .parking ∧ a.replaying 0 = false) ∧
     five.regsUp (.host 0) = true ∧ five.regsUp .skeop = true ∧ fld (0x00010000 : Word) 16 8 = 1 ∧ fld (0 : Word) 16 8 = 0 ∧
     (0x80FF000F : Word) &&& 0x3F00FFF0 = 0 ∧ bit (0x80FF000F : Word) 30 = false ∧ bit (0x40FF000F : Word) 31 = false ∧
     bit (five.reg Reg.TWIN_CTL) 31 = false ∧ bit (five.reg Reg.TWIN_CTL) 30 = false ∧
     (({ five with imgs := [(0, { runImg with state := .loaded })] } : Dev).img 0).state = .loaded ∧ (five.img 0).state = .running ∧
     (0x80000100 : Word) &&& 0x7FFFFE00 = 0 ∧ fld (0x80000100 : Word) 0 9 = 256 ∧ fld (0x80000101 : Word) 0 9 = 257 ∧ bit (five.reg Reg.TWIN_RJ_CTL) 31 = false ∧
     five.stepLow 0 ≤ (five.reg Reg.TWIN_RJ_STEP).toNat) := by decide +kernel

theorem witness_CollectiveProgress_status :
    (let o := cxop .running (gatherW false 0 0) id
     let far := collDev [6, 5] o fun d => { d with colls := [(0, { Coll.empty with job := 7, ranks := [[6, 5]], tensors := [tensor], ops := [o], cstat := 0x10000 })] }
     far.cxOver 0 o = true ∧ (far.cxStatus 0 0 sOk o.bytes).2 ≠ none ∧ (far.img 0).state = .running ∧
     ((collDev [6, 5] o onHost).cxStatus 0 0 sOk o.bytes).2 = none ∧ (collDev [6, 5] o onHost).cxOver 0 o = true) ∧
    (let o := cxop .waiting (gatherW false 0 0) id
     let d := collDev [5, 6] o onHost
     let x := tensor
     d.mayStart 0 0 = true ∧ (d.coll 0).tensors[0]? = some x ∧ d.gatherCheck 0 o.w x = sOk ∧ gNsh o.w = 1 ∧
     (d.rankTable 0 x.rt).getD (gFirst o.w) 0 = d.fa ∧ x.holds x.cur = true ∧
     (let o' : CxOp := { o with stage := .running, started := true, start := d.cycle, gen := x.cur }
      let e := ({ d.putOp 0 0 o' with cxRun := [(0, 0)], cxWait := [] } : Dev)
      (e.engineRead 11 0 (x.buf x.cur) x.shb).2.2 = none ∧
      ((e.engineRead 11 0 (x.buf x.cur) x.shb).1.parisonWrite 0 o.w 0 (List.replicate 256 0)).2 = none)) := by decide +kernel

theorem witness_CollectiveFrames_refused :
    (let d := collDev [5, 6] (cxop .running reduceW id) fun d => { d with imgs := [(0, { runImg with state := .preempted, mills := [] })] }
     let f := frame6 10 0 0 0 0 []
     d.jobCtx 7 = some 0 ∧ (d.img 0).state = .preempted ∧ (d.bucketOp 0 0).map (·.1) = some 0 ∧ d.bucketOp 0 4095 = none ∧ d.ecc.pending = [] ∧
     f.enc = d.portEnc 0 ∧ f.cls = frameClass f.kind ∧ 0 / 4096 = d.stepLow 0 % 16 ∧ 4096 / 4096 ≠ d.stepLow 0 % 16) := by decide +kernel

theorem witness_TwinLockstep_solo :
    (let w := fun (n : Nat) => twinDev { Twin.reset with state := n, kept := [(3, 3 :: 1 :: List.replicate 14 0)] } id
     (w 3).twin.state = 3 ∧ (w 3).twin.used < (w 3).twin.rx16 + 1 ∧ recordOf (w 3).twin.kept 3 = some (3 :: 1 :: List.replicate 14 0) ∧
     putFld (wordAt (3 :: 1 :: List.replicate 14 0) 1) 12 4 0 ≠ putFld (wordAt (twinBody (twinMsgOf 1 3)).record 1) 12 4 0 ∧
     (∀ j, j < 1 → wordAt (3 :: 1 :: List.replicate 14 0) j = wordAt (twinBody (twinMsgOf 1 3)).record j) ∧
     ((w 3).stepOf 0).action ≠ 7 ∧ ((w 3).stepNum 0 : Int) ≤ max (w 3).twin.r 3 + (w 3).regFld Reg.TWIN_CTL 16 8) := by decide +kernel

/-- A receiver in a rejoin, whose journal stands at `j` of a space on the host. -/
def recvDev (j : Nat) : Dev :=
  let r : Rejoin := { regions := [], agreed := true, doneSent := false, last := 0, prior := 0, record := [] }
  let x : UpdSection := { header := [0x300000, 0, BitVec.ofNat 32 j, 0], windows := [], tables := [], entries := [] }
  twinDev { Twin.reset with state := 6, rejoin := some r } fun d => { d with
    regs := Tab.put d.regs Reg.SLC_VLIMc_LO 0x10000, steps := [(0, { Step.reset with section_ := some x })]
    mem := [(0, 0x1001), (0x1000, 0x2001), (0x2000, 0x20001B)].foldl (fun m x => Memory.setBytes m x.1 (bytesOf 8 x.2)) [] }

theorem witness_TwinLockstep_journal :
    (let goes := fun (j : Nat) =>
       let d := recvDev j
       let msg := twinMsgOf 4 3
       let m := twinBody msg
       let d1 := (d.roceTake 16 0 msg.length).setTwin { d.twin with rx16 := 1, used := 1, last := d.cycle }
       ((d.stepOf 0).section_.map fun x => (d1.engineWrite 12 0 (oAddr x.header 2 + m.step % 2 ^ fld (wordAt x.header 1) 23 5 * 64)
         (bytesOfWords m.record)).2.isNone, d.twin.state, d.twin.rejoin.isSome, decide ((d.stepOf 0).action ≠ 7))
     goes 0x100 = (some true, 6, true, true) ∧ goes 0x20000 = (some false, 6, true, true)) := by decide +kernel

theorem witness_TwinLockstep_regions :
    (let e : Nat × Nat := (0xF000, 0x1000)
     let d := recvDev 0
     e.2 ≠ 0 ∧ e.1 % 4096 = 0 ∧ e.2 % 4096 = 0 ∧ e.1 + e.2 ≤ d.vlim 0 ∧ (d.roceTake 17 1 8).portMode 16 = 2 ∧
     (((d.roceTake 17 1 8).engineWrite 12 0 0 [1]).2 = none) ∧ (((d.roceTake 17 1 8).engineWrite 12 0 0x10000 [1]).2 ≠ none)) := by decide +kernel

/-! ### Images and the host -/

/-- Context 15, of function 16, with a ring whose next entry is not yet fetched; `f` changes it. -/
def hostDev (f : ImageCtx → ImageCtx) : Dev :=
  { Dev.reset with
    stage := .ready, numVf := 16, imgs := [(15, f { ImageCtx.reset with state := .loaded, nmills := 1, mills := [215] })]
    regs := [(hostReg Reg.HST_CMD_CFG 15, 0x80000004), (hostReg Reg.HST_CMD_IDX 15, 1), (hostReg Reg.HST_CPL_CFG 15, 0x80000004)]
    tiles := (List.range 8).map fun k => (1720 + k, tileOf 0 { Ctx.reset with bound := 0x1000 }) }

/-- The sixteen words of a ring command. -/
def ringCmd (op w1 : Nat) : List Word := BitVec.ofNat 32 (0xABCD0000 + op) :: BitVec.ofNat 32 w1 :: List.replicate 14 0

theorem witness_HostCommands :
    (let cmd := fun (op w1 : Nat) (st : CtxState) => hostDev fun i => { i with state := st, cmd := some (ringCmd op w1) }
     (hostDev id).mayFetch 15 = true ∧ Dev.reset.mayFetch 15 = false ∧ (ringCmd 7 0).length = 16 ∧ fld (wordAt (ringCmd 7 0) 0) 8 8 = 0 ∧
     fld (wordAt (ringCmd 8 0) 0) 0 8 = 8 ∧ (∀ k, k < 16 → 1 ≤ k → wordAt (ringCmd 7 0) k = 0) ∧ wordAt (ringCmd 7 1) 1 ≠ 0 ∧
     (([1, 2, 3, 4, 5, 6].all fun op => let d := cmd op 0 .loaded
        decide ((d.img 15).wait = .none ∧ (d.img 15).busy = false ∧ (d.img 15).cmd = some (ringCmd op 0) ∧ fld (wordAt (ringCmd op 0) 0) 0 8 = op ∧
          d.park.stage = .run)) = true) ∧
     ((cmd 1 0 .loaded).cplRoom 15 = true) ∧ ((cmd 1 0 .empty).img 15).state = .empty ∧ ((cmd 2 0 .loaded).imageStartStatus 15 = sOk) ∧
     (({ cmd 2 0 .loaded with tiles := [] } : Dev).imageStartStatus 15 ≠ sOk) ∧ bit (wordAt (ringCmd 3 1) 1) 0 = true ∧
     bit (wordAt (ringCmd 3 0) 1) 0 = false ∧ (cmd 3 1 .running).commitRuns 15 = false ∧ ((cmd 3 0 .running).img 15).withheld = false ∧
     (({ cmd 3 0 .running with steps := [(15, { Step.reset with action := 1 })] } : Dev).commitRuns 15 = true) ∧
     (let p := hostDev fun i => { i with state := .running, preempt := true, cmd := some (ringCmd 4 0) }
      (p.img 15).preempt = true ∧ p.domainBarrier 15 = false) ∧
     (let v : Saved := { mills := [], objs := [] }
      let p := hostDev fun i => { i with state := .preempted, mills := [], saved := some v, cmd := some (ringCmd 5 0) }
      (p.img 15).saved = some v) ∧
     ((hostDev fun i => { i with wait := .quiesce }).ctxQuiet 15 = true) ∧ ((hostDev fun i => { i with wait := .quiesce }).millFault 15 = none) ∧
     ({ hostDev (fun i => { i with state := .running, wait := .quiesce }) with mills := [(215, { Mill.reset with fault := some (7, sUe) })] } : Dev).millFault 15 =
       some (1727, sUe) ∧ ((hostDev fun i => { i with wait := .saving }).img 15).wait = .saving) ∧
    bit ((hostDev fun i => { i with state := .stopped }).reg (cmtReg 15)) 29 = false := by decide +kernel

theorem witness_HostCommands_load :
    (let w := BitVec.ofNat 32 0xABCD0001 :: (List.replicate 6 0 ++ [65] ++ List.replicate 8 0)
     let d := hostDev fun i => { i with state := .empty, mills := [], cmd := some w }
     let none_ := BitVec.ofNat 32 0xABCD0001 :: List.replicate 15 0
     (d.loadSource w none none).2 = .operands sLen ∧ (d.loadSource none_ none none).2 = .operands sLen ∧
     (match loadChecked State.reset.sk d 15 [] [] with | .error _ => true | .ok _ => false) = true ∧
     State.reset.sk.mode = .startUp ∧ (∀ ws : List Word, ws = w → fld (wordAt ws 0) 0 8 = 1)) := by
  refine ⟨by decide +kernel, by decide +kernel, by decide +kernel, rfl, ?_⟩
  rintro ws rfl
  decide +kernel

theorem witness_UnloadingResetsAndBar2 :
    (let d := hostDev id
     d.regsUp (.host 0) = true ∧ d.regsUp .skeop = true ∧ (0x8300000F : Word) &&& 0x7CFFFFF0 = 0 ∧ fld (0x8000000F : Word) 0 4 = 15 ∧ bit (0x0000000F : Word) 31 = false ∧
     bit (d.reg Reg.LDR_FORCE) 31 = false ∧ (d.img 15).state = .loaded ∧ (d.img 15).wait = .none ∧ (d.img 14).state = .empty ∧
     (let r := hostDev fun i => { i with state := .running }
      (r.img 15).state = .running ∧ r.commitRuns 15 = false ∧ ({ r with steps := [(15, { Step.reset with action := 1 })] } : Dev).commitRuns 15 = true) ∧
     bit (({ d with regs := Tab.put d.regs Reg.LDR_FORCE 0x80000000 } : Dev).reg Reg.LDR_FORCE) 31 = true ∧
     ((hostDev fun i => { i with wait := .zeroing 0 }).img 15).wait = .zeroing 0 ∧ bit (d.reg Reg.ECC_FLIP_SEL) 31 = false ∧ 0 < (16 : Nat) ∧ 16 ≤ d.numVf ∧
     (∀ h ∈ d.lehr.held, h.1 ≠ 3) ∧ (∃ h ∈ ({ d.lehr with held := [(3, 0)] } : Lehr).held, h.1 = 3) ∧
     d.stage = .ready ∧ Dev.reset.stage ≠ .ready ∧ d.pfStatus 0 8 false = sOk ∧ d.pfStatus (d.hbmSize - 8) 8 true = sOk ∧
     d.pfStatus (d.hbmSize - 4) 8 false ≠ sOk ∧
     (let e := hostDev id
      (({ e with mem := Memory.setBytes [] 0 (List.replicate 8 1) } : Dev).read 9 0 8).bytes = some (List.replicate 8 1) ∧
      (({ e with mem := Memory.setBytes [] 0 (List.replicate 8 1) } : Dev).read 9 0 8).bad = none) ∧
     (d.vfWrite 15 0 [1]).2 ≠ none ∧ (d.vfRead 15 0 8).2.2 ≠ none) := by decide +kernel

theorem witness_HostCommands_completions :
    (let d := fun (err : List Bool) (waiting : List (List Word)) => ({ hostDev (fun i => { i with cmd := some (ringCmd 7 0), waiting := waiting }) with
        cplErr := err } : Dev)
     ((d [] []).img 15).cmd = some (ringCmd 7 0) ∧ (d [] []).cplRoom 15 = true ∧ ((d [] []).img 15).waiting = [] ∧
     (d [] []).cplErr.head? ≠ some true ∧ (d [false] []).cplErr.head? ≠ some true ∧ (d [true] []).cplErr = true :: [] ∧
     (d [true] []).cplRoom 15 = true ∧ ((d [] (List.replicate 15 [0])).img 15).waiting.length < 16 ∧
     16 ≤ ((d [] (List.replicate 16 [0])).img 15).waiting.length ∧ sPerm < 16) := by decide +kernel

theorem witness_HostCommands_operands :
    (let bad : List Word := BitVec.ofNat 32 0xABCD0001 :: 2 :: 0 :: 0 :: 1 :: 0 :: 0 :: 64 :: List.replicate 8 0
     fld (wordAt bad 0) 0 8 = 1 ∧ bad.length = 16 ∧ wordAt bad 1 &&& 0xFFFFFFFE ≠ 0 ∧ wordAt bad 4 ≠ 0 ∧ ¬64 < (wordAt bad 7).toNat ∧
     (let odd := bad.set 7 65
      64 < (wordAt odd 7).toNat) ∧
     fld (wordAt (ringCmd 6 0) 0) 0 8 = 6 ∧ fld (wordAt (ringCmd 2 0) 0) 0 8 = 2 ∧ wordAt (ringCmd 2 1) 1 ≠ 0) := by decide +kernel

/-- A LOAD of 16 bytes from the host, or one from beyond device memory. -/
def loadCmd (host : Bool) (at_ : Nat) : List Word :=
  BitVec.ofNat 32 0xABCD0001 :: (if host then 1 else 0) :: 0 :: BitVec.ofNat 32 at_ :: 16 :: List.replicate 11 0

/-- Whether an image verifies is open (`Config.ecdsaVerify` has no body): of the clauses about what has been read one applies. -/
theorem witness_HostCommands_sources :
    (let d := fun (ws : List Word) => hostDev fun i => { i with state := .empty, mills := [], cmd := some ws }
     ((d (loadCmd true 0)).loadSource (loadCmd true 0) none none).2 = .fail sFault ∧
     ((d (loadCmd false 0xFFFFFFFF)).loadSource (loadCmd false 0xFFFFFFFF) none none).2 = .fail sBound ∧
     ((d (loadCmd true 0)).loadSource (loadCmd true 0) (some []) none).2 = .ok (List.replicate 16 0) [] ∧
     (match loadChecked State.reset.sk (d (loadCmd true 0)) 15 (List.replicate 16 0) [] with | .error _ => true | .ok _ => false) = true ∧
     ((d (loadCmd true 0)).img 15).state = .empty ∧ ((d (loadCmd true 0)).img 15).wait = .none ∧ ((d (loadCmd true 0)).img 15).busy = false ∧
     fld (wordAt (loadCmd true 0) 0) 0 8 = 1 ∧ (d (loadCmd true 0)).park.stage = .run ∧ (skeop .recovery true mine).mode = .recovery) := by
  decide +kernel

theorem witness_HostCommands_withheld :
    (let d := fun (op : Nat) => hostDev fun i => { i with state := .running, preempt := true, withheld := true, cmd := some (ringCmd op 0) }
     ((d 3).img 15).withheld = true ∧ bit (wordAt (ringCmd 3 0) 1) 0 = false ∧ (d 3).commitRuns 15 = false ∧ ((d 3).img 15).state = .running ∧
     ((d 4).img 15).preempt = true ∧ (d 4).domainBarrier 15 = false ∧ ((d 4).img 15).withheld = true ∧ (d 4).commitRuns 15 = false) ∧
    (let d := fun (race : List Packet) => { hostDev (fun i => { i with state := .running, wait := .saving, allocs := [{ kind := .save, start := 0, size := 65536 }] }) with
        race := race }
     ((d []).img 15).wait = .saving ∧ (d []).ctxQuiet 15 = true ∧ (d [packet .data 15 1720 1721]).ctxQuiet 15 = false ∧ (d []).ecc.flips = [] ∧
     (∀ p ∈ ((d []).img 15).mills, ((d []).mill p).flips = []) ∧ bit ((d []).reg Reg.ECC_FLIP_SEL) 31 = false ∧
     (∀ a ∈ ((d []).img 15).allocsOf .save, a.start % 8 = 0 ∧ a.size % 8 = 0 ∧ a.start + a.size ≤ tileBase)) := by decide +kernel

theorem witness_UnloadingResetsAndBar2_commit :
    (let d := fun (due : Option StopDue) => { hostDev (fun i => { i with state := .running, due := due }) with
        steps := [(15, { Step.reset with action := 1 })] }
     ((d none).img 15).state = .running ∧ (d none).commitRuns 15 = true ∧ ((d none).img 15).wait = .none ∧ ((d none).img 15).due = none ∧
     bit ((d none).reg Reg.LDR_FORCE) 31 = false ∧ (d none).regsUp .skeop = true ∧ fld (0x0000000F : Word) 0 4 = 15 ∧
     ((d (some { cause := 0x10, force := false, unload := none })).img 15).due ≠ none ∧
     ((hostDev fun i => { i with state := .stopped }).img 15).state = .stopped ∧ ((hostDev fun i => { i with state := .empty }).img 15).due = none ∧
     (hostDev id).commitRuns 15 = false ∧ ((hostDev id).img 15).state ≠ .empty ∧
     (∀ a ∈ ((hostDev fun i => { i with wait := .zeroing 0, allocs := [{ kind := .save, start := 0, size := 65536 }] }).img 15).allocs,
       a.start % 8 = 0 ∧ a.size % 8 = 0) ∧
     tileBase ≤ tileAddr 0 0 ∧ (hostDev id).ecc.hbmMode ≠ 1 ∧ ((hostDev id).vfRead 15 0 8).1.ecc.pending = (hostDev id).ecc.pending ∧
     ((hostDev id).vfWrite 15 0 [1]).1.ecc.pending = (hostDev id).ecc.pending) := by decide +kernel

/-! ### The mill engine -/

theorem isSome_setBytes {m : Memory} {x : Nat} (a : Nat) (bs : List Byte)
    (h : (Memory.byte m x).isSome = true ∨ (a ≤ x ∧ x < a + bs.length)) : (Memory.byte (Memory.setBytes m a bs) x).isSome = true := by
  rw [Memory.byte_setBytes]
  split
  · rename_i hx
    rw [List.getElem?_eq_getElem (by omega)]; rfl
  · rename_i hx
    exact h.resolve_right hx

/-- 4 KiB of zeros. -/
def page0 : List Byte := List.replicate 4096 0

theorem page0_length : page0.length = 4096 := List.length_replicate

/-- The first 4 KiB of the eight tiles of mill 0 have been written. -/
def bandMem : Memory := (List.range 8).foldl (fun m t => Memory.setBytes m (tileAddr t 0) page0) []

theorem bandMem_isSome {t i : Nat} (ht : t < 8) (hi : i < 4096) : (Memory.byte bandMem (tileAddr t 0 + i)).isSome = true := by
  have keep : ∀ (l : List Nat) (m : Memory), (Memory.byte m (tileAddr t 0 + i)).isSome = true ∨ t ∈ l →
      (Memory.byte (l.foldl (fun m t => Memory.setBytes m (tileAddr t 0) page0) m) (tileAddr t 0 + i)).isSome = true := by
    intro l
    induction l with
    | nil => intro m h; exact h.resolve_right (by simp)
    | cons u l ih =>
      intro m h
      rw [List.foldl_cons]
      apply ih
      rcases h with h | h
      · exact .inl (isSome_setBytes _ _ (.inl h))
      · rcases List.mem_cons.1 h with rfl | h
        · exact .inl (isSome_setBytes _ _ (.inr (by rw [page0_length]; omega)))
        · exact .inr h
  unfold bandMem
  exact keep _ _ (.inr (List.mem_range.2 ht))

/-- A running context whose mill 0 is `m`, with the bounds of its tiles at 600000H. -/
def engine (m : Mill) (mem : Memory) : Dev :=
  { up with tiles := (List.range 8).map fun t => (t, tileOf 1 { Ctx.reset with bound := 0x600000 }), mem := mem, mills := [(0, m)] }

theorem engine_clean (m : Mill) (mem : Memory) {t n : Nat} (_ht : t < 8) (hn : n % 8 = 0) (h : n ≤ 4096)
    (hm : ∀ i, i < 4096 → (Memory.byte mem (tileAddr t 0 + i)).isSome = true) : (engine m mem).clean (tileAddr t 0) n = true := by
  have h0 : tileAddr t 0 % 8 = 0 := by simp only [tileAddr, tileWindow, tileBase]; omega
  have hd : alignDown 8 (tileAddr t 0) = tileAddr t 0 := by simp only [alignDown]; omega
  rw [clean_iff, hd]
  refine ⟨by simp only [tileAddr, tileBase]; omega, fun i hi => ?_⟩
  have hi' : 8 * i + 8 ≤ 4096 := by simp only [alignUp] at hi; omega
  have hb : ∀ k a, (∀ j, j < k → (Memory.byte mem (a + j)).isSome = true) → (Memory.bytes mem k a).isSome = true := by
    intro k
    induction k with
    | zero => intro a _; rfl
    | succ k ih =>
      intro a ha
      have h1 := ha 0 (by omega)
      have h2 := ih (a + 1) fun j hj => by have := ha (j + 1) (by omega); rwa [show a + 1 + j = a + (j + 1) by omega]
      obtain ⟨b, hb⟩ := Option.isSome_iff_exists.1 h1
      obtain ⟨bs, hbs⟩ := Option.isSome_iff_exists.1 h2
      rw [Nat.add_zero] at hb
      simp [Memory.bytes, hb, hbs]
  simp only [Dev.cleanWord, Bool.and_eq_true, decide_eq_true_eq]
  refine ⟨hb 8 (tileAddr t 0 + 8 * i) ?_, ?_⟩
  · intro j hj
    rw [Nat.add_assoc]
    exact hm _ (by omega)
  · generalize tileAddr t 0 + 8 * i = x
    rfl

/-- A BF16 pass of one row that loads its weights; a drain of one BF16 row to 1000H; `mill.smode` to SUM. -/
def passC : MillCmd := { cmdNo 1 with kind := .pass, w0 := 0x882, w1 := 0x80, wnum := 1 }
def drainC : MillCmd := { cmdNo 2 with kind := .drain, w0 := 0x00200080, w1 := 0x10000000 }
def exec1 (c : MillCmd) : MillRun := { cmd := c, start := 0, mode := 0 }

theorem witness_MillEngine_start :
    (let q := fun (c : MillCmd) (r : List MillRun) => { Mill.reset with queue := [c], running := r }
     (q passC []).queue = passC :: [] ∧ passC.kind = .pass ∧ drainC.kind = .drain ∧ (cmdNo 3).kind = .smode ∧
     (∃ r ∈ (q passC [exec1 drainC]).running, r.cmd.slot = passC.slot ∧ r.cmd.kind ≠ .pass) ∧ (∀ r ∈ (q drainC []).running, r.cmd.slot ≠ drainC.slot) ∧
     (let m := { Mill.reset with queue := [passC] }
      let d := engine m []
      m.loading = none ∧ (m.unfinished.find? fun q => decide (q.kind = .pass) && passWld q.w0 && decide (m.loadedFor < q.num)) = some passC ∧
      (∀ r ∈ m.unfinished, r.kind = .pass → m.holds 1 r.wnum = false) ∧ d.drainAhead 0 passC (passReads passC true) = false) ∧
     (let m := { Mill.reset with queue := [passC], loading := some (1, 1) }
      let d := engine m []
      m.loading = some (1, 1) ∧ m.unfinished.find? (fun r => decide (r.num = 1)) = some passC ∧ m.fault = none ∧
      (passPair (passFmtW passC.w0) (passFmtA passC.w0)).isSome = true ∧
      (d.read 4 (ctxAddr 0 (d.bandCtx 0 0 passC.ctx) (passWaddr passC.w0)) 4096).bytes = none)) := by decide +kernel

theorem witness_MillEngine_finish :
    (let m := { Mill.reset with running := [exec1 passC], loadedFor := 1, sets := Mill.reset.sets.set 1 { w0 := passC.w0, bands := [[]], pass := 1 }, active := 1 }
     let d := engine m bandMem
     m.oldest .pass = some (exec1 passC) ∧ d.binding 0 = some (0, 0) ∧ (m.setOf 1).isSome = true ∧ m.setOf passC.wnum ≠ some WeightSet.reset ∧
     d.drainAhead 0 passC (passReads passC false) = false ∧ (m.slot 0).bad = none ∧ bit (d.reg Reg.ECC_FLIP_SEL) 31 = false ∧ (exec1 passC).mode ≠ 2 ∧
     (∀ w, Tab.get (fun _ => (0 : BitVec 80)) m.flips w = 0)) ∧
    (let m := { Mill.reset with running := [exec1 drainC, exec1 (cmdNo 3)] }
     let d := engine m []
     m.oldest .drain = some (exec1 drainC) ∧ d.binding 0 = some (0, 0) ∧ fmtOf (drainFmt drainC.w1) = some .bf16 ∧ d.passAhead 0 drainC = false ∧
     (∀ t, t < 8 → (d.bandCtx 0 t drainC.ctx).base.toNat + drainDst drainC.w0 + drainRows drainC.w0 * drainPitch .bf16 +
       drainScaleBytes .bf16 drainC.w1 (drainRows drainC.w0) ≤ 0x800000) ∧ m.oldest .smode = some (exec1 (cmdNo 3)) ∧
     (∀ w, Tab.get (fun _ => (0 : BitVec 80)) m.flips w = 0)) := by
  refine ⟨⟨by decide +kernel, by decide +kernel, by decide +kernel, by decide +kernel, by decide +kernel, by decide +kernel, by decide +kernel,
    by decide +kernel, fun w => rfl⟩, by decide +kernel, by decide +kernel, by decide +kernel, by decide +kernel, by decide +kernel, by decide +kernel,
    fun w => rfl⟩

/-- What that pass reads, and what its weight load reads, in every tile. -/
theorem witness_MillEngine_bands (m : Mill) (t : Nat) (ht : t < 8) :
    (engine m bandMem).clean (tileAddr t 0) (alignUp 8 (actBytes ⟨.bf16, .bf16, 128, 16, false, [0], false⟩ 16 1)) = true ∧
    (engine m bandMem).clean (tileAddr t 0) (alignUp 8 (weightBytes ⟨.bf16, .bf16, 128, 16, false, [0], false⟩ 16)) = true ∧
    (match passPair (passFmtW passC.w0) (passFmtA passC.w0) with
      | some p => decide (actBytes p (passBlock passC.w0) 1 = 32 ∧ weightBytes p (passBlock passC.w0) = 4096)
      | none => false) = true :=
  ⟨engine_clean m _ ht (by decide) (by decide) fun _ => bandMem_isSome ht, engine_clean m _ ht (by decide) (by decide) fun _ => bandMem_isSome ht,
    by decide +kernel⟩

/-! ### Sync homes -/

/-- Counter 16383 of context 0 is `o`; the events `es` are on their way, the step is `p`. -/
def homeDev (o : SyncObj) (es : List SyncEvt) (p : Step) : Dev :=
  { up with
    objs := [(16383, o)], syncFly := es, steps := [(0, p)]
    tiles := [(1727, tileOf 3 { Ctx.reset with run := .wait, wait := some { id := 9, phys := 16383, vid := 5, rc := 0, since := 0, reported := false, fired := none } })] }

/-- An event at that counter. -/
def evt (k : SyncKind) (bytes : Nat) : SyncEvt := { kind := k, phys := 16383, bytes := bytes, tile := some 1727, waiter := some (3, 9), ictx := 0, vid := 5 }

/-- An object of virtual ID `v` in a state, with one signal and one arrival expected. -/
def home (x : ObjState) (v : Nat) : SyncObj := { objIn x 1 false with vid := v }

theorem witness_SyncHomes_events :
    (let may := fun (o : SyncObj) (e : SyncEvt) => (homeDev o [e] Step.reset).mayApply 0 e
     ([evt .signal 0, evt .arrival 0, evt .arm 0, evt .credit 8].all fun e =>
       may (home .free 5) e && may (home .broken 5) e && may (home .idle 5) e && may { home .opened 5 with sig := 1, arr := 1, ann := 1 } e) = true ∧
     (homeDev (home .idle 5) [evt .signal 0] Step.reset).syncFly[0]? = some (evt .signal 0) ∧
     (homeDev { home .idle 5 with heldDue := true } [evt .signal 0] Step.reset).mayApply 0 (evt .signal 0) = false ∧
     (home .idle 5).met = false ∧ ({ home .opened 5 with sig := 1, arr := 1, ann := 1 } : SyncObj).met = false ∧
     2 ^ 48 ≤ 1 + (2 ^ 48 - 1) ∧ (evt .signal (2 ^ 48 - 1)).bytes + 0 < 2 ^ 48 ∧ (home .idle 5).domain = false ∧ (home .idle 5).sigs = 1 ∧
     (∀ m ∈ ((0 : Nat), 5) :: (home .idle 5).mapped, ∀ i, i < 4 → (homeDev (home .idle 5) [] Step.reset).cxOp m.1 i = none) ∧
     ((homeDev (home .idle 5) [] Step.reset).stepOf 0).section_ = none ∧
     (let u : UpdSection := { header := [0x00500000], windows := [], tables := [], entries := [] }
      fld (wordAt u.header 0) 20 12 = (home .idle 5).vid) ∧
     (let d := homeDev (home .idle 0) [] Step.reset
      d.commitRuns 0 = false ∧ (d.pendingOf 0).isEmpty = true ∧ d.millFault 0 = none ∧ d.sluiceHalt 0 = none ∧ (d.img 0).due = none ∧ d.parkPoint false = false ∧
      (d.img 0).wait = .none ∧ d.rplState 0 = 0 ∧ (home .idle 0).notify = false ∧
      (({ d with imgs := [(0, { runImg with wait := .preemptAtBoundary })] } : Dev).img 0).wait = .preemptAtBoundary ∧
      (({ d with imgs := [(0, { runImg with wait := .stopAtBoundary })] } : Dev).img 0).state = .running ∧
      (({ d with ecc := { d.ecc with pending := [{ mill := 0, trigger := 0, ictx := 0, since := 0 }] } } : Dev).pendingOf 0).isEmpty = false)) := by
  decide +kernel

theorem witness_SyncHomes :
    (let d := fun (rt : List Nat) => collDev rt (cxop .idle (gatherW false 0 0) id) fun d => { d with objs := [(16383, { home .opened 5 with domain := true, sig := 1, arr := 0 })] }
     (d [5, 6]).ownRank 0 0 = 0 ∧ (d [6, 5]).ownRank 0 0 = 1 ∧ treeKids 2 1 = [] ∧ treeKids 2 0 = [1] ∧ (d [5, 6]).jobCtx 7 = some 0 ∧
     rankOf ((d [5, 6]).rankTable 0 0) 6 = some 1 ∧ ((d [5, 6]).obj 16383).ictx = 0 ∧ ((d [5, 6]).obj 16383).domain = true ∧
     (let f := frame6 6 0 0 16383 0xFFFF (bytesOf 8 0)
      f.kind = 6 ∧ fld f.arg1 16 2 ≠ 3 ∧ ((d [5, 6]).port 0).state = .up ∧ fld f.arg1 0 14 = 16383 ∧ f.arg2.toNat % 65536 = ((d [5, 6]).obj 16383).phase)) ∧
    (let o := { home .idle 5 with sigs := 2, heldDue := true, held := [evt .signal 1, evt .signal 1] }
     (∀ x ∈ o.held, x.kind = .signal ∧ x.phys = 16383) ∧ o.sig + o.held.length ≤ o.sigs ∧ (o.held.map (·.bytes)).foldl (· + ·) 0 = 2 ∧
     ¬(o.arr = o.arrs ∧ o.sig + o.held.length = o.sigs ∧ o.ann + 2 ≤ o.crd)) ∧
    (let d := homeDev (home .idle 5) [] Step.reset
     let e := { d with cycle := 1600, imgs := [(0, { runImg with mills := [215] })], regs := Tab.put d.regs Reg.SYNC_WDOGc 1 }
     (d.ctx 1727 3).run = .wait ∧ ((d.ctx 1727 3).wait.map (·.fired)) = some none ∧ e.tileCtx 1727 = some 0 ∧ (e.reg (at1 Reg.SYNC_WDOGc 4 0)).toNat = 1 ∧
     1 ≤ (e.cycle - 0) / 1600 ∧ (e.img 0).state = .running ∧ e.stage = .ready ∧ (∀ q, q < 4 → (e.queue (queueKey 1727 q)).descs = [])) := by decide +kernel

/-! ### Sluice, scrubber, flips and fences -/

/-- A descriptor of eight bytes in the direction `dir`, with the number of bytes of its element `n`. -/
def streamDesc (dir n rate : Nat) : SDesc :=
  { num := 0, base := 0, bound := 0x1000, entry := none
    w := [BitVec.ofNat 32 (dir * 2 ^ 20 + 0x10000 + n), 0, 0, 0, BitVec.ofNat 32 rate, 0, 1, 0, 0, 0, 0, 0, 0, 0, 0, 0] }

/-- Queue 3 of tile 7 of mill 0 is `q`; the context's page is the one of `collDev`, on the host. -/
def slcDev (q : SQueue) : Dev := collDev [5] (cxop .idle (gatherW false 0 0) id) fun d => { onHost d with sluice := [(31, q)] }

theorem walk_outcome {d : Dev} {m c va : Nat} {w : Bool} {x : Xlat} (h : (d.walk m c va w).2 = x) : ∃ d2, d.walk m c va w = (d2, x) :=
  ⟨_, by rw [← h]⟩

theorem witness_SluiceAndContainment_issue :
    (let d := slcDev { SQueue.reset with descs := [streamDesc 0 4096 1] }
     d.wins 31 = true ∧ d.wins 30 = false ∧ d.binding 0 = some (0, 0) ∧ (slcDev SQueue.reset).wins 31 = false ∧
     sElemVa (streamDesc 0 4096 1).w 0 = 0 ∧ (∃ d2, d.walk 0 0 0 false = (d2, .ok true 0x200000)) ∧
     (∃ d2, d.walk 0 0 0x200000 false = (d2, .fault 0 3))) := by
  refine ⟨by decide +kernel, by decide +kernel, by decide +kernel, by decide +kernel, by decide +kernel, walk_outcome ?_, walk_outcome ?_⟩ <;>
  · simp only [Dev.walk, show (slcDev { SQueue.reset with descs := [streamDesc 0 4096 1] }).xcache = [] from rfl, List.find?_nil, ite_self]
    decide +kernel

theorem witness_SluiceAndContainment :
    (let r : SReq := { pos := 0, len := 8, va := 0, host := true, addr := 0x200000, need := none }
     let q := { SQueue.reset with descs := [streamDesc 0 8 0], reqs := [r, { r with pos := 8 }], pos := 8 }
     let d := slcDev q
     q.reqs[0]? = some r ∧ d.binding 0 = some (0, 0) ∧ q.mustWait r = false ∧ ({ q with reqs := [{ r with host := false }, { r with pos := 8, host := false }], descs := [streamDesc 1 8 0] } : SQueue).mustWait
       { r with pos := 8, host := false } = true ∧ q.faultSince = none ∧ bit (d.reg Reg.ECC_FLIP_SEL) 31 = false ∧ sDir (streamDesc 0 8 0).w = 0 ∧
     sDir (streamDesc 2 8 0).w = 2 ∧ sBytes (streamDesc 0 8 0).w = 8 ∧ (∀ k : ICtx, (d.stepOf k).section_ = none) ∧
     (let e := { d with mem := Memory.setBytes d.mem (tileAddr 7 0) (List.replicate 8 1) }
      e.clean (tileAddr 7 0) 8 = true) ∧
     (let f := { d with cycle := 1600, regs := Tab.put d.regs Reg.SLC_FTMOc 1 }
      (f.reg (at1 Reg.SLC_FTMOc 4 0)).toNat = 1 ∧ 0 + 1600 * 1 ≤ f.cycle) ∧
     bit (d.reg Reg.SLC_INV) 31 = false ∧ d.regsUp (.host 0) = true ∧ (0xC000FFFF : Word) &&& 0x3FFF0000 = 0 ∧ (0x0000010F : Word) &&& 0xFFFFFEF0 = 0 ∧
     (let h := slcDev { SQueue.reset with faultSince := some 0, record := [0, 0xFFFF0000, 0] }
      let x := { h with regs := Tab.put h.regs Reg.SLC_SEL 0x001F0000 }
      x.regFld Reg.SLC_SEL 0 8 * 32 + x.regFld Reg.SLC_SEL 16 5 = 31 ∧ (x.queue 31).faultSince ≠ none ∧ (x.queue 31).record ≠ [] ∧
      fld (wordAt (x.queue 31).record 1) 16 16 = fld (0x0000FFFF : Word) 0 16)) ∧
    (let d := { up with ecc := { up.ecc with fenced := [215] }, regs := Tab.put up.regs Reg.ECC_FLIP_MASK_LO 1 }
     (0x810006BF : Word) &&& 0x7CFFF800 = 0 ∧ fld (0x800006BF : Word) 24 2 = 0 ∧ fld (0x800006BF : Word) 0 11 = 1727 ∧ fld (0x830006BF : Word) 24 2 = 3 ∧
     bit (d.reg Reg.ECC_FLIP_SEL) 31 = false ∧ d.reg Reg.ECC_FLIP_MASK_LO ≠ 0 ∧ ({ State.reset.sk with debug := 2 } : Skeop).debug = 2 ∧
     (0x000000D7 : Word) &&& 0xFFFFFF00 = 0 ∧ fld (0x000000D7 : Word) 0 8 = 215 ∧ fld (0x000000D8 : Word) 0 8 = 216 ∧ d.isFenced 215 = true ∧
     d.isFenced 0 = false ∧ d.binding 215 = none ∧ d.binding 0 = some (0, 0) ∧ d.ecc.pending = [] ∧
     (let e := { d with cycle := 1600000, ecc := { d.ecc with pending := [{ mill := 0, trigger := 0, ictx := 0, since := 0 }] } }
      0 + 1600 * (e.reg Reg.ECC_FENCE_TMO).toNat ≤ e.cycle ∧ (e.img 0).state = .running) ∧
     d.stage = .ready ∧ d.park.stage ≠ .parked ∧ ¬(d.hbmSize / 8 ≤ 0 + 1) ∧
     ({ d with mem := Memory.setBytes [] (tileAddr 0 0) (List.replicate 8 1) } : Dev).clean (tileAddr 0 0) 8 = true) := by decide +kernel

theorem witness_MillEngine_unread :
    (let m := { Mill.reset with queue := [passC], loading := some (1, 1) }
     let d := engine m []
     m.fault = none ∧ d.ecc.pending = [] ∧ (∀ c l, d.binding 0 = some (c, l) → (d.img c).state = .running) ∧
     (d.read 4 (ctxAddr 0 (d.bandCtx 0 0 passC.ctx) (passWaddr passC.w0)) 4096).bytes = none) := by
  refine ⟨by decide +kernel, by decide +kernel, ?_, by decide +kernel⟩
  intro c l h
  have h0 : (engine { Mill.reset with queue := [passC], loading := some (1, 1) } []).binding 0 = some (0, 0) := by decide +kernel
  rw [h0] at h
  obtain ⟨rfl, rfl⟩ := Prod.mk.inj (Option.some.inj h)
  decide +kernel

theorem witness_SyncHomes_frames :
    (let d := fun (o : SyncObj) (fly : List SyncEvt) => ({ flumeDev 0 1 id with objs := [(16383, o)], syncFly := fly } : Dev)
     let f := fun (op : Nat) => frame6 6 0 0x20003800 (BitVec.ofNat 32 (op * 2 ^ 16 + 16383)) 0 (bytesOf 8 8)
     let arm : SyncEvt := { kind := .arm, phys := 16383, bytes := 0, tile := none, waiter := none, ictx := 0, vid := 5, far := true }
     let mine := fun (o : SyncObj) => decide ((o.ictx = 0 ∧ o.domain = false) ∨ (o.ictx ≠ 0 ∧ ∃ m ∈ o.mapped, m.1 = 0))
     ([0, 1, 2].all fun op => decide (fld (f op).arg1 16 2 = op ∧ fld (f op).arg1 0 14 = 16383 ∧ (f op).cls = frameClass 6 ∧ (f op).dfa = 5 ∧
       (f op).enc = (flumeDev 0 1 id).portEnc 0)) = true ∧
     (d SyncObj.free []).jobCtx 7 = some 0 ∧ ((d SyncObj.free []).obj 16383).state = .free ∧
     (let o := { home .idle 5 with ictx := 3, mapped := [(0, 9)] }
      o.ictx ≠ 0 ∧ mine o = true ∧ ((o.mapped.find? fun m => decide (m.1 = 0)).map (·.2)) = some 9) ∧
     ({ home .idle 5 with ictx := 3 } : SyncObj).mapped = [] ∧ mine (home .idle 5) = true ∧ (home .idle 5).shared = false ∧ (home .idle 5).sigs ≠ 0 ∧
     ({ home .idle 5 with sigs := 0 } : SyncObj).sigs = 0 ∧ (home .broken 5).state = .broken ∧
     ({ home .broken 5 with shared := true } : SyncObj).shared = true ∧ (∀ e ∈ (d (home .broken 5) []).syncFly, ¬(e.kind = .arm ∧ e.phys = 16383)) ∧
     ¬(∀ e ∈ (d (home .broken 5) [arm]).syncFly, ¬(e.kind = .arm ∧ e.phys = 16383))) := by decide +kernel

theorem witness_SyncHomes_gates :
    (homeDev (home .free 5) [evt .signal 0] Step.reset).syncFly[0]? = some (evt .signal 0) ∧
    (let d := homeDev (home .idle 0) [] Step.reset
     (({ d with imgs := [(0, { runImg with due := some { cause := 0x02, force := true, unload := none } })] } : Dev).img 0).due ≠ none ∧
     (({ d with imgs := [(0, { runImg with wait := .stopAtBoundary })] } : Dev).img 0).wait = .stopAtBoundary) ∧
    (let q := { seqOf .ended streamW id with pos := 0 }
     q.leadWaits = true ∧ ({ q with pos := 1 } : XSeq).leadWaits = false ∧ (seqOf .opened streamW id).leadWaits = false) := by decide +kernel

theorem witness_SluiceAndContainment_paths :
    (let r : SReq := { pos := 0, len := 8, va := 0, host := false, addr := 0x200000, need := none }
     let q := { SQueue.reset with descs := [streamDesc 0 8 0], reqs := [r], pos := 8 }
     let d := { slcDev q with mem := Memory.setBytes (slcDev q).mem 0x200000 (List.replicate 8 1) }
     let left := d.setQueue 31 { q with reqs := [] }
     q.mustWait r = false ∧ (left.read 7 r.addr 8).dev.ecc.pending = d.ecc.pending ∧ (left.read 7 r.addr 8).bytes = some (List.replicate 8 1) ∧
     (((slcDev q).setQueue 31 { q with reqs := [] }).read 7 r.addr 8).bytes = none ∧ d.ecc.hbmMode ≠ 1 ∧
     (∀ y ∈ q.descs, y.entry = none) ∧
     (let t := fun (cycle : Nat) => { slcDev { SQueue.reset with faultSince := some 0, descs := [streamDesc 0 8 0] } with
        cycle := cycle, regs := Tab.put (slcDev q).regs Reg.SLC_FTMOc 1 }
      0 + 1600 * 1 < (t 1601).cycle ∧ (t 1600).cycle ≤ 0 + 1600 * 1 ∧ ((t 1601).reg (at1 Reg.SLC_FTMOc 4 0)).toNat = 1) ∧
     bit (d.reg Reg.SLC_ERR_INFO) 31 = false ∧ d.commitRuns 0 = false) := by decide +kernel

/-- A word of device memory that nothing has written is poison, and reading it leaves no fence pending. -/
theorem witness_SluiceAndContainment_unread :
    ((slcDev SQueue.reset).readWord 7 0x200000 true).1.ecc.pending = (slcDev SQueue.reset).ecc.pending := by
  have h1 : (slcDev SQueue.reset).onLostDie 0x200000 = false := by decide +kernel
  have h2 : (slcDev SQueue.reset).checkWord 0x200000 = .ue true := by decide +kernel
  unfold Dev.readWord Dev.uncorrectable
  simp [h1, h2, reportUe_ecc]

/-! ### The queue and Skeop's soundness -/

theorem witness_StepRunsTheFrontCommand : State.reset.pending = [] := rfl

theorem witness_SkeopSoundnessInvariant : State.reset.sk.sound := by unfold Skeop.sound; decide +kernel

/-! ### Ill-formed commands -/

/-- A frame that fits its header. -/
def fits : Frame := frame6 2 4095 0 0 0 (List.replicate 8 0)

theorem test_wf_register_data : (Instr.registerWrite .skeop 0 4 0xFFFFFFFF).wf = true ∧ (Instr.registerWrite .skeop 0 4 0x100000000).wf = false := by decide
theorem test_wf_hopper_operand : (Instr.hopperOperandRead .jr (alone 1 0 false)).wf = true ∧ (Instr.hopperOperandRead .br (alone 1 0 false)).wf = false := by decide
theorem test_wf_lanes : (Instr.portTrainDone 0 8).wf = true ∧ (Instr.portTrainDone 0 9).wf = false := by decide
theorem test_wf_lseq : (Instr.frameCrcFail 0 4096 none).wf = false ∧ (Instr.linkAck 0 4096).wf = false ∧ (Instr.linkNak 0 4096).wf = false := by decide
theorem test_wf_psn : (Instr.roceNak 16 0 16777216).wf = false := by decide
theorem test_wf_message : (Instr.digest 16 []).wf = false ∧ (Instr.keepalive 16 []).wf = false ∧ (Instr.rjStart 16 []).wf = false ∧
    (Instr.rjDone 16 []).wf = false ∧ (Instr.rjAbort 16 []).wf = false := by decide
theorem test_wf_ring_entry : (Instr.cmdFetch 0 (some (List.replicate 15 0))).wf = false ∧ (Instr.cmdFetch 0 (some (List.replicate 16 0))).wf = true := by decide
theorem test_wf_image : (Instr.load 0 (some [0]) none).wf = false ∧ (Instr.load 0 none (some [0])).wf = false := by decide
theorem test_wf_bar2 : (Instr.bar2Read 0 0 0).wf = false ∧ (Instr.bar2Write 0 0 []).wf = false := by decide
theorem test_wf_frame : fits.wf = true ∧ ({ fits with cls := 4 } : Frame).wf = false ∧ ({ fits with kind := 16 } : Frame).wf = false ∧
    ({ fits with ttl := 256 } : Frame).wf = false ∧ ({ fits with dfa := 65536 } : Frame).wf = false ∧ ({ fits with sfa := 65536 } : Frame).wf = false ∧
    ({ fits with lseq := 4096 } : Frame).wf = false ∧ ({ fits with flow := 65536 } : Frame).wf = false ∧ ({ fits with payload := [0] } : Frame).wf = false := by
  decide

/-! ### Results that the manual gives -/

/-- Scalar 1 of context 1 of tile 0 after a command. -/
def s1After (o : Host.Outcome State Fault Refusal) : Option Word :=
  match o with
  | .next t => some ((t.dev.ctx 0 1).s[1])
  | _ => none

/-- R93: add wraps, sub borrows, sra keeps the sign. -/
theorem test_add_wraps : s1After (exec (.add (alone 1 (word3 0x01 0) false)) (tileState (tileOf 1 (regs3 8 0 0xFFFFFFFF 2)) (word3 0x01 0) false)) = some 1 := by
  decide +kernel
theorem test_sra_sign : s1After (exec (.sra (alone 1 (word3 0x01 7) false)) (tileState (tileOf 1 (regs3 8 0 0x80000000 4)) (word3 0x01 7) false)) =
    some 0xF8000000 := by decide +kernel

/-- The worked example of chapter 4: sixteen FP32 values in one FP4 block under RNE: the scale byte, the eight data bytes, and what is
flushed and saturated. -/
theorem test_fp4_block :
    (let r := narrowBlock .e2m1 false (fun _ => .rne) ([0x3F500000, 0xBFB00000, 0x3D400000, 0x403A0000, 0xBED00000, 0x00000000, 0x3F900000, 0xC0560000,
        0x3E880000, 0x3F280000, 0xBDC00000, 0x3FF40000, 0xC00C0000, 0x3C000000, 0x3F400000, 0xBF880000].map f32)
     (r.1, packElems .e2m1 (r.2.map (·.code)), (r.2.filter (·.ftz)).length, (r.2.filter (·.sat)).length)) =
    (0x31, [0xC3, 0x70, 0x09, 0xF4, 0x21, 0x58, 0x0E, 0xC3], 3, 0) := by decide +kernel

/-- The example of R25 and its table: the extent, and a first dimension of 5, 6 and 0. -/
def twoDims (count1 : Nat) : List Word :=
  [0x00020040, 0, 0x1000, 0, 0, 0, BitVec.ofNat 32 (4 + count1 * 2 ^ 16), 0, 0, 256, 0xFFFFFC00, 0, 0, 0, 0, 0]
theorem test_extent : sExtent (twoDims 3) = (0x800, 0x1340) ∧ descStatus (twoDims 5) 0x2000 0x600000 = sOk ∧ descStatus (twoDims 6) 0x2000 0x600000 = sBound ∧
    descStatus (twoDims 0) 0x2000 0x600000 = sLen := by decide +kernel

/-- R121, R122 as chapter 3 works them out: T2 × FP4, FP4 × FP4, FP8 × FP8 and BF16 bands with blocks of 32. -/
theorem test_bands : ([(10, 7), (7, 7), (3, 3), (1, 1)].map fun x => (passPair x.1 x.2).map fun p => (weightBytes p 32, actBytes p 32 1)) =
    [some (4096 + 512, 34), some (4096 + 256, 17), some (4096 + 128, 33), some (4096, 32)] := by decide +kernel

/-- The example of R275: stack, channel and the granule's number in the stack, which holds 32 channels. -/
theorem test_interleave : hbmStack 0x0000000123456000 = 6 ∧ hbmChannel 0x0000000123456000 = 28 ∧
    hbmIndex 0x0000000123456000 * 32 + hbmChannel 0x0000000123456000 = 99420 := by decide +kernel

/-- The example of R591: the first word of the record of a dry event of mill 41. -/
theorem test_event_word : (((powered id).dev.event 0x5002 41 0 0 0).evr.sram.getLast?.map fun r => wordAt r.words 0) = some 0x28295002 := by decide +kernel

end Sys2Proof.Tests
end

/-!
PROOF. O12: what the `slc.*` instructions do. Each of them issues in the same way, so its issue is settled once
(`exec_slc`), and what is left is one lemma for each effect on a Sluice queue.
-/
namespace Sys2Proof.Machine

/-! ### A context that may issue -/

/-- A context that may issue runs, and its tile is bound to the image context it issues in (R53). -/
theorem tileCtx_run_of_canIssue {d : Dev} {t : Nat} {k : HCtx} {ic : Nat} (h : d.canIssue t k = some ic) :
    d.tileCtx t = some ic ∧ (d.ctx t k).run = .run := by
  unfold Dev.canIssue at h
  split at h
  · cases h
  next c hc =>
    dsimp only at h
    split at h
    next hx =>
      obtain ⟨_, _, _, _, _, hrun, _, _⟩ := hx
      exact ⟨hc.trans h, hrun⟩
    · cases h

/-- What the hypothesis that an instruction issues alone and legally comes to. -/
theorem takes_iff {d : Dev} {op : TileOp} {i : Issue} {ic : Nat} : d.takes op i ic = true ↔
    d.issues op i ic = true ∧ issueAlone i = true ∧ illegal (d.own i) op i.word i.inB = false ∧
      ((d.own i).preg (predOf i.word)).toNat.testBit 0 = true := by
  simp [Dev.takes, and_assoc]

theorem tileCtx_run_of_takes {d : Dev} {op : TileOp} {i : Issue} {ic : Nat} (h : d.takes op i ic = true) :
    d.tileCtx i.tile.val = some ic ∧ (d.own i).run = .run := by
  have hi := (takes_iff.1 h).1
  simp only [Dev.issues, Bool.and_eq_true, decide_eq_true_eq] at hi
  exact tileCtx_run_of_canIssue hi.1

@[simp] theorem advance_ctx (d : Dev) (t : Nat) (k : HCtx) :
    (d.advance t k).ctx t k = { d.ctx t k with pc := (d.ctx t k).pc + 8 } := by simp [Dev.advance]
@[simp] theorem advance_tileCtx (d : Dev) (t : Nat) (k : HCtx) (n : Nat) : (d.advance t k).tileCtx n = d.tileCtx n := rfl
@[simp] theorem setCtx_queue (d : Dev) (t : Nat) (k : HCtx) (c : Ctx) (n : Nat) : (d.setCtx t k c).queue n = d.queue n := rfl
@[simp] theorem putS_queue (d : Dev) (t : Nat) (k : HCtx) (r : Nat) (v : Word) (n : Nat) : (d.putS t k r v).queue n = d.queue n := rfl
@[simp] theorem advance_queue (d : Dev) (t : Nat) (k : HCtx) (n : Nat) : (d.advance t k).queue n = d.queue n := rfl

/-- Writing a scalar register and moving the pc may be done in either order. -/
theorem setS_pc_comm (c : Ctx) (p : BitVec 23) (n : Nat) (v : Word) :
    ({ c with pc := p } : Ctx).setS n v = { c.setS n v with pc := p } := by unfold Ctx.setS; split <;> rfl

/-- Writing a scalar register and setting what the context holds may be done in either order. -/
theorem setS_hold_comm (c : Ctx) (x : Option Hold) (n : Nat) (v : Word) :
    ({ c with hold := x } : Ctx).setS n v = { c.setS n v with hold := x } := by unfold Ctx.setS; split <;> rfl

/-! ### States that differ in one context -/

theorem onlyCtx_setCtx (s : State) (t : Nat) (k : HCtx) (c : Ctx) : OnlyCtx s (onDev (·.setCtx t k c) s) t k c :=
  ⟨rfl, rfl, rfl, by simp [setCtx_tile], fun j hj => by simp [setCtx_tile, hj]⟩

/-- Of two changes of one context the second stands. -/
theorem OnlyCtx.trans {s s1 s2 : State} {t : Nat} {k : HCtx} {c1 c2 : Ctx} (h : OnlyCtx s s1 t k c1) (g : OnlyCtx s1 s2 t k c2) :
    OnlyCtx s s2 t k c2 := by
  obtain ⟨hp, hk, hd, ht, hj⟩ := h
  obtain ⟨gp, gk, gd, gt, gj⟩ := g
  refine ⟨gp.trans hp, gk.trans hk, ?_, ?_, fun j x => (gj j x).trans (hj j x)⟩
  · rw [← hd, ← gd]
  · rw [gt, ht]; simp

theorem OnlyCtx.sluice {s s' : State} {t : Nat} {k : HCtx} {c : Ctx} (h : OnlyCtx s s' t k c) : s'.dev.sluice = s.dev.sluice := by
  obtain ⟨_, _, hd, _, _⟩ := h
  exact (congrArg Dev.sluice hd :)

theorem OnlyCtx.queue {s s' : State} {t : Nat} {k : HCtx} {c : Ctx} (h : OnlyCtx s s' t k c) (n : Nat) :
    s'.dev.queue n = s.dev.queue n := by unfold Dev.queue; rw [h.sluice]

theorem OnlyCtx.ctx {s s' : State} {t : Nat} {k : HCtx} {c : Ctx} (h : OnlyCtx s s' t k c) : s'.dev.ctx t k = c := by
  obtain ⟨_, _, _, ht, _⟩ := h
  simp [Dev.ctx, ht]

/-- A context whose bundle has issued and which has written one scalar register. -/
theorem onlyCtx_advance_putS (s : State) (t : Nat) (k : HCtx) (n : Nat) (v : Word) :
    OnlyCtx s { s with dev := (s.dev.advance t k).putS t k n v } t k
      { (s.dev.ctx t k).setS n v with pc := (s.dev.ctx t k).pc + 8 } := by
  have h := onlyCtx_advance s t k { (s.dev.ctx t k).setS n v with pc := (s.dev.ctx t k).pc + 8 }
  simpa only [onDev, Dev.putS, advance_ctx, setS_pc_comm] using h

/-! ### The issue of an `slc.*` instruction -/

theorem clsOf_slc_iff {op : TileOp} : clsOf op = some .slc ↔ op = .slcIssue ∨ op = .slcLim ∨ op = .slcWait ∨ op = .slcStat := by
  cases op <;> simp [clsOf]

/-- The effect of an `slc.*` instruction whose ra and rb hold `x` and `y` (R94). -/
def Dev.slcEffect (d : Dev) (op : TileOp) (t : Nat) (k : HCtx) (x y rc : Nat) : Dev :=
  match op with
  | .slcIssue => d.slcIssue t k x y rc
  | .slcStat => d.slcStat t k x rc
  | .slcWait => d.slcWait t k x rc
  | .slcLim => d.slcLim t k x y rc
  | _ => d

theorem effectB_slc {r : Run} {op : TileOp} {w : Word} (h : clsOf op = some .slc) (ho : r.off op w = false) (hk : r.kept = none)
    (d : Dev) (f : Fetched) (a : Slot) :
    d.effectB r op w f a = d.slcEffect op r.t r.k (r.ra w).toNat (r.rb w).toNat (f3 w) := by
  unfold Dev.effectB Dev.slcEffect
  rcases clsOf_slc_iff.1 h with rfl | rfl | rfl | rfl <;> simp [ho, hk]

/-- An `slc.*` instruction names no hopper. -/
theorem hopReads_slc {op : TileOp} (h : clsOf op = some .slc) (w : Word) : hopReads op w = [] := by simp [hopReads, isRForm, h]

/-- An `slc.*` instruction makes no access through the bound and needs no privilege, so that a legal one meets no early trap. -/
theorem earlyTrap_slc {d : Dev} {r : Run} {op : TileOp} {w : Word} {inB : Bool} (h : clsOf op = some .slc)
    (hl : illegal r.c op w inB = false) : earlyTrap d r op w inB = none := by
  unfold earlyTrap
  rcases clsOf_slc_iff.1 h with rfl | rfl | rfl | rfl <;> simp [hl, privTrap, alignTrap, boundTrap, accesses]

theorem lateTrap_slc {r : Run} {op : TileOp} (h : clsOf op = some .slc) (w : Word) : lateTrap r op w = none := by
  unfold lateTrap
  rcases clsOf_slc_iff.1 h with rfl | rfl | rfl | rfl <;> simp

theorem accessB_slc {op : TileOp} (h : clsOf op = some .slc) (d : Dev) (r : Run) (w : Word) :
    d.accessB r op w = { dev := d, data := [], scale := 0, trap := none } := by
  unfold Dev.accessB
  rcases clsOf_slc_iff.1 h with rfl | rfl | rfl | rfl <;> simp

/-- Only an `slc.issue` can stall, and only where its queue holds eight descriptors (R283). -/
theorem stallsB_slc {d : Dev} {r : Run} {op : TileOp} {w : Word} (h : clsOf op = some .slc)
    (hs : op = .slcIssue → 3 < (r.ra w).toNat ∨ (d.queue (4 * r.t + (r.ra w).toNat)).descs.length < 8) :
    d.stallsB r op w = false := by
  unfold Dev.stallsB
  rcases clsOf_slc_iff.1 h with rfl | rfl | rfl | rfl
  case inl =>
    have : d.slcStalls r.t r.k (r.ra w).toNat (r.rb w).toNat r.kept = false := by
      unfold Dev.slcStalls queueKey
      rcases hs rfl with hq | hq
      · simp [Nat.not_le.2 hq]
      · simp [Nat.not_le.2 hq]
    simp [this]
  all_goals simp

/-- An `slc.*` instruction that issues alone moves the pc on and takes effect, but for an `slc.issue` to a full queue (R54, R283). -/
theorem exec_slc {op : TileOp} {i : Issue} {ic : Nat} {s : State} (hc : clsOf op = some .slc) (h : s.dev.takes op i ic = true)
    (hs : op = .slcIssue → 3 < ((s.dev.own i).sreg (f1 i.word)).toNat ∨
      (s.dev.queue (4 * i.tile.val + ((s.dev.own i).sreg (f1 i.word)).toNat)).descs.length < 8) :
    exec (tileInstr op i) s = .next { s with
      dev := (s.dev.advance i.tile.val i.ctx).slcEffect op i.tile.val i.ctx ((s.dev.own i).sreg (f1 i.word)).toNat
        ((s.dev.own i).sreg (f2 i.word)).toNat (f3 i.word) } := by
  obtain ⟨hi, ha, hl, hp⟩ := takes_iff.1 h
  have hB : i.inB = true := by simpa [slotOk, hc] using slotOk_of_legal hl
  have hm : op ≠ .memFill ∧ op ≠ .memCopy ∧ op ≠ .hopRsend := by
    rcases clsOf_slc_iff.1 hc with rfl | rfl | rfl | rfl <;> decide
  rw [hB] at hl
  have hissue := issueB hi ha hB (hopReads_slc hc _) hm (earlyTrap_slc hc hl) (lateTrap_slc hc _) (accessB_slc hc _ _ _)
    (stallsB_slc hc hs)
  have hoff : (runOf s.dev ic i.tile.val i.ctx { op := op, word := i.word } (s.dev.freeIx + 1)).off op i.word = false := by
    simp only [Run.off, Bool.and_eq_false_iff, Bool.not_eq_false']
    exact .inr hp
  rw [effectB_slc hc hoff rfl] at hissue
  rw [exec_tileInstr, onDev, hissue]
  rfl

/-! ### Queue numbers above 3 (R634) -/

/-- The first violation captured stands in `_ERR_INFO`. -/
theorem capture_info {d : Dev} {base : Nat} (lo hi info : Nat) (h : bit (d.reg (base + 8)) 31 = false) :
    (d.capture base lo hi info).reg (base + 8) = BitVec.ofNat 32 (2 ^ 31 + 2 ^ 16 + info % 2 ^ 16) := by
  simp [Dev.capture, h]

/-- A violation of the store block that is the first sets VALID, SOURCE and STATUS (R310, R522). -/
theorem slcError_info {d : Dev} (tile : Bool) (addr c : Nat) {source status : Nat} (hsrc : source < 16) (hst : status < 16)
    (h : bit (d.reg Reg.SLC_ERR_INFO) 31 = false) :
    let w := (d.slcError tile addr c source status).reg Reg.SLC_ERR_INFO
    bit w 31 = true ∧ fld w 8 4 = source ∧ fld w 0 4 = status := by
  have hw : (d.slcError tile addr c source status).reg Reg.SLC_ERR_INFO = _ := capture_info (base := Reg.SLC_ERR_ADDR_LO) _ _ _ h
  dsimp only
  rw [hw]
  simp only [bit, fld, fldN, BitVec.toNat_ofNat, Nat.testBit_eq_decide_div_mod_eq, Nat.shiftRight_eq_div_pow, decide_eq_true_eq]
  omega

/-- An `slc.*` instruction whose ra names no queue is refused and does nothing else. -/
theorem slcEffect_refused {op : TileOp} (hc : clsOf op = some .slc) (d : Dev) (t : Nat) (k : HCtx) {x : Nat} (hx : 3 < x) (y rc : Nat) :
    d.slcEffect op t k x y rc = (d.refuseQueue t x sParam).putS t k rc (if op = .slcStat then 0xFFFFFFFF else 0xB) := by
  rcases clsOf_slc_iff.1 hc with rfl | rfl | rfl | rfl <;>
    simp [Dev.slcEffect, Dev.slcIssue, Dev.slcStat, Dev.slcWait, Dev.slcLim, hx]

/-- No queue whose fields are in their ranges reports all-ones: bit 28 of its status word is 0 (R285). -/
theorem word_ne_allOnes {q : SQueue} : q.state < 4 → q.code < 16 → q.descs.length ≤ 8 → q.limit ≤ 64 → q.reqs.length ≤ 64 →
    q.word ≠ 0xFFFFFFFF := by
  intro hstate hcode hdescs hlimit hreqs h
  have hn := congrArg BitVec.toNat h
  rw [SQueue.word, BitVec.toNat_ofNat, show (0xFFFFFFFF : Word).toNat = 0xFFFFFFFF from rfl] at hn
  omega

theorem state_lt_four (q : SQueue) : q.state < 4 := by
  unfold SQueue.state
  split
  · decide
  · split
    · decide
    · split <;> decide

/-! ### `slc.issue` (R283, R290) -/

/-- A descriptor that lies in the bound, aligned and clean, is read and its fields are checked, and the read changes nothing. -/
theorem checkDesc_clean {d : Dev} {t : Nat} {k : HCtx} {key addr : Nat} (hq : (d.queue key).halt = none) (ha : addr % 64 = 0)
    (hb : addr + 64 ≤ (d.ctx t k).bound.toNat) (hc : d.clean (ctxAddr t (d.ctx t k) addr) 64 = true) :
    d.checkDesc t k key addr =
      (d, descStatus (wordsOf 16 (d.bytesAt (ctxAddr t (d.ctx t k) addr) 64)) (d.vlim ((d.tileCtx t).getD 0)) (d.ctx t k).bound.toNat,
        wordsOf 16 (d.bytesAt (ctxAddr t (d.ctx t k) addr) 64)) := by
  have hin : inBound (d.ctx t k).bound.toNat addr 64 = true := by simpa [inBound] using hb
  simp [Dev.checkDesc, hq, ha, hin, read_clean 7 hc]

/-- A descriptor that passes its checks is put behind the others, and rc receives OK. -/
theorem slcIssue_ok {d : Dev} {t : Nat} {k : HCtx} {x addr rc : Nat} {w : List Word} (hx : x ≤ 3)
    (h : d.checkDesc t k (4 * t + x) addr = (d, sOk, w)) :
    d.slcIssue t k x addr rc =
      (d.pushDesc (4 * t + x) w (d.ctx t k).base.toNat (d.ctx t k).bound.toNat none).putS t k rc 0 := by
  simp [Dev.slcIssue, Nat.not_lt.2 hx, Dev.issueCheck, queueKey, h]

/-! ### `slc.lim` and `slc.stat` (R285, R294) -/

theorem slcLim_ok {x y : Nat} (hx : x ≤ 3) (h1 : 1 ≤ y) (h64 : y ≤ 64) (d : Dev) (t : Nat) (k : HCtx) (rc : Nat) :
    d.slcLim t k x y rc = (d.setQueue (4 * t + x) { d.queue (4 * t + x) with limit := y }).putS t k rc 0 := by
  simp [Dev.slcLim, Nat.not_lt.2 hx, Nat.not_lt.2 h64, Nat.one_le_iff_ne_zero.1 h1, queueKey]

theorem slcStat_ok {x : Nat} (hx : x ≤ 3) (d : Dev) (t : Nat) (k : HCtx) (rc : Nat) :
    d.slcStat t k x rc = d.putS t k rc (d.queue (4 * t + x)).word := by
  simp [Dev.slcStat, Nat.not_lt.2 hx, queueKey]

/-! ### `slc.wait` (R286) -/

/-- An `slc.wait` on queue `n` of tile `t` has returned: CODE of the queue is now OK, its value before stands in rc of the context,
which was `c0` and holds nothing, and nothing else differs. -/
def WaitReturned (s s' : State) (t : Nat) (k : HCtx) (n rc : Nat) (c0 : Ctx) : Prop :=
  s'.dev.queue (4 * t + n) = { s.dev.queue (4 * t + n) with code := sOk } ∧
  (∀ j, j ≠ 4 * t + n → s'.dev.queue j = s.dev.queue j) ∧
  OnlyCtx s { s' with dev := { s'.dev with sluice := s.dev.sluice } } t k
    { c0.setS rc (BitVec.ofNat 32 (s.dev.queue (4 * t + n)).code) with hold := none }

/-- A change of the context alone that comes before the return leaves what the return does as it is. -/
theorem WaitReturned.after_onlyCtx {s s1 s2 : State} {t : Nat} {k : HCtx} {n rc : Nat} {c1 c0 : Ctx} (h : OnlyCtx s s1 t k c1)
    (g : WaitReturned s1 s2 t k n rc c0) : WaitReturned s s2 t k n rc c0 := by
  obtain ⟨gq, gk, gc⟩ := g
  rw [h.sluice, h.queue] at gc
  exact ⟨by rw [gq, h.queue], fun j hj => by rw [gk j hj, h.queue], h.trans gc⟩

/-- What the context held before the return does not matter: afterwards it holds nothing. -/
theorem waitReturned_hold_iff {s s' : State} {t : Nat} {k : HCtx} {n rc : Nat} {c0 : Ctx} (x : Option Hold) :
    WaitReturned s s' t k n rc { c0 with hold := x } ↔ WaitReturned s s' t k n rc c0 := by
  simp only [WaitReturned, setS_hold_comm]

/-- A context that waits for a queue that is quiet takes its code. -/
theorem slcReturn_quiet {s : State} {t : Nat} {k : HCtx} {n rc : Nat} (hh : (s.dev.ctx t k).hold = some (.slc n rc))
    (hr : (s.dev.ctx t k).run ≠ .halted) (hq : queueQuiet (s.dev.queue (4 * t + n)) = true) :
    WaitReturned s (onDev (·.slcReturn t k) s) t k n rc (s.dev.ctx t k) := by
  have he : s.dev.slcReturn t k = (s.dev.setQueue (4 * t + n) { s.dev.queue (4 * t + n) with code := sOk }).setCtx t k
      { (s.dev.ctx t k).setS rc (BitVec.ofNat 32 (s.dev.queue (4 * t + n)).code) with hold := none } := by
    simp [Dev.slcReturn, hh, hr, queueKey, hq]
  unfold WaitReturned
  rw [onDev_dev, he]
  refine ⟨by rw [setCtx_queue, setQueue_queue_same], fun j hj => ?_, onlyCtx_setCtx s t k _⟩
  rw [setCtx_queue, setQueue_queue_ne _ _ hj]

/-- A context that waits for a queue that is not quiet goes on waiting. -/
theorem slcReturn_busy {d : Dev} {t : Nat} {k : HCtx} {n rc : Nat} (hh : (d.ctx t k).hold = some (.slc n rc))
    (hq : queueQuiet (d.queue (4 * t + n)) = false) : d.slcReturn t k = d := by
  simp [Dev.slcReturn, hh, queueKey, hq]

/-- The state in which an `slc.wait` has issued and its context begins to wait. -/
def slcWaiting (t : Nat) (k : HCtx) (x rc : Nat) (s : State) : State :=
  onDev (fun d => (d.advance t k).setCtx t k { d.ctx t k with pc := (d.ctx t k).pc + 8, hold := some (.slc x rc) }) s

theorem onlyCtx_slcWaiting (t : Nat) (k : HCtx) (x rc : Nat) (s : State) : OnlyCtx s (slcWaiting t k x rc s) t k
    { s.dev.ctx t k with pc := (s.dev.ctx t k).pc + 8, hold := some (.slc x rc) } := onlyCtx_advance s t k _

theorem slcWait_eq {x : Nat} (hx : x ≤ 3) (t : Nat) (k : HCtx) (rc : Nat) (s : State) :
    { s with dev := (s.dev.advance t k).slcWait t k x rc } = onDev (·.slcReturn t k) (slcWaiting t k x rc s) := by
  simp [onDev, Dev.slcWait, slcWaiting, Nat.not_lt.2 hx]

theorem slcWait_quiet {s : State} {t : Nat} {k : HCtx} {x : Nat} (rc : Nat) (hx : x ≤ 3) (hr : (s.dev.ctx t k).run ≠ .halted)
    (hq : queueQuiet (s.dev.queue (4 * t + x)) = true) :
    WaitReturned s { s with dev := (s.dev.advance t k).slcWait t k x rc } t k x rc
      { s.dev.ctx t k with pc := (s.dev.ctx t k).pc + 8 } := by
  have hw := onlyCtx_slcWaiting t k x rc s
  have hret := slcReturn_quiet (s := slcWaiting t k x rc s) (n := x) (rc := rc) (by rw [hw.ctx]) (by rw [hw.ctx]; exact hr)
    (by rw [hw.queue]; exact hq)
  have := WaitReturned.after_onlyCtx hw hret
  rw [hw.ctx] at this
  rw [slcWait_eq hx]
  exact (waitReturned_hold_iff (c0 := { s.dev.ctx t k with pc := (s.dev.ctx t k).pc + 8 }) _).1 this

theorem slcWait_busy {s : State} {t : Nat} {k : HCtx} {x : Nat} (rc : Nat) (hx : x ≤ 3)
    (hq : queueQuiet (s.dev.queue (4 * t + x)) = false) :
    OnlyCtx s { s with dev := (s.dev.advance t k).slcWait t k x rc } t k
      { s.dev.ctx t k with pc := (s.dev.ctx t k).pc + 8, hold := some (.slc x rc) } := by
  have hw := onlyCtx_slcWaiting t k x rc s
  have hb : (slcWaiting t k x rc s).dev.slcReturn t k = (slcWaiting t k x rc s).dev :=
    slcReturn_busy (n := x) (rc := rc) (by rw [hw.ctx]) (by rw [hw.queue]; exact hq)
  rw [slcWait_eq hx]
  simpa only [onDev, hb] using hw

/-! ### The statement -/

/-- Settles O12: every clause is the issue of the instruction (`exec_slc`) and the lemma of its effect. -/
theorem sluiceInstructions : Obligations.SluiceInstructions := by
  unfold Obligations.SluiceInstructions
  intro i ic s
  dsimp only
  refine ⟨?issue, ?words, ?refused, ?stat, ?lim, ?wait, ?waitReturn⟩
  case issue =>
    intro h hx hq hlen ha hb hc hst
    have hchk := checkDesc_clean (d := s.dev.advance i.tile.val i.ctx) (t := i.tile.val) (k := i.ctx)
      (key := 4 * i.tile.val + ((s.dev.own i).sreg (f1 i.word)).toNat) hq ha (by rwa [advance_ctx]) (by rw [advance_ctx]; exact hc)
    rw [advance_ctx, advance_tileCtx, (tileCtx_run_of_takes h).1] at hchk
    have he := exec_slc (op := .slcIssue) rfl h fun _ => .inr hlen
    simp only [Dev.slcEffect] at he
    rw [slcIssue_ok hx (hchk.trans (congrArg (fun st => (_, st, _)) hst)), advance_ctx] at he
    exact he
  case words => exact fun n => ⟨state_lt_four _, word_ne_allOnes (state_lt_four _)⟩
  case refused =>
    intro op hop h hx
    let d := s.dev.advance i.tile.val i.ctx
    have hc : clsOf op = some .slc := clsOf_slc_iff.2 (by simpa using hop)
    refine ⟨d.slcError false 0 ((d.tileCtx i.tile.val).getD 0) 0 sParam, 0, capture_logs _ _ _ _ _,
      slcError_info _ _ _ (by decide) (by decide), ?_⟩
    rw [exec_slc hc h fun _ => .inl hx, slcEffect_refused hc _ _ _ hx]
    rfl
  case stat =>
    intro h hx
    have he := exec_slc (op := .slcStat) rfl h nofun
    simp only [Dev.slcEffect, slcStat_ok hx] at he
    exact ⟨_, he, onlyCtx_advance_putS s _ _ _ _⟩
  case lim =>
    intro h hx h1 h64
    have he := exec_slc (op := .slcLim) rfl h nofun
    simp only [Dev.slcEffect, slcLim_ok hx h1 h64] at he
    have hctx := onlyCtx_advance_putS s i.tile.val i.ctx (f3 i.word) 0
    refine ⟨_, he, ?_, fun k hk => ?_, hctx⟩
    · rw [putS_queue, setQueue_queue_same, advance_queue]
    · rw [putS_queue, setQueue_queue_ne _ _ hk, advance_queue]
  case wait =>
    intro h hx
    have hrun : (s.dev.own i).run ≠ .halted := by rw [(tileCtx_run_of_takes h).2]; decide
    have he := exec_slc (op := .slcWait) rfl h nofun
    exact ⟨fun hq => ⟨_, he, slcWait_busy _ hx hq⟩, fun hq => ⟨_, he, slcWait_quiet _ hx hrun hq⟩⟩
  case waitReturn => exact fun n rc hh hr hq => ⟨_, rfl, slcReturn_quiet hh hr hq⟩

end Sys2Proof.Machine

/-!
PROOF. O18: fuses blow on COMMIT_SVN only. What a management request can do to Skeop is said once for each way of serving it
(`spdm_sk_cases` to `authorised_sk_cases`). From these it follows for every command but COMMIT_SVN that it keeps the fuses
(`exec_keepsFuses`), and for COMMIT_SVN what it can make of them (`commitSvn_sk`).
-/
namespace Sys2Proof.Machine

/-! ### Skeops with the same fuses -/

/-- No fuse has blown from `k` to `k'`, and an SVN of the running firmware that the 64 fuses can count stays one (R570). -/
def Skeop.KeepsFuses (k k' : Skeop) : Prop := k'.fusedSvn = k.fusedSvn ∧ (k.svnRun ≤ 64 → k'.svnRun ≤ 64)

theorem Skeop.KeepsFuses.refl (k : Skeop) : k.KeepsFuses k := ⟨rfl, id⟩

theorem Skeop.KeepsFuses.trans {k k' k'' : Skeop} (h : k.KeepsFuses k') (g : k'.KeepsFuses k'') : k.KeepsFuses k'' := by
  obtain ⟨hf, hr⟩ := h
  obtain ⟨gf, gr⟩ := g
  exact ⟨gf.trans hf, gr ∘ hr⟩

theorem Skeop.KeepsFuses.of_eq {k k' : Skeop} (hf : k'.fusedSvn = k.fusedSvn) (hr : k'.svnRun = k.svnRun) : k.KeepsFuses k' :=
  ⟨hf, fun h => hr ▸ h⟩

theorem Skeop.KeepsFuses.of_sk_eq {s t : State} (h : t.sk = s.sk) : s.sk.KeepsFuses t.sk := h ▸ .refl _

theorem onDev_keepsFuses (f : Dev → Dev) (s : State) : s.sk.KeepsFuses (onDev f s).sk := .refl s.sk

theorem rebooted_keepsFuses (k : Skeop) : k.KeepsFuses k.rebooted := ⟨rfl, fun _ => Nat.zero_le 64⟩

theorem close_keepsFuses (k : Skeop) (n : Nat) : k.KeepsFuses (k.close n) := .of_eq rfl rfl

theorem setSlot_keepsFuses (k : Skeop) (n : Nat) (f : FwSlot) : k.KeepsFuses (k.setSlot n f) := by
  unfold Skeop.setSlot
  split <;> exact .of_eq rfl rfl

/-! ### Register accesses leave Skeop as it was -/

theorem writeReg_sk (s : State) (who : Requester) (acc n off : Nat) (v : Word) : (s.writeReg who acc n off v).sk = s.sk := by
  unfold State.writeReg
  dsimp only
  repeat' split
  all_goals rfl

theorem write4_sk (s : State) (who : Requester) (acc n : Nat) (v : Word) : (s.write4 who acc n v).sk = s.sk := by
  unfold State.write4
  split
  case h_1 | h_2 => rfl
  case h_3 => exact writeReg_sk ..

theorem regWrite_sk (s : State) (who : Requester) (off n v : Nat) : (s.regWrite who off n v).sk = s.sk := by
  unfold State.regWrite
  split
  · rfl
  split
  case h_1 => split <;> rfl
  all_goals
    split
    · exact (write4_sk ..).trans (write4_sk ..)
    split
    · exact write4_sk ..
    · split <;> rfl

theorem readReg_sk (s : State) (who : Requester) (acc n off : Nat) : (s.readReg who acc n off).1.sk = s.sk := by
  unfold State.readReg
  dsimp only
  repeat' split
  all_goals rfl

theorem read4_sk {s t : State} {who : Requester} {acc n : Nat} {w : Word} (h : s.read4 who acc n = (t, w)) : t.sk = s.sk := by
  have hs : (s.read4 who acc n).1.sk = s.sk := by
    unfold State.read4
    split
    case h_1 | h_2 => rfl
    case h_3 => exact readReg_sk ..
  rwa [h] at hs

theorem regRead_sk (s : State) (who : Requester) (off n : Nat) : (s.regRead who off n).sk = s.sk := by
  unfold State.regRead
  split
  · rfl
  split
  case h_1 => split <;> rfl
  all_goals
    split
    · split
      next hlo =>
        split
        next hhi => exact (onDev_sk ..).trans ((read4_sk hhi).trans (read4_sk hlo))
    split
    · split
      next hw => exact (onDev_sk ..).trans (read4_sk hw)
    · rfl

theorem pageWrite_sk (s : State) (f : Fin 17) (base c n v : Nat) : (s.pageWrite f base c n v).sk = s.sk := by
  unfold State.pageWrite
  split
  · exact regWrite_sk ..
  · rfl

theorem ring_sk (s : State) (f : Fin 17) (c op : Nat) (lo hi : Word) : (s.ring f c op lo hi).sk = s.sk := pageWrite_sk ..

/-! ### Supplies, resets, the boot ROM and LOAD -/

theorem off_keepsFuses (s : State) : s.sk.KeepsFuses s.off.sk := rebooted_keepsFuses _

theorem supplyOff_keepsFuses (s : State) (mv : Nat) : s.sk.KeepsFuses (s.supplyOff mv).sk := by
  unfold State.supplyOff
  split
  · exact .refl _
  · exact off_keepsFuses s

theorem trip_keepsFuses (s : State) (die temp : Nat) : s.sk.KeepsFuses (s.trip die temp).sk := by
  unfold State.trip
  split
  · exact .refl _
  · exact off_keepsFuses s

theorem loss50_keepsFuses (s : State) : s.sk.KeepsFuses s.loss50.sk := by
  unfold State.loss50
  dsimp only
  split
  · exact .refl _
  · exact off_keepsFuses s

theorem powerUp_sk (s : State) : s.powerUp.sk = s.sk := by
  unfold State.powerUp
  repeat' split
  all_goals rfl

theorem lehrLoss_keepsFuses (s : State) : s.sk.KeepsFuses s.lehrLoss.sk := by
  unfold State.lehrLoss
  dsimp only [onDev_sk]
  split
  · exact off_keepsFuses s
  · exact .refl _

theorem modReset_keepsFuses (s : State) : s.sk.KeepsFuses s.modReset.sk := by
  unfold State.modReset
  split
  case h_1 | h_2 => exact .refl _
  all_goals exact rebooted_keepsFuses _

theorem chatterHold_keepsFuses (s : State) (n : Nat) : s.sk.KeepsFuses (s.chatterHold n).sk := by
  unfold State.chatterHold
  dsimp only
  split
  · exact .refl _
  split
  · exact .of_sk_eq (by simp only [onDev_sk])
  split
  · exact modReset_keepsFuses (onDev _ s)
  · split <;> exact .of_sk_eq (by simp only [onDev_sk])

/-- The header of a slot gives an SVN of at most 64 (R570). -/
theorem boot_keepsFuses (s : State) : s.sk.KeepsFuses s.boot.sk := by
  unfold State.boot
  dsimp only
  split
  next n _ => exact ⟨rfl, fun _ => Nat.le_of_lt_succ (Config.firmwareHeader (s.sk.slotOf n).image).1.isLt⟩
  next => exact .of_eq rfl rfl

theorem firmwareBoot_keepsFuses (s : State) : s.sk.KeepsFuses s.firmwareBoot.sk := by
  unfold State.firmwareBoot
  split
  · exact .refl _
  · rw [onDev_sk]
    exact boot_keepsFuses s

theorem load_keepsFuses (s : State) (c : Nat) (image hosts : Option (List Byte)) : s.sk.KeepsFuses (s.load c image hosts).sk := by
  unfold State.load
  split
  · exact .refl _
  split
  · exact .refl _
  split
  · exact .refl _
  dsimp only
  split
  · exact .of_eq rfl rfl
  · exact .refl _

/-! ### The ways of serving a management request

Each of them leaves Skeop as it was, or as the request's own function does. -/

section
variable {P : Skeop → Prop} {s : State} {r : MgmtReq} {f : State → State}

theorem spdm_sk_cases (h : P s.sk) (hf : P (f s).sk) : P (s.spdm r f).sk := by
  unfold State.spdm
  split
  · exact h
  split
  · exact h
  · exact hf

theorem control_sk_cases (h : P s.sk) (hf : P (f s).sk) : P (s.control r f).sk := by
  unfold State.control
  split
  · exact h
  · exact spdm_sk_cases h hf

theorem pldm_sk_cases {update : Bool} (h : P s.sk) (hf : P (f s).sk) : P (s.pldm r update f).sk := by
  unfold State.pldm
  split
  · exact h
  · exact spdm_sk_cases h hf

theorem negotiated_sk_cases {code : Nat} (h : P s.sk) (hf : P (f s).sk) : P (s.negotiated r code f).sk := by
  refine spdm_sk_cases h ?_
  split
  · exact hf
  · exact h

theorem authorised_sk_cases {n : Nat} {may : Bool} {f : State → State × Nat × List Byte} (h : P s.sk) (hf : P (f s).1.sk) :
    P (s.authorised r n may f).sk := by
  unfold State.authorised
  dsimp only
  split
  · exact h
  refine spdm_sk_cases h ?_
  split
  · exact h
  split
  · exact h
  · split <;> exact hf

end

/-! ### Authorised commands (R578) -/

theorem setOwner_keepsFuses (s : State) (r : MgmtReq) (key : List Byte) : s.sk.KeepsFuses (s.setOwner r key).sk :=
  authorised_sk_cases (.refl _) (.of_eq rfl rfl)

theorem setMode_keepsFuses (s : State) (r : MgmtReq) (mode : Nat) : s.sk.KeepsFuses (s.setMode r mode).sk := by
  refine authorised_sk_cases (.refl _) ?_
  dsimp only
  repeat' split
  all_goals exact .of_eq rfl rfl

theorem clearEvr_sk (s : State) (r : MgmtReq) : (s.clearEvr r).sk = s.sk := authorised_sk_cases (P := (· = s.sk)) rfl rfl

/-- COMMIT_SVN leaves Skeop as it was, or sets the minimum to a value that the running firmware's SVN reaches. -/
theorem commitSvn_sk (s : State) (r : MgmtReq) (v : Nat) :
    (s.commitSvn r v).sk = s.sk ∨ v ≤ s.sk.svnRun ∧ (s.commitSvn r v).sk = { s.sk with fusedSvn := v } := by
  refine authorised_sk_cases (P := fun k => k = s.sk ∨ v ≤ s.sk.svnRun ∧ k = { s.sk with fusedSvn := v }) (.inl rfl) ?_
  dsimp only
  split
  · exact .inl rfl
  next hv =>
    split
    · exact .inl rfl
    · exact .inr ⟨Nat.le_of_not_lt hv, rfl⟩

theorem setImageKey_keepsFuses (s : State) (r : MgmtReq) (slot : Nat) (kindD : Bool) (key : List Byte) :
    s.sk.KeepsFuses (s.setImageKey r slot kindD key).sk := by
  refine authorised_sk_cases (.refl _) ?_
  dsimp only
  split
  · exact .refl _
  · dsimp only
    split <;> exact .of_eq rfl rfl

theorem setLinkKey_keepsFuses (s : State) (r : MgmtReq) (port slot : Nat) (key : List Byte) :
    s.sk.KeepsFuses (s.setLinkKey r port slot key).sk := by
  refine authorised_sk_cases (.refl _) ?_
  dsimp only
  repeat' split
  all_goals exact .of_eq rfl rfl

theorem challengeDebug_keepsFuses (s : State) (r : MgmtReq) : s.sk.KeepsFuses (s.challengeDebug r).sk :=
  authorised_sk_cases (.refl _) (.of_eq rfl rfl)

theorem unlockDebug_keepsFuses (s : State) (r : MgmtReq) (level : Nat) (sig : List Byte) :
    s.sk.KeepsFuses (s.unlockDebug r level sig).sk := by
  refine authorised_sk_cases (.refl _) ?_
  dsimp only
  repeat' split
  all_goals exact .of_eq rfl rfl

theorem clearMap_sk (s : State) (r : MgmtReq) (which : Nat) : (s.clearMap r which).sk = s.sk := by
  refine authorised_sk_cases (P := (· = s.sk)) rfl ?_
  dsimp only
  split <;> rfl

theorem setExport_keepsFuses (s : State) (r : MgmtReq) (collector : List Byte) (port kinds minSev : Nat) :
    s.sk.KeepsFuses (s.setExport r collector port kinds minSev).sk := authorised_sk_cases (.refl _) (.of_eq rfl rfl)

/-! ### MCTP, SPDM and PLDM (R572 to R576, R571, R580, R581) -/

theorem packet_keepsFuses (s : State) (bus : Bus) (eid dest : Byte) (pecOk som eom : Bool) (type : Nat) (data : List Byte) :
    s.sk.KeepsFuses (s.packet bus eid dest pecOk som eom type data).sk := by
  unfold State.packet
  dsimp only
  repeat' split
  all_goals exact .of_eq rfl rfl

theorem sclTimeout_keepsFuses (s : State) : s.sk.KeepsFuses s.sclTimeout.sk := by
  unfold State.sclTimeout
  split
  · exact .refl _
  · dsimp only [onDev_sk, onSk_sk]
    split <;> exact .of_eq rfl rfl

theorem setEid_keepsFuses (s : State) (r : MgmtReq) (eid : Byte) : s.sk.KeepsFuses (s.setEid r eid).sk := by
  refine control_sk_cases (.refl _) ?_
  split <;> exact .of_eq rfl rfl

theorem certificate_sk (s : State) (r : MgmtReq) (slot off len : Nat) : (s.certificate r slot off len).sk = s.sk := by
  refine negotiated_sk_cases (P := (· = s.sk)) rfl ?_
  dsimp only
  split <;> rfl

theorem challenged_sk (s : State) (r : MgmtReq) (slot : Nat) (nonce : List Byte) : (s.challenged r slot nonce).sk = s.sk := by
  refine negotiated_sk_cases (P := (· = s.sk)) rfl ?_
  split <;> rfl

theorem measured_sk (s : State) (r : MgmtReq) (i : Nat) : (s.measured r i).sk = s.sk := by
  refine negotiated_sk_cases (P := (· = s.sk)) rfl ?_
  split <;> rfl

theorem keyExchange_keepsFuses (s : State) (r : MgmtReq) (owner : Bool) : s.sk.KeepsFuses (s.keyExchange r owner).sk := by
  refine negotiated_sk_cases (.refl _) ?_
  split <;> exact .of_eq rfl rfl

theorem finished_keepsFuses (s : State) (r : MgmtReq) (ok : Bool) : s.sk.KeepsFuses (s.finished r ok).sk := by
  refine spdm_sk_cases (.refl _) ?_
  repeat' split
  all_goals exact .of_eq rfl rfl

theorem session_keepsFuses (s : State) (r : MgmtReq) (code : Nat) (ends : Bool) : s.sk.KeepsFuses (s.session r code ends).sk := by
  refine spdm_sk_cases (.refl _) ?_
  split
  · exact .refl _
  · dsimp only [onDev_sk]
    split
    · exact close_keepsFuses ..
    · exact .refl _

theorem firmwareData_keepsFuses (s : State) (r : MgmtReq) (off : Nat) (data : List Byte) :
    s.sk.KeepsFuses (s.firmwareData r off data).sk :=
  pldm_sk_cases (.refl _) ((setSlot_keepsFuses s.sk s.sk.spare _).trans (.of_eq rfl rfl))

theorem firmwareVerify_keepsFuses (s : State) (r : MgmtReq) : s.sk.KeepsFuses (s.firmwareVerify r).sk := by
  refine pldm_sk_cases (.refl _) ?_
  dsimp only
  split
  · exact .refl _
  · exact (setSlot_keepsFuses s.sk s.sk.spare _).trans (.of_eq rfl rfl)

theorem firmwareActivate_keepsFuses (s : State) (r : MgmtReq) (selfContained : Bool) :
    s.sk.KeepsFuses (s.firmwareActivate r selfContained).sk := by
  refine pldm_sk_cases (.refl _) ?_
  dsimp only
  split <;> exact .of_eq rfl rfl

/-! ### Telemetry (R583) -/

theorem exportLoss_keepsFuses (s : State) : s.sk.KeepsFuses s.exportLoss.sk := by
  unfold State.exportLoss
  dsimp only
  repeat' split
  all_goals exact .of_eq rfl rfl

theorem exportSend_keepsFuses (s : State) : s.sk.KeepsFuses s.exportSend.sk := by
  refine (exportLoss_keepsFuses s).trans ?_
  unfold State.exportSend
  dsimp only
  repeat' split
  all_goals exact .of_eq rfl rfl

theorem exportReport_keepsFuses (s : State) : s.sk.KeepsFuses s.exportReport.sk := by
  refine (exportLoss_keepsFuses s).trans ?_
  unfold State.exportReport
  dsimp only
  repeat' split
  all_goals exact .of_eq rfl rfl

/-! ### Every command but COMMIT_SVN -/

/-- The commands that are not listed act on the device alone. -/
theorem exec_keepsFuses (s : State) {i : Instr} (h : ∀ r v, i ≠ .commitSvn r v) :
    ∃ t, exec i s = .next t ∧ s.sk.KeepsFuses t.sk := by
  cases i
  case commitSvn r v => exact absurd rfl (h r v)
  case registerWrite | sluiceResume | sluiceAbort | slcInvGo | updStepSizeWrite | updSeedWrite | replayArm | replayResume
      | captureEnable | portRetrainRequest | flmRtCommit | twinEnable | twinRjGo | twinRjRecv | forceStop | forceUnload
      | flipArm | fenceRequest | hostParkRequest | hostUnpark | evrCursorWrite =>
    exact ⟨_, rfl, .of_sk_eq (regWrite_sk ..)⟩
  case registerReadLo | illegalRegisterRead | evrWindowAutoRead => exact ⟨_, rfl, .of_sk_eq (regRead_sk ..)⟩
  case cmdDoorbell | cmdRingEnable | cplRingEnable | cplHeadWrite => exact ⟨_, rfl, .of_sk_eq (pageWrite_sk ..)⟩
  case syncDoorbellSignal | syncDoorbellArrival | syncDoorbellArm => exact ⟨_, rfl, .of_sk_eq (ring_sk ..)⟩
  case hopperOperandRead => exact ⟨_, rfl, by split <;> exact .refl _⟩
  case trapTake => exact ⟨_, rfl, by split <;> exact .refl _⟩
  case load => exact ⟨_, rfl, load_keepsFuses ..⟩
  case supply50vOff => exact ⟨_, rfl, supplyOff_keepsFuses ..⟩
  case thermalTrip => exact ⟨_, rfl, trip_keepsFuses ..⟩
  case powerLoss50v => exact ⟨_, rfl, loss50_keepsFuses s⟩
  case powerUp50v => exact ⟨_, rfl, .of_sk_eq (powerUp_sk s)⟩
  case lehrPowerLoss => exact ⟨_, rfl, lehrLoss_keepsFuses s⟩
  case modRstAssert => exact ⟨_, rfl, by split <;> [exact .refl _; exact modReset_keepsFuses s]⟩
  case inputChatterHold => exact ⟨_, rfl, chatterHold_keepsFuses ..⟩
  case firmwareBoot => exact ⟨_, rfl, firmwareBoot_keepsFuses s⟩
  case setOwner => exact ⟨_, rfl, setOwner_keepsFuses ..⟩
  case setMode => exact ⟨_, rfl, setMode_keepsFuses ..⟩
  case evrClear => exact ⟨_, rfl, .of_sk_eq (clearEvr_sk ..)⟩
  case setImageKey => exact ⟨_, rfl, setImageKey_keepsFuses ..⟩
  case setLinkKey => exact ⟨_, rfl, setLinkKey_keepsFuses ..⟩
  case debugChallenge => exact ⟨_, rfl, challengeDebug_keepsFuses ..⟩
  case debugUnlock => exact ⟨_, rfl, unlockDebug_keepsFuses ..⟩
  case debugNonceExpire => exact ⟨_, rfl, by split <;> exact .of_eq rfl rfl⟩
  case clearMap => exact ⟨_, rfl, .of_sk_eq (clearMap_sk ..)⟩
  case setExport => exact ⟨_, rfl, setExport_keepsFuses ..⟩
  case mctpPacketReceive => exact ⟨_, rfl, packet_keepsFuses ..⟩
  case busSclTimeout => exact ⟨_, rfl, sclTimeout_keepsFuses s⟩
  case setEndpointId => exact ⟨_, rfl, setEid_keepsFuses ..⟩
  case getEndpointId | getVersionSupport | getMessageTypeSupport | getEndpointUuid =>
    exact ⟨_, rfl, control_sk_cases (.refl _) (.refl _)⟩
  case getVersion | getCapabilities | negotiateAlgorithms => exact ⟨_, rfl, spdm_sk_cases (.refl _) (.of_eq rfl rfl)⟩
  case getDigests => exact ⟨_, rfl, negotiated_sk_cases (.refl _) (.refl _)⟩
  case getCertificate => exact ⟨_, rfl, .of_sk_eq (certificate_sk ..)⟩
  case challenge => exact ⟨_, rfl, .of_sk_eq (challenged_sk ..)⟩
  case getMeasurements => exact ⟨_, rfl, .of_sk_eq (measured_sk ..)⟩
  case keyExchange => exact ⟨_, rfl, keyExchange_keepsFuses ..⟩
  case finish => exact ⟨_, rfl, finished_keepsFuses ..⟩
  case endSession | heartbeat => exact ⟨_, rfl, session_keepsFuses ..⟩
  case pldmBaseRequest | getPdr | getSensorReading => exact ⟨_, rfl, pldm_sk_cases (.refl _) (.refl _)⟩
  case getStateSensorReadings => exact ⟨_, rfl, pldm_sk_cases (.refl _) (by split <;> exact .refl _)⟩
  case pldmFirmwareTransfer => exact ⟨_, rfl, firmwareData_keepsFuses ..⟩
  case verifyComplete => exact ⟨_, rfl, firmwareVerify_keepsFuses ..⟩
  case activateFirmware => exact ⟨_, rfl, firmwareActivate_keepsFuses ..⟩
  case exportDatagramSend => exact ⟨_, rfl, exportSend_keepsFuses s⟩
  case exportLostReport => exact ⟨_, rfl, exportReport_keepsFuses s⟩
  all_goals exact ⟨_, rfl, onDev_keepsFuses ..⟩

/-! ### COMMIT_SVN by the owner -/

theorem inSession_of_byOwner {k : Skeop} {r : MgmtReq} (h : k.byOwner r = true) : k.inSession r = true := by
  unfold Skeop.byOwner at h
  unfold Skeop.inSession
  cases hx : k.sessionOf r with
  | none => simp [hx] at h
  | some x =>
    simp only [hx, Option.map_some, Option.getD_some, Bool.and_eq_true] at h ⊢
    obtain ⟨⟨hest, _⟩, _⟩ := h
    exact hest

/-- An authorised command that the owner may use runs, and its status says whether it is answered or refused (R578). -/
theorem authorised_of_ownerAsks {s : State} {r : MgmtReq} {n : Nat} {may : Bool} (h : OwnerAsks s r) (hm : may = true)
    (f : State → State × Nat × List Byte) :
    s.authorised r n may f =
      if (f s).2.1 = sOk then onDev (fun d => d.mgmtAnswer r (Config.commandCode n).toNat sOk (f s).2.2) (f s).1
      else onDev (fun d => d.mgmtRefuse r 0 (Config.commandCode n).toNat (f s).2.1) (f s).1 := by
  obtain ⟨⟨hrun, hbus⟩, hown, hbusy⟩ := h
  simp [State.authorised, State.spdm, hrun, hbus, hbusy, hm, inSession_of_byOwner hown]

/-- COMMIT_SVN by the owner is refused above the running firmware's SVN; else it is answered, and only a minimum below the value is
raised (R570). -/
theorem exec_commitSvn {s : State} {r : MgmtReq} (h : OwnerAsks s r) (hm : s.sk.mode = .startUp ∨ s.sk.mode = .recovery) (v : Nat) :
    exec (.commitSvn r v) s = .next (
      if s.sk.svnRun < v then onDev (fun d => d.mgmtRefuse r 0 (Config.commandCode 3).toNat sParam) s
      else onDev (fun d => d.mgmtAnswer r (Config.commandCode 3).toNat sOk [])
        (if v ≤ s.sk.fusedSvn then s
        else { s with sk := { s.sk with fusedSvn := v }, dev := s.dev.event 0xA005 s.sk.fusedSvn v 0 0 })) := by
  have hmay : (s.sk.byOwner r && s.sk.setup) = true := by
    obtain ⟨_, hown, _⟩ := h
    simp [Skeop.setup, hown, hm]
  change Host.Outcome.next (s.authorised r 3 _ _) = _
  rw [authorised_of_ownerAsks h hmay]
  dsimp only
  split
  · rfl
  · split <;> rfl

/-! ### The statement -/

theorem exec_svnWithinFuses (s : State) (i : Instr) :
    ∃ t, exec i s = .next t ∧ ((∀ r v, i ≠ .commitSvn r v) → t.sk.fusedSvn = s.sk.fusedSvn) ∧
      (s.sk.svnRun ≤ 64 → s.sk.fusedSvn ≤ 64 → t.sk.svnRun ≤ 64 ∧ t.sk.fusedSvn ≤ 64) := by
  by_cases h : ∀ r v, i ≠ .commitSvn r v
  case pos =>
    obtain ⟨t, ht, hf, hr⟩ := exec_keepsFuses s h
    exact ⟨t, ht, fun _ => hf, fun h1 h2 => ⟨hr h1, hf ▸ h2⟩⟩
  case neg =>
    push Not at h
    obtain ⟨r, v, rfl⟩ := h
    refine ⟨s.commitSvn r v, rfl, fun hne => absurd rfl (hne r v), fun h1 h2 => ?_⟩
    rcases commitSvn_sk s r v with hk | ⟨hv, hk⟩
    · rw [hk]; exact ⟨h1, h2⟩
    · rw [hk]; exact ⟨h1, hv.trans h1⟩

/-- Settles O18: `exec_svnWithinFuses` for every command, `exec_commitSvn` for COMMIT_SVN. -/
theorem commitSvnOutcome : Obligations.CommitSvnOutcome := by
  refine ⟨exec_svnWithinFuses, fun s r v h hm => ?_⟩
  have he := exec_commitSvn h hm v
  refine ⟨fun hv => ?_, fun hv hle => ?_, fun hv hlt => ?_⟩
  case refine_1 => rwa [if_pos hv] at he
  case refine_2 => rwa [if_neg (Nat.not_lt.2 hv), if_pos hle] at he
  case refine_3 => rwa [if_neg (Nat.not_lt.2 hv), if_neg (Nat.not_le.2 hlt)] at he

end Sys2Proof.Machine
